-- ==== Sys2Proof/Word.lean ====
section
/-! DEFINITION. The word types of the Skeiraca 5120 (00 R2, 13 R271): a register and an instruction word are 64 bits,
a vector row is 4096 bits, a predicate is 512 bits. -/

namespace Sys2Proof

/-- A scalar register, an address, an instruction word. -/
abbrev Word := BitVec 64
/-- One byte of memory. -/
abbrev Byte := BitVec 8
/-- One row of a vector register or of an accumulator (00 R2). -/
abbrev Row := BitVec 4096
/-- A predicate register (00 R2). -/
abbrev Pred := BitVec 512
/-- A scalar or vector register number. -/
abbrev Reg := BitVec 5
/-- A predicate register number. -/
abbrev PReg := BitVec 4
/-- A queue number, a window number, or the index of an accumulator (t0 + i) or a descriptor (t8 + i). -/
abbrev Idx3 := BitVec 3
/-- A tile register number t0–t15. -/
abbrev TReg := BitVec 4

end Sys2Proof
end

