-- ==== Sys2Proof/Machine/Bits.lean ====
section
/-! DEFINITION. Bit fields, sign extension and byte order on natural numbers and bit vectors. -/

namespace Sys2Proof.Machine

/-- Bits [lo + len − 1 : lo] of a number. -/
def bits (n lo len : Nat) : Nat := n / 2 ^ lo % 2 ^ len

/-- One bit of a number. -/
def bitAt (n i : Nat) : Bool := n.testBit i

/-- A number with bits [lo + len − 1 : lo] replaced by the low `len` bits of `v`. -/
def setBits (n lo len v : Nat) : Nat :=
  n / 2 ^ (lo + len) * 2 ^ (lo + len) + v % 2 ^ len * 2 ^ lo + n % 2 ^ lo

/-- A `w`-bit number read as two's complement. -/
def toSigned (w n : Nat) : Int :=
  let m := n % 2 ^ w
  if 2 * m < 2 ^ w then (m : Int) else (m : Int) - (2 : Int) ^ w

/-- The low `w` bits of an integer, as a number. -/
def ofSigned (w : Nat) (i : Int) : Nat := (i % (2 : Int) ^ w).toNat

/-- Sign extension of the low `w` bits to 64 bits. -/
def sext64 (w n : Nat) : Word := BitVec.ofInt 64 (toSigned w n)

/-- Byte `i` of a number, the least significant byte first (06 R156). -/
def byteOf (n i : Nat) : Byte := BitVec.ofNat 8 (n / 2 ^ (8 * i))

/-- The number whose bytes, least significant first, are the list (06 R156). -/
def ofBytes : List Byte → Nat
  | [] => 0
  | b :: t => b.toNat + 256 * ofBytes t

/-- The first `n` bytes of a number, least significant first. -/
def toBytes (n v : Nat) : List Byte := (List.range n).map (byteOf v)

/-- A number rounded up to a multiple of `m`. -/
def roundUp (n m : Nat) : Nat := (n + m - 1) / m * m

/-- The largest `r` with `r * r ≤ n`, by one bit of the root per unit of fuel, highest first. -/
def isqrtAux (n : Nat) : Nat → Nat → Nat
  | 0, r => r
  | b + 1, r =>
    let r' := r + 2 ^ b
    if r' * r' ≤ n then isqrtAux n b r' else isqrtAux n b r

/-- The integer square root. -/
def isqrt (n : Nat) : Nat := isqrtAux n (n.log2 / 2 + 1) 0

/-- The items of a list whose index satisfies the test are changed. -/
def List.modifyAt {α : Type} (l : List α) (i : Nat) (f : α → α) : List α :=
  match l, i with
  | [], _ => []
  | x :: t, 0 => f x :: t
  | x :: t, j + 1 => x :: modifyAt t j f

end Sys2Proof.Machine
end

