-- ==== Sys2Proof/Syntax.lean ====
section
/-! DEFINITION. The steps of the machine: one constructor of `Instr` per row of spec/opcode_table.json. Instructions carry
their decoded operands; an event carries what the spec leaves to the outside or to chance. -/

namespace Sys2Proof

/-- The type slot: the TYC codes of 13 R273. -/
inductive Ty
  | i8 | i16 | i32 | i64 | n8 | n16 | n32 | n64
  | f64 | f32 | bf16 | f16 | e4m3 | e5m2 | fp4
  | bp2 | bp3 | bp4 | bp5 | bp6 | bp7 | bp8
  deriving DecidableEq, Repr

/-- The rounding slot: the RM codes of 06 R139. -/
inductive Rm
  | rne | rtz | rdn | rup | rmm | dyn
  deriving DecidableEq, Repr

/-- The five scopes of 04 R96. -/
inductive Scope
  | core | cluster | die | pkg | sys
  deriving DecidableEq, Repr

/-- The acquire-or-release slot of 13 R274. -/
inductive AcqRel
  | rlx | acq (s : Scope) | rel (s : Scope) | acqrel (s : Scope)
  deriving DecidableEq, Repr

/-- The integer conditions icc of 13 R278. -/
inductive Icc
  | eq | ne | lt | ge | le | gt | ltn | gen | len | gtn
  deriving DecidableEq, Repr

/-- The float conditions fcc of 13 R278. -/
inductive Fcc
  | eq | ne | lt | ge | le | gt | un | or
  deriving DecidableEq, Repr

/-- The sign operations of `fsgn` (13 R278). -/
inductive SgnOp
  | inj | injn | injx
  deriving DecidableEq, Repr

/-- The reductions of `vred` and `vscan`; `vfred` takes the first three (13 R278). -/
inductive RedOp
  | add | min | max | and | or | xor
  deriving DecidableEq, Repr

/-- The operations of `amo` and `vamo` (13 R278). -/
inductive AmoOp
  | swap | add | and | or | xor | min | max
  deriving DecidableEq, Repr

/-- The forms of `mvrv` (13 R278). -/
inductive RvOp
  | rev | inv | conj
  deriving DecidableEq, Repr

/-- The tests of `tv.cmp`, the senses of `tv.br`, the forms of `tv.mov` (13 R278, 18 R398). -/
inductive TvCmp
  | mask | stk | leaf | cand
  deriving DecidableEq, Repr
inductive TvBr
  | f | t | always
  deriving DecidableEq, Repr
inductive TvMov
  | leafi | near
  deriving DecidableEq, Repr

/-- The activation types of `mmul` and `mmulx` (17 R359). -/
inductive MmTy
  | e4m3 | e5m2 | i8 | fp4 | bf16 | f16 | f32 | f64
  deriving DecidableEq, Repr

/-- The state registers by SRN (13 R279). -/
inductive Srn
  | fctl | fstat | vtype | vl | rc | spz | qdir | mcc | hwin | pto | sendarg
  | tcause | taddr | tpc | tnpc | tinfo | tsp | hstat | es | ftr | tqp
  | fmr (i : Idx3) | wix (i : Idx3) | wext (i : Idx3) | rfrb | rdrb | rib (i : Idx3)
  deriving DecidableEq, Repr

/-- A second source that is a register or, with IM = 1, the immediate. -/
inductive Src
  | reg (r : Reg) | imm (i : BitVec 14)
  deriving DecidableEq, Repr

/-- A vector source that is a vector register or, with XS = 1, a broadcast scalar register. -/
inductive VSrc
  | vec (r : Reg) | scal (r : Reg)
  deriving DecidableEq, Repr

/-- The operands of the scalar integer family (14 R291): type, destination, two sources. -/
structure IntArgs where
  t : Ty
  d : Reg
  a : Reg
  b : Src
  deriving DecidableEq, Repr

/-- Type, destination and one source. -/
structure UnArgs where
  t : Ty
  d : Reg
  a : Reg
  deriving DecidableEq, Repr

/-- The operands of a scalar float operation of two sources (14 R297). -/
structure FBinArgs where
  t : Ty
  rm : Rm
  sat : Bool
  d : Reg
  a : Reg
  b : Reg
  deriving DecidableEq, Repr

/-- The operands common to the queued element-wise members: type, governing predicate, destination, sources (15 R312). -/
structure VArgs where
  t : Ty
  pg : PReg
  d : Reg
  a : Reg
  b : VSrc
  deriving DecidableEq, Repr

/-- The operands of the float element-wise members of two sources (15 R321). -/
structure VFArgs where
  t : Ty
  rm : Rm
  sat : Bool
  pg : PReg
  d : Reg
  a : Reg
  b : VSrc
  deriving DecidableEq, Repr

/-- The operands of a float element-wise member of one source (15 R321). -/
structure VFUnArgs where
  t : Ty
  rm : Rm
  sat : Bool
  pg : PReg
  d : Reg
  a : Reg
  deriving DecidableEq, Repr

/-- The operands of a multivector member of two sources; `k` is the grade-mask modifier, none for `.gi` (15 R329). -/
structure MvArgs where
  t : Ty
  rm : Rm
  pg : PReg
  k : Option (BitVec 5)
  d : Reg
  a : Reg
  b : Reg
  deriving DecidableEq, Repr

/-- The operands of a multivector member of one source. -/
structure MvUnArgs where
  t : Ty
  rm : Rm
  pg : PReg
  k : Option (BitVec 5)
  d : Reg
  a : Reg
  deriving DecidableEq, Repr

/-- A memory operand `[xa + off]` or `spad[xa + off]` (16 R334). -/
structure Addr where
  sp : Bool
  a : Reg
  off : BitVec 14
  deriving DecidableEq, Repr

/-- The operands of `ld` and `st` (16 R335). -/
structure MemArgs where
  t : Ty
  d : Reg
  m : Addr
  ar : AcqRel
  deriving DecidableEq, Repr

/-- The operands common to the vector memory members (16 R337). -/
structure VMemArgs where
  t : Ty
  pg : PReg
  d : Reg
  m : Addr
  ar : AcqRel
  ord : Bool
  deriving DecidableEq, Repr

/-- The operands of `amo`, `cas`, `vsca`, `vamo` (16 R340 to R346): type, rounding, data, address, second register. -/
structure AmoArgs where
  t : Ty
  rm : Rm
  d : Reg
  m : Addr
  b : Reg
  ar : AcqRel
  deriving DecidableEq, Repr

/-- The token of an engine command: a register of the access hart, or with `.et` of the execute hart (18 R382). -/
structure Tok where
  d : Reg
  et : Bool
  deriving DecidableEq, Repr

/-- The operands of the copy commands (18 R382, R387): token, RSP, the spaces, three registers, chunk mask and size. -/
structure CpyArgs where
  tok : Tok
  rsp : Bool
  ss : Bool
  ds : Bool
  a : Reg
  b : Reg
  c : Reg
  mask : Option PReg
  ck : BitVec 4
  deriving DecidableEq, Repr

/-- The second operand of `vslide`. -/
inductive Slide
  | imm (i : BitVec 14) | scal (r : Reg)
  deriving DecidableEq, Repr

/-- The source of `vbcast`: one element of a register, or a scalar register. -/
inductive Bcast
  | elem (a : Reg) (i : BitVec 14) | scal (r : Reg)
  deriving DecidableEq, Repr

/-- The destination of `barw`: a scalar register, or with PD = 1 a predicate. -/
inductive BarDst
  | x (d : Reg) | p (d : PReg)
  deriving DecidableEq, Repr

/-- The register forms of a P-form slot, POP 0x01–0x0F (13 R281). -/
inductive SlotAlu
  | add | sub | mul | and | or | xor | andn | shl | shr | sra | rot | min | max | minn | maxn
  deriving DecidableEq, Repr
/-- The immediate forms of a P-form slot, POP 0x10–0x13. -/
inductive SlotImm
  | add | and | or | xor
  deriving DecidableEq, Repr
/-- The shift forms of a P-form slot, POP 0x14–0x17. -/
inductive SlotSh
  | shl | shr | sra | rot
  deriving DecidableEq, Repr
/-- The one-source forms of a P-form slot, POP 0x19–0x1C. -/
inductive SlotUn
  | clz | ctz | pop | bswap
  deriving DecidableEq, Repr
/-- The compares of a P-form slot, POP 0x1D–0x1F. -/
inductive SlotCmp
  | eq | lt | ltn
  deriving DecidableEq, Repr
/-- The loads and stores of a P-form slot, POP 0x20–0x28. -/
inductive SlotLd
  | n64 | n32 | i32 | n8 | spad
  deriving DecidableEq, Repr
inductive SlotSt
  | n64 | n32 | n8 | spad
  deriving DecidableEq, Repr
/-- The float forms of a P-form slot, POP 0x34–0x3B. -/
inductive SlotF
  | fadd64 | fsub64 | fmul64 | fadd32 | fsub32 | fmul32 | fmin64 | fmax64
  deriving DecidableEq, Repr

/-- One slot of a P-form word (13 R281). -/
inductive Slot
  | nop
  | alu (op : SlotAlu) (d a b : Reg)
  | imm (op : SlotImm) (d a : Reg) (i : BitVec 15)
  | sh (op : SlotSh) (d a : Reg) (i : BitVec 6)
  | li (d : Reg) (i : BitVec 15)
  | un (op : SlotUn) (d a : Reg)
  | cmp (op : SlotCmp) (d a b : Reg)
  | ld (op : SlotLd) (d a : Reg) (i : BitVec 15)
  | st (op : SlotSt) (d a : Reg) (i : BitVec 15)
  | qwr (q : Idx3) (a : Reg)
  | qrd (d : Reg) (q : Idx3)
  | bz (a : Reg) (i : BitVec 15)
  | bnz (a : Reg) (i : BitVec 15)
  | b (i : BitVec 15)
  | flt (op : SlotF) (d a b : Reg)
  deriving DecidableEq, Repr

/-- What an access does, for translation (01 R12, R19, R30). -/
inductive Acc
  | fetch | read | write | rmw | majRead | majWrite
  deriving DecidableEq, Repr

/-- The party whose stall on a page with HOLD reaches its bound (01 R31): the hart in focus, a virtual processor, a ray, an engine
command. -/
inductive Party
  | hart | lane (e : Nat) | ray (k : Nat) | cmd (id : Nat)
  deriving DecidableEq, Repr

/-- What a request of another package does at its target (10 R234). -/
inductive RemoteOp
  | store
  | amo (op : AmoOp) (t : Ty) (rm : Rm)
  | cas (old : Word)
  deriving DecidableEq, Repr

/-- What BOOT_STAGE reports beside the stage (10 R230): FCODE, and the function of an image that the kernel verifies, as a die or the hub
with its readiness bit. -/
structure BootImage where
  fcode : BitVec 8
  die : Option Idx3
  bit : BitVec 4
  deriving DecidableEq, Repr

/-- The access of an outside party: a posted write of `n` bytes, or a read (04 R122). -/
inductive OutAcc
  | write (n : Nat) (val : Word)
  | read (n : Nat)
  deriving DecidableEq, Repr

/-- The steps of the machine, one constructor per row of spec/opcode_table.json, in the table's order. -/
inductive Instr
  -- integer arithmetic and logic, 14 R291 to R296
  | add (o : IntArgs) | sub (o : IntArgs) | mul (o : IntArgs) | mulh (o : IntArgs) | mulhn (o : IntArgs)
  | div (o : IntArgs) | divn (o : IntArgs) | rem (o : IntArgs) | remn (o : IntArgs)
  | and (o : IntArgs) | or (o : IntArgs) | xor (o : IntArgs) | andn (o : IntArgs)
  | shl (o : IntArgs) | shr (o : IntArgs) | sra (o : IntArgs) | rot (o : IntArgs)
  | min (o : IntArgs) | max (o : IntArgs) | minn (o : IntArgs) | maxn (o : IntArgs)
  | clz (o : UnArgs) | ctz (o : UnArgs) | pop (o : UnArgs) | bswap (o : UnArgs)
  | cmp (cc : Icc) (o : IntArgs)
  | sel (t : Ty) (d a b c : Reg)
  | li (d : Reg) (i : BitVec 48) | lih (d : Reg) (i : BitVec 16) | lea (d : Reg) (i : BitVec 48)
  -- scalar float, 14 R297 to R303
  | fadd (o : FBinArgs) | fsub (o : FBinArgs) | fmul (o : FBinArgs) | fdiv (o : FBinArgs)
  | fsqrt (t : Ty) (rm : Rm) (sat : Bool) (d a : Reg)
  | ffma (o : FBinArgs) (c : Reg)
  | fmin (o : FBinArgs) | fmax (o : FBinArgs)
  | fcmp (cc : Fcc) (t : Ty) (d a b : Reg)
  | fcvt (dt st : Ty) (rm : Rm) (sat : Bool) (d a : Reg)
  | fcls (o : UnArgs)
  | fsgn (op : SgnOp) (t : Ty) (d a b : Reg)
  -- branches and calls, 14 R304
  | b (i : BitVec 48) | bcc (cc : Icc) (a b : Reg) (i : BitVec 14) | call (i : BitVec 48) | ret
  | jr (a : Reg) | jcall (a : Reg) | bz (a : Reg) (i : BitVec 14) | bnz (a : Reg) (i : BitVec 14)
  -- queues and state, 14 R305 to R308
  | qwr (q : Idx3) (a : Reg) | qrd (d : Reg) (q : Idx3) | bq (nz cons : Bool) (q : Idx3) (i : BitVec 14)
  | qlvl (d : Reg) (q : Idx3)
  | sget (d : Reg) (r : Srn) | sset (r : Srn) (a : Reg) | sxchg (d : Reg) (r : Srn) (a : Reg)
  | nop
  | pFormPair (s0 s1 : Slot)
  -- length and shape, 15 R309, R310
  | setvl (d a : Reg) (mask : Option Reg) (vt : Option (BitVec 8))
  | setrc (n : Src) | vlenq (d : Reg)
  -- predicates, 15 R314 to R316
  | plim (d : PReg) (a : Reg)
  | pand (d a b : PReg) | por (d a b : PReg) | pxor (d a b : PReg) | pnot (d a : PReg)
  | pcnt (d : Reg) (pg a : PReg) | pfirst (d : Reg) (pg a : PReg)
  -- vector integer and movement, 15 R317 to R320
  | vadd (o : VArgs) | vsub (o : VArgs) | vmul (o : VArgs) | vmac (o : VArgs) | vmin (o : VArgs) | vmax (o : VArgs)
  | vabs (t : Ty) (pg : PReg) (d a : Reg)
  | vand (o : VArgs) | vor (o : VArgs) | vxor (o : VArgs) | vshl (o : VArgs) | vshr (o : VArgs) | vsra (o : VArgs)
  | vcmp (cc : Icc) (t : Ty) (pg : PReg) (d : PReg) (a : Reg) (b : VSrc)
  | vsel (o : VArgs)
  | vbcast (t : Ty) (pg : PReg) (d : Reg) (s : Bcast)
  | vidx (t : Ty) (pg : PReg) (d : Reg) (i : BitVec 14)
  | vperm (t : Ty) (pg : PReg) (d a b : Reg)
  | vslide (t : Ty) (pg : PReg) (d a : Reg) (s : Slide)
  | vred (op : RedOp) (t : Ty) (pg : PReg) (d a : Reg)
  | vscan (op : RedOp) (t : Ty) (pg : PReg) (d a : Reg)
  -- vector float, scales, planes, 15 R321 to R328
  | vfadd (o : VFArgs) | vfsub (o : VFArgs) | vfmul (o : VFArgs) | vfma (o : VFArgs) (c : Reg)
  | vfmin (o : VFArgs) | vfmax (o : VFArgs) | vfdiv (o : VFArgs) | vfsqrt (o : VFUnArgs) | vfrsq (o : VFUnArgs)
  | vfcmp (cc : Fcc) (t : Ty) (pg : PReg) (d : PReg) (a : Reg) (b : VSrc)
  | vfcvt (dt st : Ty) (rm : Rm) (sat : Bool) (pg : PReg) (d a : Reg)
  | vfred (op : RedOp) (t : Ty) (rm : Rm) (pg : PReg) (d a : Reg)
  | vscl (w : Ty) (pg : PReg) (d a : Reg) (i : BitVec 7)
  | vqnt (n w : Ty) (rm : Rm) (sat : Bool) (pg : PReg) (d a s : Reg) (i : BitVec 7)
  | vdqn (w n : Ty) (rm : Rm) (pg : PReg) (d a s : Reg) (i : BitVec 7)
  | vbpx (k : Ty) (pg : PReg) (d a : Reg)
  -- multivector, 15 R329 to R333
  | mvgp (o : MvArgs) | mvwd (o : MvArgs) | mvjn (o : MvArgs) | mvlc (o : MvArgs) | mvsw (o : MvArgs)
  | mvrv (op : RvOp) (o : MvUnArgs) | mvdl (o : MvUnArgs) | mvnm (o : MvUnArgs) | mvexp (o : MvUnArgs)
  | mvgmRd (d a : Reg) | mvgmWr (d : Reg) (k : BitVec 5)
  | mvrowExt (t : Ty) (pg : PReg) (d a : Reg) (r : BitVec 4)
  | mvrowIns (t : Ty) (pg : PReg) (d a : Reg) (r : BitVec 4)
  | vectorEntryExecute (slip : Option (BitVec 4 × Bool))
  | progressTimeout (port unit : BitVec 8)
  -- memory, 16 R335 to R343
  | ld (o : MemArgs) | st (o : MemArgs)
  | ldw (t : Ty) (d : Reg) (w : Idx3) (b : Reg) (off : BitVec 14) (ar : AcqRel)
  | vld (o : VMemArgs) (ft : Bool) | vlds (o : VMemArgs) (ft : Bool) (b : Reg) | vldg (o : VMemArgs) (ft : Bool) (nf : BitVec 3)
  | vst (o : VMemArgs) | vsts (o : VMemArgs) (b : Reg) | vstg (o : VMemArgs) (nf : BitVec 3)
  | vgth (o : VMemArgs) (b : Reg) | vsct (o : VMemArgs) (b : Reg)
  | vsca (o : AmoArgs) (pg : PReg) (ord : Bool)
  | vamo (op : AmoOp) (o : AmoArgs) (pg : PReg) (ord : Bool)
  | mvld (o : VMemArgs) (q : Option (BitVec 5)) | mvst (o : VMemArgs) (q : Option (BitVec 5))
  | vspill (d : Reg) (m : Addr) | vfill (d : Reg) (m : Addr)
  -- tag table, atomics, majority cells, fences, barriers, 16 R344 to R353
  | tlook (d a : Reg) | tset (slot : BitVec 12) (a : Reg) | tinv (slot : BitVec 12)
  | amo (op : AmoOp) (o : AmoArgs) | cas (o : AmoArgs)
  | mcld (d a b : Reg) (ar : AcqRel) | mcst (d a b : Reg) (ar : AcqRel) | mctag (a b : Reg) (ar : AcqRel)
  | majorityAnswer (k : Nat) | replicaWrite (k : Nat)
  | fence (s : Scope) (kinds : BitVec 5)
  | bari (a : Reg) (exp : BitVec 12) | bara (d a : Reg) (n : BitVec 5) | barw (dst : BarDst) (a b : Reg) (ph : BitVec 4)
  | barwRecheck | barwExpiry
  -- tiles, matrix, send, 17
  | tdesc (n : Idx3) (a b : Reg) | tclsSet (n : Idx3) (c : BitVec 3) | tclsRd (d : Reg) (n : Idx3) (h : Bool)
  | tld (t : Idx3) (n : Idx3) | tst (sat : Bool) (n : Idx3) (t : Idx3) | tzero (t : TReg)
  | mwld (b : Bool) (n : Idx3) (kp : BitVec 3) | mswap
  | mmul (set : Bool) (f : MmTy) (t n : Idx3) (kp : BitVec 3)
  | mmulx (set : Bool) (f : MmTy) (t n : Idx3) (b c : Reg) (kp : BitVec 3)
  | mrd (d : Reg) (t : Idx3) (row : BitVec 7) | mwr (t : Idx3) (s : Reg) (row : BitVec 7)
  | tcvt (n m : Idx3)
  | send (sel : BitVec 8) (td ta tb : TReg) | mtld (a b : Reg) | mtq (d : Reg) (sel : BitVec 8) (ta tb : TReg) | sdret
  | tsave (a : Reg) | tload (a : Reg)
  | matrixEntryExecute | accumulatorRowComplete (pass : Bool) | rowRecompute (pass : Bool)
  -- engines, 18 R381 to R397
  | cpy (o : CpyArgs) | cpy2 (o : CpyArgs) | cpyr (o : CpyArgs) | cpys (o : CpyArgs) | cpyk (tok : Tok)
  | gdg (tok : Tok) (a b c : Reg) (mask : Option PReg) (ck : BitVec 4)
  | gda (tok : Tok) (t : Ty) (a b c : Reg)
  | dsp (tok : Tok) (a : Reg) | cmb (tok : Tok) (a : Reg)
  | chunkComplete (cmd chunk : Nat) | tokenWrite (cmd : Nat) | nougatWindow (cmd window : Nat)
  | rtlay (tok : Tok) (a : Reg) | rtprog (tok : Tok) (a b : Reg) | rtin (tok : Tok) (a : Reg) | rtout (tok : Tok)
  | rtacc (tok : Tok) (a b : Reg)
  -- traversal micro-ops and rings, 09, 18 R398 to R400
  | tvFetch | tvLd | tvBox | tvTri | tvCmp (k : TvCmp) | tvPush | tvPop | tvLeaf | tvAcc
  | tvBr (k : TvBr) (target : BitVec 9) | tvMov (k : TvMov) | tvEnd
  | ringProduce (ray : Nat) | ringRetry (ray : Nat) | rayFault
  -- lane blocks and system, 18 R401 to R410
  | vtsend (p : PReg) (a : Reg) | vtwait (kill : Option PReg) | laneBlockRetire (e : Nat)
  | svc (n : BitVec 14) | tret | end_ | spawn (a : Reg) | join (d : Reg) | kill (d a : Reg) | idle (a : Reg)
  | pwr (d a : Reg) | chkm (d a : Reg) | halt (a : Reg)
  -- fetch, translation and its registers, 01
  | fetch (a : Word)
  | walkComplete (asid : BitVec 12) (va : Word) (k : Acc) (evict : Option Nat)
  | holdReread | holdStallBound (p : Party)
  | xatbWrite (v : Word) | xinvPage (asid : BitVec 12) (vpn : BitVec 45) | xinvAsid (asid : BitVec 12) | xinvAll
  | xmsetReload | xinvComplete | xvqRead (die : Idx3)
  -- checkpoint, majority registers, 02 R72 to R76, 03 R82 to R92
  | checkpointSave (stks : BitVec 24) | checkpointRestore (stks : BitVec 24)
  | checkpointGranuleCopy (g : Nat) | checkpointComplete (elapsed : BitVec 32)
  | mcbaseFloor (val : Bool) (count : BitVec 24) | mcbaseSetall (val : Bool) (count : BitVec 24)
  | mcrenew (mset : BitVec 4) (ppn : BitVec 40) | mcscrub (mset : BitVec 4) (ppn : BitVec 40)
  | scrubCorrection (sector : Nat) (seen : BitVec 512) (seenTag : Word) | stackFailure (k : BitVec 5)
  -- launch, scheduling, power, 10
  | lsubSubmit (die : Idx3) (addr : BitVec 44) (host : Bool)
  | itemPlacement (launch item core : Nat) | tick
  | shadowBankSwap (core launch item : Nat) | spillComplete (core : Nat) | swapBack (core : Nat)
  | completionWordWrite (launch : Nat) | lkill (cw : BitVec 54) | scanctl (core : BitVec 9) | scanComplete (pass : Bool)
  | leaveGrant (die : Idx3) | leaveTimeout | heavyOperationComplete (k : Nat)
  | readinessSet (die : Option Idx3) (bit : BitVec 4) | bootStage (stage : BitVec 8) (image : BootImage) | deviceReset
  -- the link, the host, Brioche, 10 R228 to R234, 11 R256, R257
  | linjctlArm (port : BitVec 7) (ctl : Word) (n : BitVec 32)
  | flitReceive (port : BitVec 7) (ok : Bool) | portDown (port : BitVec 7)
  | remoteRequest (op : RemoteOp) (addr : BitVec 41) (n : Nat) (val : Word)
  | hostAccess (addr : BitVec 52) (o : OutAcc) | deviceRegisterWrite (addr : BitVec 52) (val : Word)
  | briocheAccess (addr : BitVec 52) (o : OutAcc)
  | storeBecomesVisible (k : Nat) | idleExpiry | sectorError (sector : Nat) (correctable : Bool)
  deriving DecidableEq, Repr

end Sys2Proof
end

