-- ==== Sys2Proof/WellFormed.lean ====
section
/-! DEFINITION. The limits that the word alone decides (12 R260): types a member accepts, operands that must differ,
ranges of immediates. A word that breaks one raises ILLEGAL. Events have no word and no limits of this kind. -/

namespace Sys2Proof

/-- Width of a type in bits (14 R289). -/
def Ty.width : Ty → Nat
  | .i8 | .n8 => 8 | .i16 | .n16 => 16 | .i32 | .n32 => 32 | .i64 | .n64 => 64
  | .f64 => 64 | .f32 => 32 | .bf16 | .f16 => 16 | .e4m3 | .e5m2 => 8 | .fp4 => 4
  | .bp2 | .bp3 | .bp4 | .bp5 | .bp6 | .bp7 | .bp8 => 8

/-- The types .i8 … .n64. -/
def Ty.isInt : Ty → Bool
  | .i8 | .i16 | .i32 | .i64 | .n8 | .n16 | .n32 | .n64 => true
  | _ => false

/-- The types .i8 … .i64, whose operands are read as signed. -/
def Ty.isSigned : Ty → Bool
  | .i8 | .i16 | .i32 | .i64 => true
  | _ => false

/-- The FP8 types, the only ones with a saturation slot (12 R264). -/
def Ty.isFp8 : Ty → Bool
  | .e4m3 | .e5m2 => true
  | _ => false

/-- The float types of the scalar and vector float families (14 R297, 15 R321). -/
def Ty.isFloat : Ty → Bool
  | .f64 | .f32 | .bf16 | .f16 | .e4m3 | .e5m2 => true
  | _ => false

/-- The float types of atomics and of `vfred` (15 R324, 16 R340, R345). -/
def Ty.isWideFloat : Ty → Bool
  | .f64 | .f32 | .bf16 | .f16 => true
  | _ => false

/-- The types of the multivector family (07 R165). -/
def Ty.isMv : Ty → Bool
  | .f64 | .f32 | .bf16 => true
  | _ => false

/-- The bit-plane types. -/
def Ty.isBp : Ty → Bool
  | .bp2 | .bp3 | .bp4 | .bp5 | .bp6 | .bp7 | .bp8 => true
  | _ => false

/-- The number of planes a bit-plane type reads. -/
def Ty.planes : Ty → Nat
  | .bp2 => 2 | .bp3 => 3 | .bp4 => 4 | .bp5 => 5 | .bp6 => 6 | .bp7 => 7 | .bp8 => 8
  | _ => 0

/-- A saturation bit stands only with an FP8 destination (13 R277). -/
def satOk (t : Ty) (sat : Bool) : Bool := !sat || t.isFp8

/-- The icc codes of `cmp` and `vcmp`, 0–5 (13 R278). -/
def Icc.isCmp : Icc → Bool
  | .eq | .ne | .lt | .ge | .le | .gt => true
  | _ => false

/-- Acquire-or-release kinds a class allows (12 R264). -/
def AcqRel.isLoad : AcqRel → Bool
  | .rlx | .acq _ => true
  | _ => false
def AcqRel.isStore : AcqRel → Bool
  | .rlx | .rel _ => true
  | _ => false

def FBinArgs.wf (o : FBinArgs) : Bool := o.t.isFloat && satOk o.t o.sat
def FBinArgs.wfRne (o : FBinArgs) : Bool := o.wf && decide (o.rm = .rne)
def VFArgs.wf (o : VFArgs) : Bool := o.t.isFloat && satOk o.t o.sat
def VFUnArgs.wf (o : VFUnArgs) : Bool := o.t.isFloat && satOk o.t o.sat

/-- The types `vld` and `vst` accept; .fp4 is theirs alone (16 R338). -/
def vmemTy (fp4 : Bool) (t : Ty) : Bool := t.isInt || t.isFloat || (fp4 && decide (t = .fp4))

/-- Types and rounding of `amo`, `vamo` and `vsca` (16 R340, R341, R345): a float `.min` or `.max` has RM = 000 (14 R299), and of the three
`vamo` alone has the types of 8 bits (15 R311). -/
def amoTy (fp8 : Bool) (op : AmoOp) (o : AmoArgs) : Bool :=
  let float := o.t.isWideFloat || (fp8 && o.t.isFp8)
  match op with
  | .and | .or | .xor => o.t.isInt && decide (o.rm = .rne)
  | .min | .max => (o.t.isInt || float) && decide (o.rm = .rne)
  | .swap | .add => (o.t.isInt && decide (o.rm = .rne)) || float

/-- Registers of a segment member stay within v31, and a load's do not hold its base (16 R338). -/
def segOk (d : Reg) (nf : BitVec 3) : Bool := decide (1 ≤ nf.toNat) && decide (d.toNat + nf.toNat ≤ 31)
def outside (d : Reg) (nf : BitVec 3) (a : Reg) : Bool :=
  decide (a.toNat < d.toNat) || decide (d.toNat + nf.toNat < a.toNat)

/-- The types of a conversion: neither is a bit-plane type, they differ, not both are integers (14 R301). -/
def cvtOk (d s : Ty) (sat : Bool) : Bool :=
  !d.isBp && !s.isBp && decide (d ≠ s) && !(d.isInt && s.isInt) && satOk d sat

/-- The wide and narrow types of the scale family (15 R325). -/
def wideTy : Ty → Bool
  | .f32 | .bf16 | .f16 => true
  | _ => false
def narrowTy : Ty → Bool
  | .e4m3 | .e5m2 | .fp4 => true
  | _ => false

/-- A chunk mask names p1–p15, and without one CK is zero (18 R382). -/
def maskOk (m : Option PReg) (ck : BitVec 4) : Bool :=
  match m with
  | some p => decide (p ≠ 0#4)
  | none => decide (ck = 0#4)

def CpyArgs.wf (o : CpyArgs) (pair : Bool) : Bool :=
  maskOk o.mask o.ck && (!o.rsp || o.ss || o.ds) && (!pair || decide (o.c.toNat ≤ 30))

/-- The destination of a slot, if its POP writes a register (13 R282). -/
def Slot.dest : Slot → Option Reg
  | .alu _ d _ _ | .imm _ d _ _ | .sh _ d _ _ | .li d _ | .un _ d _ | .cmp _ d _ _ | .ld _ d _ _ | .qrd d _ | .flt _ d _ _ => some d
  | .nop | .st _ _ _ _ | .qwr _ _ | .bz _ _ | .bnz _ _ | .b _ => none

/-- POPs 0x20–0x30, memory or control (13 R282). -/
def Slot.isMemCtl : Slot → Bool
  | .ld _ _ _ _ | .st _ _ _ _ | .qwr _ _ | .qrd _ _ | .bz _ _ | .bnz _ _ | .b _ => true
  | .nop | .alu _ _ _ _ | .imm _ _ _ _ | .sh _ _ _ _ | .li _ _ | .un _ _ _ | .cmp _ _ _ _ | .flt _ _ _ _ => false

/-- The pairing rules of 13 R282. -/
def pairOk (a c : Slot) : Bool :=
  (match a.dest, c.dest with
   | some d, some e => decide (d.toNat % 2 ≠ e.toNat % 2)
   | _, _ => true) && !(a.isMemCtl && c.isMemCtl)

/-- The limits of an instruction that its word alone decides. -/
def Instr.wf : Instr → Bool
  | .add o => o.t.isInt && decide (o ≠ { t := .i8, d := 0#5, a := 0#5, b := .reg 0#5 })
  | .sub o | .mul o | .mulh o | .mulhn o | .div o | .divn o | .rem o | .remn o | .and o | .or o | .xor o | .andn o
  | .shl o | .shr o | .sra o | .rot o | .min o | .max o | .minn o | .maxn o => o.t.isInt
  | .clz o | .ctz o | .pop o | .bswap o => o.t.isInt
  | .cmp cc o => o.t.isInt && cc.isCmp
  | .sel t _ _ _ _ => t.isInt
  | .li _ _ | .lih _ _ | .lea _ _ => true
  | .fadd o | .fsub o | .fmul o | .fdiv o => o.wf
  | .fsqrt t _ sat _ _ => t.isFloat && satOk t sat
  | .ffma o _ => o.wf
  | .fmin o | .fmax o => o.wfRne
  | .fcmp _ t _ _ _ => t.isFloat
  | .fcvt d s _ sat _ _ => cvtOk d s sat
  | .fcls o => o.t.isFloat
  | .fsgn _ t _ _ _ => t.isFloat
  | .b _ | .bcc _ _ _ _ | .call _ | .ret | .jr _ | .jcall _ | .bz _ _ | .bnz _ _ => true
  | .qwr _ _ | .qrd _ _ | .bq _ _ _ _ | .qlvl _ _ | .sget _ _ | .sset _ _ | .sxchg _ _ _ | .nop => true
  | .pFormPair u v => pairOk u v
  | .setvl _ _ _ _ => true
  | .setrc n => match n with
    | .imm i => decide (1 ≤ i.toNat) && decide (i.toNat ≤ 16)
    | .reg _ => true
  | .vlenq _ | .plim _ _ | .pand _ _ _ | .por _ _ _ | .pxor _ _ _ | .pnot _ _ | .pcnt _ _ _ | .pfirst _ _ _ => true
  | .vadd o | .vsub o | .vmul o | .vmac o | .vmin o | .vmax o | .vand o | .vor o | .vxor o | .vshl o | .vshr o | .vsra o =>
    o.t.isInt
  | .vabs t _ _ _ => t.isSigned
  | .vcmp cc t _ _ _ _ => t.isInt && cc.isCmp
  | .vsel o => o.t.isInt || o.t.isFloat
  | .vbcast t _ _ _ | .vidx t _ _ _ => t.isInt || t.isFloat
  | .vperm t _ d a e => (t.isInt || t.isFloat) && decide (d ≠ a) && decide (d ≠ e)
  | .vslide t _ d a _ => (t.isInt || t.isFloat) && decide (d ≠ a)
  | .vred _ t _ _ _ | .vscan _ t _ _ _ => t.isInt
  | .vfadd o | .vfsub o | .vfmul o | .vfdiv o => o.wf
  | .vfma o _ => o.wf
  | .vfmin o | .vfmax o => o.wf && decide (o.rm = .rne)
  | .vfsqrt o | .vfrsq o => o.wf
  | .vfcmp _ t _ _ _ _ => t.isFloat
  | .vfcvt d s _ sat _ rd ra => cvtOk d s sat && (decide (d.width = s.width) || decide (rd ≠ ra))
  | .vfred op t rm _ _ _ => t.isWideFloat && match op with
    | .add => true
    | .min | .max => decide (rm = .rne)
    | .and | .or | .xor => false
  | .vscl w _ _ _ _ => wideTy w
  | .vqnt n w _ sat _ d a s _ => narrowTy n && wideTy w && satOk n sat && decide (d ≠ a) && decide (d ≠ s)
  | .vdqn w n _ _ d a s _ => narrowTy n && wideTy w && decide (d ≠ a) && decide (d ≠ s)
  | .vbpx k _ d a => k.isBp && decide (d ≠ a)
  | .mvgp o | .mvwd o | .mvjn o | .mvlc o => o.t.isMv
  | .mvsw o => o.t.isMv && decide (o.d ≠ o.a)
  | .mvrv _ o | .mvdl o | .mvnm o | .mvexp o => o.t.isMv
  | .mvgmRd _ _ | .mvgmWr _ _ => true
  | .mvrowExt t _ _ _ _ | .mvrowIns t _ _ _ _ => t.isMv
  | .ld o => (o.t.isInt || o.t.isFloat) && o.ar.isLoad
  | .st o => (o.t.isInt || o.t.isFloat) && o.ar.isStore
  | .ldw t _ _ _ _ ar => (t.isInt || t.isFloat) && ar.isLoad
  | .vld o _ => vmemTy true o.t && o.ar.isLoad && decide (o.d ≠ o.m.a)
  | .vlds o _ e => vmemTy false o.t && o.ar.isLoad && decide (o.d ≠ o.m.a) && decide (o.d ≠ e)
  | .vldg o _ nf => vmemTy false o.t && o.ar.isLoad && segOk o.d nf && outside o.d nf o.m.a
  | .vst o => vmemTy true o.t && o.ar.isStore
  | .vsts o _ => vmemTy false o.t && o.ar.isStore
  | .vstg o nf => vmemTy false o.t && o.ar.isStore && segOk o.d nf
  | .vgth o e => vmemTy false o.t && o.ar.isLoad && decide (o.d ≠ o.m.a) && decide (o.d ≠ e)
  | .vsct o _ => vmemTy false o.t && o.ar.isStore
  | .vsca o _ _ => amoTy false .add o
  | .vamo op o _ _ => amoTy true op o && decide (o.d ≠ o.b) && decide (o.d ≠ o.m.a)
  | .mvld o _ => o.t.isMv && o.ar.isLoad && decide (o.d ≠ o.m.a)
  | .mvst o _ => o.t.isMv && o.ar.isStore
  | .vspill _ _ => true
  | .vfill d m => decide (d ≠ m.a)
  | .tlook _ _ | .tset _ _ | .tinv _ => true
  | .amo op o => amoTy false op o
  | .cas o => o.t.isInt && decide (o.rm = .rne)
  | .mcld d a e ar => ar.isLoad && decide (d ≠ a) && decide (d ≠ e)
  | .mcst _ a e ar => ar.isStore && decide (e ≠ a)
  | .mctag _ _ ar => ar.isLoad
  | .fence _ k => decide (k ≠ 0#5)
  | .bari _ e => decide (e ≠ 0#12)
  | .bara _ _ n => decide (1 ≤ n.toNat) && decide (n.toNat ≤ 16)
  | .barw _ _ _ _ => true
  | .tdesc _ _ _ | .tclsSet _ _ | .tclsRd _ _ _ | .tld _ _ | .tst _ _ _ | .tzero _ | .mwld _ _ _ | .mswap
  | .mmul _ _ _ _ _ | .mmulx _ _ _ _ _ _ _ | .mrd _ _ _ | .mwr _ _ _ | .tcvt _ _ | .send _ _ _ _ | .mtld _ _
  | .mtq _ _ _ _ | .sdret | .tsave _ | .tload _ => true
  | .cpy o => o.wf false
  | .cpy2 o | .cpyr o | .cpys o => o.wf true
  | .cpyk _ => true
  | .gdg _ _ _ c m ck => maskOk m ck && decide (c.toNat ≤ 30)
  | .gda _ t _ _ c => decide (c.toNat ≤ 30) && match t with
    | .i32 | .i64 | .n32 | .n64 | .f64 | .f32 | .bf16 | .f16 => true
    | _ => false
  | .dsp _ _ | .cmb _ _ | .rtlay _ _ | .rtprog _ _ _ | .rtin _ _ | .rtout _ | .rtacc _ _ _ => true
  | .tvFetch | .tvLd | .tvBox | .tvTri | .tvCmp _ | .tvPush | .tvPop | .tvLeaf | .tvAcc | .tvBr _ _ | .tvMov _ | .tvEnd => true
  | .vtsend _ _ | .vtwait _ | .svc _ | .tret | .end_ | .spawn _ | .join _ | .kill _ _ | .idle _ | .pwr _ _ | .chkm _ _ | .halt _ =>
    true
  | .vectorEntryExecute _ | .progressTimeout _ _ | .majorityAnswer _ | .replicaWrite _ | .barwRecheck | .barwExpiry
  | .matrixEntryExecute | .accumulatorRowComplete _ | .rowRecompute _ | .chunkComplete _ _ | .tokenWrite _ | .nougatWindow _ _
  | .ringProduce _ | .ringRetry _ | .rayFault | .laneBlockRetire _ | .fetch _ | .walkComplete _ _ _ _ | .holdReread
  | .holdStallBound _ | .xatbWrite _ | .xinvPage _ _ | .xinvAsid _ | .xinvAll | .xmsetReload | .xinvComplete | .xvqRead _
  | .checkpointSave _ | .checkpointRestore _ | .checkpointGranuleCopy _ | .checkpointComplete _ | .mcbaseFloor _ _
  | .mcbaseSetall _ _ | .mcrenew _ _ | .mcscrub _ _ | .scrubCorrection _ _ _ | .stackFailure _ | .lsubSubmit _ _ _
  | .itemPlacement _ _ _ | .tick | .shadowBankSwap _ _ _ | .spillComplete _ | .swapBack _ | .completionWordWrite _ | .lkill _
  | .scanctl _ | .scanComplete _ | .leaveGrant _ | .leaveTimeout | .heavyOperationComplete _ | .readinessSet _ _
  | .bootStage _ _ | .deviceReset | .linjctlArm _ _ _ | .flitReceive _ _ | .portDown _ | .remoteRequest _ _ _ _
  | .hostAccess _ _ | .deviceRegisterWrite _ _ | .briocheAccess _ _ | .storeBecomesVisible _ | .idleExpiry
  | .sectorError _ _ => true

/-- The rows that are instructions with a word of their own: of a hart (F, X or P form) or of the traversal store. -/
def Instr.hasWord : Instr → Bool
  | .vectorEntryExecute _ | .progressTimeout _ _ | .majorityAnswer _ | .replicaWrite _ | .barwRecheck | .barwExpiry
  | .matrixEntryExecute | .accumulatorRowComplete _ | .rowRecompute _ | .chunkComplete _ _ | .tokenWrite _ | .nougatWindow _ _
  | .ringProduce _ | .ringRetry _ | .rayFault | .laneBlockRetire _ | .fetch _ | .walkComplete _ _ _ _ | .holdReread
  | .holdStallBound _ | .xatbWrite _ | .xinvPage _ _ | .xinvAsid _ | .xinvAll | .xmsetReload | .xinvComplete | .xvqRead _
  | .checkpointSave _ | .checkpointRestore _ | .checkpointGranuleCopy _ | .checkpointComplete _ | .mcbaseFloor _ _
  | .mcbaseSetall _ _ | .mcrenew _ _ | .mcscrub _ _ | .scrubCorrection _ _ _ | .stackFailure _ | .lsubSubmit _ _ _
  | .itemPlacement _ _ _ | .tick | .shadowBankSwap _ _ _ | .spillComplete _ | .swapBack _ | .completionWordWrite _ | .lkill _
  | .scanctl _ | .scanComplete _ | .leaveGrant _ | .leaveTimeout | .heavyOperationComplete _ | .readinessSet _ _
  | .bootStage _ _ | .deviceReset | .linjctlArm _ _ _ | .flitReceive _ _ | .portDown _ | .remoteRequest _ _ _ _
  | .hostAccess _ _ | .deviceRegisterWrite _ _ | .briocheAccess _ _ | .storeBecomesVisible _ | .idleExpiry
  | .sectorError _ _ => false
  | _ => true

end Sys2Proof
end

