-- ==== Sys2Proof/Decode.lean ====
section
/-! DEFINITION. Instruction words (13 R271 to R285): the decoder, total on any word and on any list of bytes, and the encoder
from the same tables. Decoding reads the fields loosely and then accepts the instruction only if it is well formed and its
own word is the word read, so every unused field must be zero (R275). -/

namespace Sys2Proof

/-- The fields of an F-form word (13 R272). -/
structure Fields where
  op : BitVec 8
  d : BitVec 5 := 0#5
  a : BitVec 5 := 0#5
  b : BitVec 5 := 0#5
  c : BitVec 5 := 0#5
  pg : BitVec 4 := 0#4
  rm : BitVec 3 := 0#3
  tyc : BitVec 5 := 0#5
  m21 : Bool := false
  m20 : Bool := false
  fn : BitVec 6 := 0#6
  imm : BitVec 14 := 0#14
  deriving DecidableEq, Repr

/-- Read the fields of a word. -/
def Fields.unpack (w : Word) : Fields where
  op := w.extractLsb' 54 8
  d := w.extractLsb' 49 5
  a := w.extractLsb' 44 5
  b := w.extractLsb' 39 5
  c := w.extractLsb' 34 5
  pg := w.extractLsb' 30 4
  rm := w.extractLsb' 27 3
  tyc := w.extractLsb' 22 5
  m21 := w.getLsbD 21
  m20 := w.getLsbD 20
  fn := w.extractLsb' 14 6
  imm := w.extractLsb' 0 14

/-- The F-form word with the fields. -/
def Fields.pack (f : Fields) : Word :=
  0#2 ++ f.op ++ f.d ++ f.a ++ f.b ++ f.c ++ f.pg ++ f.rm ++ f.tyc ++ BitVec.ofBool f.m21 ++ BitVec.ofBool f.m20 ++ f.fn ++ f.imm

/-- TYC (13 R273). -/
def Ty.code : Ty → BitVec 5
  | .i8 => 0x00 | .i16 => 0x01 | .i32 => 0x02 | .i64 => 0x03 | .n8 => 0x04 | .n16 => 0x05 | .n32 => 0x06 | .n64 => 0x07
  | .f64 => 0x08 | .f32 => 0x09 | .bf16 => 0x0A | .f16 => 0x0B | .e4m3 => 0x0C | .e5m2 => 0x0D | .fp4 => 0x0E
  | .bp2 => 0x12 | .bp3 => 0x13 | .bp4 => 0x14 | .bp5 => 0x15 | .bp6 => 0x16 | .bp7 => 0x17 | .bp8 => 0x18

/-- The type of a TYC; 0x0F, 0x10, 0x11 and 0x19–0x1F are reserved. -/
def Ty.ofCode (c : BitVec 5) : Option Ty :=
  match c.toNat with
  | 0x00 => some .i8 | 0x01 => some .i16 | 0x02 => some .i32 | 0x03 => some .i64
  | 0x04 => some .n8 | 0x05 => some .n16 | 0x06 => some .n32 | 0x07 => some .n64
  | 0x08 => some .f64 | 0x09 => some .f32 | 0x0A => some .bf16 | 0x0B => some .f16
  | 0x0C => some .e4m3 | 0x0D => some .e5m2 | 0x0E => some .fp4
  | 0x12 => some .bp2 | 0x13 => some .bp3 | 0x14 => some .bp4 | 0x15 => some .bp5 | 0x16 => some .bp6 | 0x17 => some .bp7
  | 0x18 => some .bp8
  | _ => none

/-- RM (06 R139); 110 and 111 are reserved. -/
def Rm.code : Rm → BitVec 3
  | .rne => 0 | .rtz => 1 | .rdn => 2 | .rup => 3 | .rmm => 4 | .dyn => 5
def Rm.ofCode (c : BitVec 3) : Option Rm :=
  match c.toNat with
  | 0 => some .rne | 1 => some .rtz | 2 => some .rdn | 3 => some .rup | 4 => some .rmm | 5 => some .dyn
  | _ => none

/-- The scope codes of C [36:34] (13 R274). -/
def Scope.code : Scope → BitVec 3
  | .core => 0 | .cluster => 1 | .die => 2 | .pkg => 3 | .sys => 4
def Scope.ofCode (c : BitVec 3) : Option Scope :=
  match c.toNat with
  | 0 => some .core | 1 => some .cluster | 2 => some .die | 3 => some .pkg | 4 => some .sys
  | _ => none

/-- The acquire-or-release slot in field C (13 R274). -/
def AcqRel.code : AcqRel → BitVec 5
  | .rlx => 0 | .acq s => 1#2 ++ s.code | .rel s => 2#2 ++ s.code | .acqrel s => 3#2 ++ s.code
def AcqRel.ofCode (c : BitVec 5) : Option AcqRel :=
  let s := Scope.ofCode (c.extractLsb' 0 3)
  match (c.extractLsb' 3 2).toNat with
  | 0 => some .rlx | 1 => s.map .acq | 2 => s.map .rel | _ => s.map .acqrel

def Icc.code : Icc → BitVec 6
  | .eq => 0 | .ne => 1 | .lt => 2 | .ge => 3 | .le => 4 | .gt => 5 | .ltn => 6 | .gen => 7 | .len => 8 | .gtn => 9
def Icc.ofCode (c : BitVec 6) : Option Icc :=
  match c.toNat with
  | 0 => some .eq | 1 => some .ne | 2 => some .lt | 3 => some .ge | 4 => some .le | 5 => some .gt
  | 6 => some .ltn | 7 => some .gen | 8 => some .len | 9 => some .gtn
  | _ => none

def Fcc.code : Fcc → BitVec 6
  | .eq => 0 | .ne => 1 | .lt => 2 | .ge => 3 | .le => 4 | .gt => 5 | .un => 6 | .or => 7
def Fcc.ofCode (c : BitVec 6) : Option Fcc :=
  match c.toNat with
  | 0 => some .eq | 1 => some .ne | 2 => some .lt | 3 => some .ge | 4 => some .le | 5 => some .gt | 6 => some .un | 7 => some .or
  | _ => none

def SgnOp.code : SgnOp → BitVec 6
  | .inj => 0 | .injn => 1 | .injx => 2
def SgnOp.ofCode (c : BitVec 6) : Option SgnOp :=
  match c.toNat with
  | 0 => some .inj | 1 => some .injn | 2 => some .injx | _ => none

def RedOp.code : RedOp → BitVec 6
  | .add => 0 | .min => 1 | .max => 2 | .and => 3 | .or => 4 | .xor => 5
def RedOp.ofCode (c : BitVec 6) : Option RedOp :=
  match c.toNat with
  | 0 => some .add | 1 => some .min | 2 => some .max | 3 => some .and | 4 => some .or | 5 => some .xor | _ => none

def AmoOp.code : AmoOp → BitVec 4
  | .swap => 0 | .add => 1 | .and => 2 | .or => 3 | .xor => 4 | .min => 5 | .max => 6
def AmoOp.ofCode (c : BitVec 4) : Option AmoOp :=
  match c.toNat with
  | 0 => some .swap | 1 => some .add | 2 => some .and | 3 => some .or | 4 => some .xor | 5 => some .min | 6 => some .max
  | _ => none

def RvOp.code : RvOp → BitVec 6
  | .rev => 0 | .inv => 1 | .conj => 2
def RvOp.ofCode (c : BitVec 6) : Option RvOp :=
  match c.toNat with
  | 0 => some .rev | 1 => some .inv | 2 => some .conj | _ => none

def TvCmp.code : TvCmp → BitVec 6
  | .mask => 0 | .stk => 1 | .leaf => 2 | .cand => 3
def TvCmp.ofCode (c : BitVec 6) : Option TvCmp :=
  match c.toNat with
  | 0 => some .mask | 1 => some .stk | 2 => some .leaf | 3 => some .cand | _ => none

def TvBr.code : TvBr → BitVec 6
  | .f => 0 | .t => 1 | .always => 2
def TvBr.ofCode (c : BitVec 6) : Option TvBr :=
  match c.toNat with
  | 0 => some .f | 1 => some .t | 2 => some .always | _ => none

/-- FMT [26:24], X64 [23] of an activation (06 R145, 17 R359), as the upper four bits of TYC. -/
def MmTy.code : MmTy → BitVec 4
  | .e4m3 => 0b0000 | .e5m2 => 0b0010 | .i8 => 0b0100 | .fp4 => 0b0110 | .bf16 => 0b1010 | .f16 => 0b1100
  | .f32 => 0b1110 | .f64 => 0b1111
def MmTy.ofCode (c : BitVec 4) : Option MmTy :=
  match c.toNat with
  | 0b0000 => some .e4m3 | 0b0010 => some .e5m2 | 0b0100 => some .i8 | 0b0110 => some .fp4 | 0b1010 => some .bf16
  | 0b1100 => some .f16 | 0b1110 => some .f32 | 0b1111 => some .f64
  | _ => none

/-- State register numbers (13 R279). -/
def Srn.code : Srn → BitVec 14
  | .fctl => 0x000 | .fstat => 0x001 | .vtype => 0x002 | .vl => 0x003 | .rc => 0x004 | .spz => 0x005 | .qdir => 0x006
  | .mcc => 0x007 | .hwin => 0x008 | .pto => 0x009 | .sendarg => 0x00A | .tcause => 0x010 | .taddr => 0x011 | .tpc => 0x012
  | .tnpc => 0x013 | .tinfo => 0x014 | .tsp => 0x015 | .hstat => 0x016 | .es => 0x017 | .ftr => 0x018 | .tqp => 0x019
  | .fmr i => 4#11 ++ i | .wix i => 5#11 ++ i | .wext i => 6#11 ++ i | .rfrb => 0x038 | .rdrb => 0x039 | .rib i => 8#11 ++ i
def Srn.ofCode (c : BitVec 14) : Option Srn :=
  let i := c.extractLsb' 0 3
  match c.toNat / 8 with
  | 0 => match i.toNat with
    | 0 => some .fctl | 1 => some .fstat | 2 => some .vtype | 3 => some .vl | 4 => some .rc | 5 => some .spz | 6 => some .qdir
    | _ => some .mcc
  | 1 => match i.toNat with
    | 0 => some .hwin | 1 => some .pto | 2 => some .sendarg | _ => none
  | 2 => match i.toNat with
    | 0 => some .tcause | 1 => some .taddr | 2 => some .tpc | 3 => some .tnpc | 4 => some .tinfo | 5 => some .tsp
    | 6 => some .hstat | _ => some .es
  | 3 => match i.toNat with
    | 0 => some .ftr | 1 => some .tqp | _ => none
  | 4 => some (.fmr i) | 5 => some (.wix i) | 6 => some (.wext i)
  | 7 => match i.toNat with
    | 0 => some .rfrb | 1 => some .rdrb | _ => none
  | 8 => some (.rib i)
  | _ => none

/-! ## The P form (13 R281) -/

/-- One slot's 31 bits: POP, D, A, low field. -/
def slotBits (pop : BitVec 6) (d a : BitVec 5) (lo : BitVec 15) : BitVec 31 := pop ++ d ++ a ++ lo

def SlotAlu.code : SlotAlu → BitVec 6
  | .add => 0x01 | .sub => 0x02 | .mul => 0x03 | .and => 0x04 | .or => 0x05 | .xor => 0x06 | .andn => 0x07 | .shl => 0x08
  | .shr => 0x09 | .sra => 0x0A | .rot => 0x0B | .min => 0x0C | .max => 0x0D | .minn => 0x0E | .maxn => 0x0F
def SlotImm.code : SlotImm → BitVec 6
  | .add => 0x10 | .and => 0x11 | .or => 0x12 | .xor => 0x13
def SlotSh.code : SlotSh → BitVec 6
  | .shl => 0x14 | .shr => 0x15 | .sra => 0x16 | .rot => 0x17
def SlotUn.code : SlotUn → BitVec 6
  | .clz => 0x19 | .ctz => 0x1A | .pop => 0x1B | .bswap => 0x1C
def SlotCmp.code : SlotCmp → BitVec 6
  | .eq => 0x1D | .lt => 0x1E | .ltn => 0x1F
def SlotLd.code : SlotLd → BitVec 6
  | .n64 => 0x20 | .n32 => 0x21 | .i32 => 0x22 | .n8 => 0x23 | .spad => 0x27
def SlotSt.code : SlotSt → BitVec 6
  | .n64 => 0x24 | .n32 => 0x25 | .n8 => 0x26 | .spad => 0x28
def SlotF.code : SlotF → BitVec 6
  | .fadd64 => 0x34 | .fsub64 => 0x35 | .fmul64 => 0x36 | .fadd32 => 0x37 | .fsub32 => 0x38 | .fmul32 => 0x39
  | .fmin64 => 0x3A | .fmax64 => 0x3B

/-- The 31 bits of a slot. -/
def Slot.encode : Slot → BitVec 31
  | .nop => 0#31
  | .alu op d a e => slotBits op.code d a (e ++ 0#10)
  | .imm op d a i => slotBits op.code d a i
  | .sh op d a i => slotBits op.code d a (0#9 ++ i)
  | .li d i => slotBits 0x18 d 0#5 i
  | .un op d a => slotBits op.code d a 0#15
  | .cmp op d a e => slotBits op.code d a (e ++ 0#10)
  | .ld op d a i => slotBits op.code d a i
  | .st op d a i => slotBits op.code d a i
  | .qwr q a => slotBits 0x2C (0#2 ++ q) a 0#15
  | .qrd d q => slotBits 0x2D d (0#2 ++ q) 0#15
  | .bz a i => slotBits 0x2E 0#5 a i
  | .bnz a i => slotBits 0x2F 0#5 a i
  | .b i => slotBits 0x30 0#5 0#5 i
  | .flt op d a e => slotBits op.code d a (e ++ 0#10)

/-- The slot that 31 bits name, unused bits not yet checked; none for an unassigned POP. -/
def Slot.parse (s : BitVec 31) : Option Slot :=
  let d : Reg := s.extractLsb' 20 5
  let a : Reg := s.extractLsb' 15 5
  let e : Reg := s.extractLsb' 10 5
  let i := s.extractLsb' 0 15
  let h := s.extractLsb' 0 6
  let dq : Idx3 := s.extractLsb' 20 3
  let aq : Idx3 := s.extractLsb' 15 3
  match (s.extractLsb' 25 6).toNat with
  | 0x00 => some .nop
  | 0x01 => some (.alu .add d a e) | 0x02 => some (.alu .sub d a e) | 0x03 => some (.alu .mul d a e)
  | 0x04 => some (.alu .and d a e) | 0x05 => some (.alu .or d a e) | 0x06 => some (.alu .xor d a e)
  | 0x07 => some (.alu .andn d a e) | 0x08 => some (.alu .shl d a e) | 0x09 => some (.alu .shr d a e)
  | 0x0A => some (.alu .sra d a e) | 0x0B => some (.alu .rot d a e) | 0x0C => some (.alu .min d a e)
  | 0x0D => some (.alu .max d a e) | 0x0E => some (.alu .minn d a e) | 0x0F => some (.alu .maxn d a e)
  | 0x10 => some (.imm .add d a i) | 0x11 => some (.imm .and d a i) | 0x12 => some (.imm .or d a i)
  | 0x13 => some (.imm .xor d a i)
  | 0x14 => some (.sh .shl d a h) | 0x15 => some (.sh .shr d a h) | 0x16 => some (.sh .sra d a h) | 0x17 => some (.sh .rot d a h)
  | 0x18 => some (.li d i)
  | 0x19 => some (.un .clz d a) | 0x1A => some (.un .ctz d a) | 0x1B => some (.un .pop d a) | 0x1C => some (.un .bswap d a)
  | 0x1D => some (.cmp .eq d a e) | 0x1E => some (.cmp .lt d a e) | 0x1F => some (.cmp .ltn d a e)
  | 0x20 => some (.ld .n64 d a i) | 0x21 => some (.ld .n32 d a i) | 0x22 => some (.ld .i32 d a i) | 0x23 => some (.ld .n8 d a i)
  | 0x24 => some (.st .n64 d a i) | 0x25 => some (.st .n32 d a i) | 0x26 => some (.st .n8 d a i)
  | 0x27 => some (.ld .spad d a i) | 0x28 => some (.st .spad d a i)
  | 0x2C => some (.qwr dq a) | 0x2D => some (.qrd d aq)
  | 0x2E => some (.bz a i) | 0x2F => some (.bnz a i) | 0x30 => some (.b i)
  | 0x34 => some (.flt .fadd64 d a e) | 0x35 => some (.flt .fsub64 d a e) | 0x36 => some (.flt .fmul64 d a e)
  | 0x37 => some (.flt .fadd32 d a e) | 0x38 => some (.flt .fsub32 d a e) | 0x39 => some (.flt .fmul32 d a e)
  | 0x3A => some (.flt .fmin64 d a e) | 0x3B => some (.flt .fmax64 d a e)
  | _ => none

/-! ## The encoder -/

def Src.b : Src → Reg
  | .reg r => r | .imm _ => 0#5
def Src.im : Src → Bool
  | .reg _ => false | .imm _ => true
def Src.immv : Src → BitVec 14
  | .reg _ => 0#14 | .imm i => i
def VSrc.b : VSrc → Reg
  | .vec r => r | .scal r => r
def VSrc.xs : VSrc → Bool
  | .vec _ => false | .scal _ => true

def fInt (op : BitVec 8) (o : IntArgs) (fn : BitVec 6 := 0) : Fields :=
  { op := op, d := o.d, a := o.a, b := o.b.b, tyc := o.t.code, m20 := o.b.im, fn := fn, imm := o.b.immv }
def fUn (op : BitVec 8) (o : UnArgs) : Fields := { op := op, d := o.d, a := o.a, tyc := o.t.code }
def fFlt (op : BitVec 8) (o : FBinArgs) (c : Reg := 0) : Fields :=
  { op := op, d := o.d, a := o.a, b := o.b, c := c, rm := o.rm.code, tyc := o.t.code, m20 := o.sat }
def fV (op : BitVec 8) (fn : BitVec 6) (o : VArgs) : Fields :=
  { op := op, d := o.d, a := o.a, b := o.b.b, pg := o.pg, tyc := o.t.code, m21 := o.b.xs, fn := fn }
def fVF (fn : BitVec 6) (o : VFArgs) (c : Reg := 0) : Fields :=
  { op := 0x52, d := o.d, a := o.a, b := o.b.b, c := c, pg := o.pg, rm := o.rm.code, tyc := o.t.code, m21 := o.b.xs,
    m20 := o.sat, fn := fn }
def fVFU (fn : BitVec 6) (o : VFUnArgs) : Fields :=
  { op := 0x52, d := o.d, a := o.a, pg := o.pg, rm := o.rm.code, tyc := o.t.code, m20 := o.sat, fn := fn }
def gradeBits (k : Option (BitVec 5)) : BitVec 5 := k.getD 0#5
def fMv (op : BitVec 8) (o : MvArgs) : Fields :=
  { op := op, d := o.d, a := o.a, b := o.b, c := gradeBits o.k, pg := o.pg, rm := o.rm.code, tyc := o.t.code, m21 := o.k.isSome }
def fMvU (op : BitVec 8) (o : MvUnArgs) (fn : BitVec 6 := 0) : Fields :=
  { op := op, d := o.d, a := o.a, c := gradeBits o.k, pg := o.pg, rm := o.rm.code, tyc := o.t.code, m21 := o.k.isSome, fn := fn }
def spBit (sp : Bool) : BitVec 6 := if sp then 1 else 0
def fMem (op : BitVec 8) (o : MemArgs) : Fields :=
  { op := op, d := o.d, a := o.m.a, c := o.ar.code, tyc := o.t.code, fn := spBit o.m.sp, imm := o.m.off }
def fVMem (op : BitVec 8) (o : VMemArgs) (ft : Bool) (b : Reg := 0) (nf : BitVec 3 := 0) : Fields :=
  { op := op, d := o.d, a := o.m.a, b := b, c := o.ar.code, pg := o.pg, tyc := o.t.code, m21 := o.ord, m20 := ft,
    fn := 0#2 ++ nf ++ BitVec.ofBool o.m.sp, imm := o.m.off }
def fAmo (op : BitVec 8) (k : AmoOp) (o : AmoArgs) (pg : PReg := 0) (ord : Bool := false) : Fields :=
  { op := op, d := o.d, a := o.m.a, b := o.b, c := o.ar.code, pg := pg, rm := o.rm.code, tyc := o.t.code, m21 := ord,
    fn := 0#1 ++ k.code ++ BitVec.ofBool o.m.sp, imm := o.m.off }
def maskFn (m : Option PReg) : BitVec 6 :=
  match m with
  | some p => 1#2 ++ p
  | none => 0#6
/-- IMM14 of an engine command: TH, RSP, zero, TYC, CK, SS, DS (18 R382). -/
def engImm (et rsp : Bool) (tyc : BitVec 5) (ck : BitVec 4) (ss ds : Bool) : BitVec 14 :=
  BitVec.ofBool et ++ BitVec.ofBool rsp ++ 0#1 ++ tyc ++ ck ++ BitVec.ofBool ss ++ BitVec.ofBool ds
def fCpy (op : BitVec 8) (o : CpyArgs) : Fields :=
  { op := op, d := o.tok.d, a := o.a, b := o.b, c := o.c, fn := maskFn o.mask, imm := engImm o.tok.et o.rsp 0#5 o.ck o.ss o.ds }
def fEng (op : BitVec 8) (k : Tok) (a : Reg := 0) (b : Reg := 0) : Fields :=
  { op := op, d := k.d, a := a, b := b, imm := engImm k.et false 0#5 0#4 false false }
def acc5 (i : Idx3) : BitVec 5 := 0#2 ++ i
def dsc5 (i : Idx3) : BitVec 5 := 1#2 ++ i
def til5 (t : TReg) : BitVec 5 := 0#1 ++ t
def pre5 (p : PReg) : BitVec 5 := 0#1 ++ p
/-- The X form (13 R280). -/
def xWord (op : BitVec 8) (d : Reg) (i : BitVec 48) : Word := 2#2 ++ op ++ d ++ 0#1 ++ i

/-- The fields of an instruction that has an F-form word. -/
def Instr.fields : Instr → Option Fields
  | .add o => fInt 0x00 o | .sub o => fInt 0x01 o | .mul o => fInt 0x02 o | .mulh o => fInt 0x03 o | .mulhn o => fInt 0x04 o
  | .div o => fInt 0x05 o | .divn o => fInt 0x06 o | .rem o => fInt 0x07 o | .remn o => fInt 0x08 o
  | .and o => fInt 0x09 o | .or o => fInt 0x0A o | .xor o => fInt 0x0B o | .andn o => fInt 0x0C o
  | .shl o => fInt 0x0D o | .shr o => fInt 0x0E o | .sra o => fInt 0x0F o | .rot o => fInt 0x10 o
  | .min o => fInt 0x11 o | .max o => fInt 0x12 o | .minn o => fInt 0x13 o | .maxn o => fInt 0x14 o
  | .clz o => fUn 0x15 o | .ctz o => fUn 0x16 o | .pop o => fUn 0x17 o | .bswap o => fUn 0x18 o
  | .cmp cc o => fInt 0x19 o cc.code
  | .sel t d a e c => some { op := 0x1A, d := d, a := a, b := e, c := c, tyc := t.code }
  | .fadd o => fFlt 0x20 o | .fsub o => fFlt 0x21 o | .fmul o => fFlt 0x22 o | .fdiv o => fFlt 0x23 o
  | .fsqrt t rm sat d a => some { op := 0x24, d := d, a := a, rm := rm.code, tyc := t.code, m20 := sat }
  | .ffma o c => fFlt 0x25 o c
  | .fmin o => fFlt 0x26 o | .fmax o => fFlt 0x27 o
  | .fcmp cc t d a e => some { op := 0x28, d := d, a := a, b := e, tyc := t.code, fn := cc.code }
  | .fcvt dt ts rm sat d a => some { op := 0x29, d := d, a := a, b := ts.code, rm := rm.code, tyc := dt.code, m20 := sat }
  | .fcls o => fUn 0x2A o
  | .fsgn op t d a e => some { op := 0x2B, d := d, a := a, b := e, tyc := t.code, fn := op.code }
  | .bcc cc a e i => some { op := 0x31, a := a, b := e, fn := cc.code, imm := i }
  | .ret => some { op := 0x33 }
  | .jr a => some { op := 0x34, a := a } | .jcall a => some { op := 0x35, a := a }
  | .bz a i => some { op := 0x36, a := a, imm := i } | .bnz a i => some { op := 0x37, a := a, imm := i }
  | .qwr q a => some { op := 0x38, d := acc5 q, a := a } | .qrd d q => some { op := 0x39, d := d, a := acc5 q }
  | .bq nz cons q i => some { op := 0x3A, a := acc5 q, fn := 0#4 ++ BitVec.ofBool nz ++ BitVec.ofBool cons, imm := i }
  | .qlvl d q => some { op := 0x3B, d := d, a := acc5 q }
  | .sget d r => some { op := 0x3C, d := d, imm := r.code } | .sset r a => some { op := 0x3D, a := a, imm := r.code }
  | .sxchg d r a => some { op := 0x3E, d := d, a := a, imm := r.code }
  | .nop => some { op := 0x3F }
  | .setvl d a m vt => some { op := 0x40, d := d, a := a, b := m.getD 0#5, m21 := m.isSome, m20 := vt.isSome, imm := 0#6 ++ vt.getD 0#8 }
  | .setrc n => some { op := 0x41, a := n.b, m20 := n.im, imm := n.immv }
  | .vlenq d => some { op := 0x42, d := d }
  | .plim d a => some { op := 0x43, d := pre5 d, a := a }
  | .pand d a e => some { op := 0x44, d := pre5 d, a := pre5 a, b := pre5 e, fn := 0 }
  | .por d a e => some { op := 0x44, d := pre5 d, a := pre5 a, b := pre5 e, fn := 1 }
  | .pxor d a e => some { op := 0x44, d := pre5 d, a := pre5 a, b := pre5 e, fn := 2 }
  | .pnot d a => some { op := 0x44, d := pre5 d, a := pre5 a, fn := 3 }
  | .pcnt d pg a => some { op := 0x45, d := d, a := pre5 a, pg := pg }
  | .pfirst d pg a => some { op := 0x46, d := d, a := pre5 a, pg := pg }
  | .vadd o => fV 0x48 0 o | .vsub o => fV 0x48 1 o | .vmul o => fV 0x48 2 o | .vmac o => fV 0x48 3 o
  | .vmin o => fV 0x48 4 o | .vmax o => fV 0x48 5 o
  | .vabs t pg d a => some { op := 0x48, d := d, a := a, pg := pg, tyc := t.code, fn := 6 }
  | .vand o => fV 0x49 0 o | .vor o => fV 0x49 1 o | .vxor o => fV 0x49 2 o | .vshl o => fV 0x49 3 o | .vshr o => fV 0x49 4 o
  | .vsra o => fV 0x49 5 o
  | .vcmp cc t pg d a e => some { op := 0x4A, d := pre5 d, a := a, b := e.b, pg := pg, tyc := t.code, m21 := e.xs, fn := cc.code }
  | .vsel o => fV 0x4B 0 o
  | .vbcast t pg d s => match s with
    | .elem a i => some { op := 0x4C, d := d, a := a, pg := pg, tyc := t.code, imm := i }
    | .scal r => some { op := 0x4C, d := d, b := r, pg := pg, tyc := t.code, m21 := true }
  | .vidx t pg d i => some { op := 0x4D, d := d, pg := pg, tyc := t.code, imm := i }
  | .vperm t pg d a e => some { op := 0x4E, d := d, a := a, b := e, pg := pg, tyc := t.code }
  | .vslide t pg d a s => match s with
    | .imm i => some { op := 0x4F, d := d, a := a, pg := pg, tyc := t.code, imm := i }
    | .scal r => some { op := 0x4F, d := d, a := a, b := r, pg := pg, tyc := t.code, m21 := true }
  | .vred op t pg d a => some { op := 0x50, d := d, a := a, pg := pg, tyc := t.code, fn := op.code }
  | .vscan op t pg d a => some { op := 0x51, d := d, a := a, pg := pg, tyc := t.code, fn := op.code }
  | .vfadd o => fVF 0 o | .vfsub o => fVF 1 o | .vfmul o => fVF 2 o | .vfma o c => fVF 3 o c | .vfmin o => fVF 4 o
  | .vfmax o => fVF 5 o | .vfdiv o => fVF 6 o | .vfsqrt o => fVFU 7 o | .vfrsq o => fVFU 8 o
  | .vfcmp cc t pg d a e => some { op := 0x53, d := pre5 d, a := a, b := e.b, pg := pg, tyc := t.code, m21 := e.xs, fn := cc.code }
  | .vfcvt dt ts rm sat pg d a =>
    some { op := 0x54, d := d, a := a, b := ts.code, pg := pg, rm := rm.code, tyc := dt.code, m20 := sat }
  | .vfred op t rm pg d a => some { op := 0x55, d := d, a := a, pg := pg, rm := rm.code, tyc := t.code, fn := op.code }
  | .vscl w pg d a i => some { op := 0x56, d := d, a := a, pg := pg, tyc := w.code, imm := 0#7 ++ i }
  | .vqnt n w rm sat pg d a s i =>
    some { op := 0x57, d := d, a := a, b := s, c := w.code, pg := pg, rm := rm.code, tyc := n.code, m20 := sat, imm := 0#7 ++ i }
  | .vdqn w n rm pg d a s i =>
    some { op := 0x58, d := d, a := a, b := s, c := n.code, pg := pg, rm := rm.code, tyc := w.code, imm := 0#7 ++ i }
  | .vbpx k pg d a => some { op := 0x59, d := d, a := a, pg := pg, tyc := k.code }
  | .mvgp o => fMv 0x60 o | .mvwd o => fMv 0x61 o | .mvjn o => fMv 0x62 o | .mvlc o => fMv 0x63 o | .mvsw o => fMv 0x64 o
  | .mvrv op o => fMvU 0x65 o op.code | .mvdl o => fMvU 0x66 o | .mvnm o => fMvU 0x67 o | .mvexp o => fMvU 0x69 o
  | .mvgmRd d a => some { op := 0x68, d := d, a := a }
  | .mvgmWr d k => some { op := 0x68, d := d, c := k, m21 := true, fn := 1 }
  | .mvrowExt t pg d a r => some { op := 0x6A, d := d, a := a, pg := pg, tyc := t.code, imm := 0#10 ++ r }
  | .mvrowIns t pg d a r => some { op := 0x6A, d := d, a := a, pg := pg, tyc := t.code, fn := 1, imm := 0#10 ++ r }
  | .ld o => fMem 0x70 o | .st o => fMem 0x71 o
  | .ldw t d w e off ar => some { op := 0x72, d := d, a := acc5 w, b := e, c := ar.code, tyc := t.code, imm := off }
  | .vld o ft => fVMem 0x73 o ft | .vlds o ft e => fVMem 0x74 o ft e | .vldg o ft nf => fVMem 0x75 o ft 0 nf
  | .vst o => fVMem 0x76 o false | .vsts o e => fVMem 0x77 o false e | .vstg o nf => fVMem 0x78 o false 0 nf
  | .vgth o e => fVMem 0x79 o false e | .vsct o e => fVMem 0x7A o false e
  | .vsca o pg ord => fAmo 0x7B .swap o pg ord
  | .vamo op o pg ord => fAmo 0x85 op o pg ord
  | .mvld o q => fVMem 0x7C o q.isSome (gradeBits q)
  | .mvst o q => fVMem 0x7D o q.isSome (gradeBits q)
  | .vspill d m => some { op := 0x7E, d := d, a := m.a, fn := spBit m.sp, imm := m.off }
  | .vfill d m => some { op := 0x7F, d := d, a := m.a, fn := spBit m.sp, imm := m.off }
  | .tlook d a => some { op := 0x80, d := d, a := a } | .tset s a => some { op := 0x81, a := a, imm := 0#2 ++ s }
  | .tinv s => some { op := 0x82, imm := 0#2 ++ s }
  | .amo op o => fAmo 0x83 op o
  | .cas o => fAmo 0x84 .swap o
  | .mcld d a e ar => some { op := 0x86, d := d, a := a, b := e, c := ar.code }
  | .mcst d a e ar => some { op := 0x87, d := d, a := a, b := e, c := ar.code }
  | .mctag a e ar => some { op := 0x88, a := a, b := e, c := ar.code }
  | .fence s k => some { op := 0x89, c := 0#2 ++ s.code, fn := 0#1 ++ k }
  | .bari a e => some { op := 0x8A, a := a, imm := 0#2 ++ e }
  | .bara d a n => some { op := 0x8B, d := d, a := a, imm := 0#9 ++ n }
  | .barw dst a e ph => match dst with
    | .x d => some { op := 0x8C, d := d, a := a, b := e, imm := 0#10 ++ ph }
    | .p d => some { op := 0x8C, d := pre5 d, a := a, b := e, m21 := true, imm := 0#10 ++ ph }
  | .tdesc n a e => some { op := 0x90, d := dsc5 n, a := a, b := e }
  | .tclsSet n c => some { op := 0x91, d := dsc5 n, imm := 0#11 ++ c }
  | .tclsRd d n h => some { op := 0x91, d := d, a := dsc5 n, fn := 1, imm := 0#13 ++ BitVec.ofBool h }
  | .tld t n => some { op := 0x92, d := acc5 t, a := dsc5 n }
  | .tst sat n t => some { op := 0x92, d := dsc5 n, a := acc5 t, m20 := sat, fn := 1 }
  | .tzero t => some { op := 0x93, d := til5 t }
  | .mwld e n kp => some { op := 0x94, a := dsc5 n, imm := 0#10 ++ kp ++ BitVec.ofBool e }
  | .mswap => some { op := 0x95 }
  | .mmul set f t n kp => some { op := 0x96, d := acc5 t, a := dsc5 n, tyc := f.code ++ BitVec.ofBool set, imm := 0#11 ++ kp }
  | .mmulx set f t n e c kp =>
    some { op := 0x97, d := acc5 t, a := dsc5 n, b := e, c := c, tyc := f.code ++ BitVec.ofBool set, imm := 0#11 ++ kp }
  | .mrd d t row => some { op := 0x98, d := d, a := acc5 t, imm := 0#7 ++ row }
  | .mwr t s row => some { op := 0x99, d := acc5 t, a := s, imm := 0#7 ++ row }
  | .tcvt n m => some { op := 0x9A, d := dsc5 n, a := dsc5 m }
  | .send k td ta tb => some { op := 0x9B, d := til5 td, a := til5 ta, b := til5 tb, imm := 0#6 ++ k }
  | .mtld a e => some { op := 0x9C, a := a, b := e }
  | .mtq d k ta tb => some { op := 0x9D, d := d, a := til5 ta, b := til5 tb, imm := 0#6 ++ k }
  | .sdret => some { op := 0x9E }
  | .tsave a => some { op := 0x9F, a := a } | .tload a => some { op := 0x9F, a := a, fn := 1 }
  | .cpy o => fCpy 0xA0 o | .cpy2 o => fCpy 0xA1 o | .cpyr o => fCpy 0xA2 o | .cpys o => fCpy 0xA3 o
  | .cpyk k => fEng 0xA4 k
  | .gdg k a e c m ck => some { op := 0xA5, d := k.d, a := a, b := e, c := c, fn := maskFn m, imm := engImm k.et false 0#5 ck false true }
  | .gda k t a e c => some { op := 0xA6, d := k.d, a := a, b := e, c := c, imm := engImm k.et false t.code 0#4 true false }
  | .dsp k a => fEng 0xA7 k a | .cmb k a => fEng 0xA8 k a
  | .rtlay k a => fEng 0xA9 k a | .rtprog k a e => fEng 0xAA k a e | .rtin k a => fEng 0xAB k a | .rtout k => fEng 0xAC k
  | .rtacc k a e => fEng 0xAD k a e
  | .tvFetch => some { op := 0xB0 } | .tvLd => some { op := 0xB1 } | .tvBox => some { op := 0xB2 } | .tvTri => some { op := 0xB3 }
  | .tvCmp k => some { op := 0xB4, fn := k.code }
  | .tvPush => some { op := 0xB5 } | .tvPop => some { op := 0xB6 } | .tvLeaf => some { op := 0xB7 } | .tvAcc => some { op := 0xB8 }
  | .tvBr k t => some { op := 0xB9, fn := k.code, imm := 0#5 ++ t }
  | .tvMov k => some { op := 0xBA, fn := match k with | .leafi => 0 | .near => 1 }
  | .tvEnd => some { op := 0xBB }
  | .vtsend p a => some { op := 0xAE, a := a, imm := 0#10 ++ p }
  | .vtwait k => match k with
    | none => some { op := 0xAF }
    | some p => some { op := 0xAF, imm := 1#10 ++ p }
  | .svc n => some { op := 0xC0, imm := n } | .tret => some { op := 0xC1 } | .end_ => some { op := 0xC2 }
  | .spawn a => some { op := 0xC3, a := a } | .join d => some { op := 0xC4, d := d } | .kill d a => some { op := 0xC5, d := d, a := a }
  | .idle a => some { op := 0xC6, a := a } | .pwr d a => some { op := 0xC7, d := d, a := a }
  | .chkm d a => some { op := 0xC8, d := d, a := a } | .halt a => some { op := 0xC9, a := a }
  | .li _ _ | .lih _ _ | .lea _ _ | .b _ | .call _ | .pFormPair _ _ => none
  | .vectorEntryExecute _ | .progressTimeout _ _ | .majorityAnswer _ | .replicaWrite _ | .barwRecheck | .barwExpiry
  | .matrixEntryExecute | .accumulatorRowComplete _ | .rowRecompute _ | .chunkComplete _ _ | .tokenWrite _ | .nougatWindow _ _
  | .ringProduce _ | .ringRetry _ | .rayFault | .laneBlockRetire _ | .fetch _ | .walkComplete _ _ _ _ | .holdReread
  | .holdStallBound _ | .xatbWrite _ | .xinvPage _ _ | .xinvAsid _ | .xinvAll | .xmsetReload | .xinvComplete | .xvqRead _
  | .checkpointSave _ | .checkpointRestore _ | .checkpointGranuleCopy _ | .checkpointComplete _ | .mcbaseFloor _ _
  | .mcbaseSetall _ _ | .mcrenew _ _ | .mcscrub _ _ | .scrubCorrection _ _ _ | .stackFailure _ | .lsubSubmit _ _ _
  | .itemPlacement _ _ _ | .tick | .shadowBankSwap _ _ _ | .spillComplete _ | .swapBack _ | .completionWordWrite _ | .lkill _
  | .scanctl _ | .scanComplete _ | .leaveGrant _ | .leaveTimeout | .heavyOperationComplete _ | .readinessSet _ _
  | .bootStage _ _ | .deviceReset | .linjctlArm _ _ _ | .flitReceive _ _ | .portDown _ | .remoteRequest _ _ _ _
  | .hostAccess _ _ | .deviceRegisterWrite _ _ | .briocheAccess _ _ | .storeBecomesVisible _ | .idleExpiry
  | .sectorError _ _ => none

/-- The word of an instruction; 0, which is no instruction's word (13 R284), for an event. -/
def Instr.encode : Instr → Word
  | .li d i => xWord 0x1B d i
  | .lih d i => xWord 0x1C d (0#32 ++ i)
  | .lea d i => xWord 0x1D d i
  | .b i => xWord 0x30 0#5 i
  | .call i => xWord 0x32 0#5 i
  | .pFormPair u v => 1#2 ++ u.encode ++ v.encode
  | i => match i.fields with
    | some f => f.pack
    | none => 0#64

/-! ## The decoder -/

def pIntSrc (f : Fields) : Src := if f.m20 then .imm f.imm else .reg f.b
def pInt (f : Fields) (k : IntArgs → Instr) : Option Instr :=
  (Ty.ofCode f.tyc).map fun t => k { t := t, d := f.d, a := f.a, b := pIntSrc f }
def pUn (f : Fields) (k : UnArgs → Instr) : Option Instr :=
  (Ty.ofCode f.tyc).map fun t => k { t := t, d := f.d, a := f.a }
def pFlt (f : Fields) (k : FBinArgs → Instr) : Option Instr := do
  let t ← Ty.ofCode f.tyc
  let rm ← Rm.ofCode f.rm
  return k { t := t, rm := rm, sat := f.m20, d := f.d, a := f.a, b := f.b }
def pVSrc (f : Fields) : VSrc := if f.m21 then .scal f.b else .vec f.b
def pV (f : Fields) (k : VArgs → Instr) : Option Instr :=
  (Ty.ofCode f.tyc).map fun t => k { t := t, pg := f.pg, d := f.d, a := f.a, b := pVSrc f }
def pVF (f : Fields) (k : VFArgs → Instr) : Option Instr := do
  let t ← Ty.ofCode f.tyc
  let rm ← Rm.ofCode f.rm
  return k { t := t, rm := rm, sat := f.m20, pg := f.pg, d := f.d, a := f.a, b := pVSrc f }
def pVFU (f : Fields) (k : VFUnArgs → Instr) : Option Instr := do
  let t ← Ty.ofCode f.tyc
  let rm ← Rm.ofCode f.rm
  return k { t := t, rm := rm, sat := f.m20, pg := f.pg, d := f.d, a := f.a }
def pGrade (ge : Bool) (k : BitVec 5) : Option (BitVec 5) := if ge then some k else none
def pMv (f : Fields) (k : MvArgs → Instr) : Option Instr := do
  let t ← Ty.ofCode f.tyc
  let rm ← Rm.ofCode f.rm
  return k { t := t, rm := rm, pg := f.pg, k := pGrade f.m21 f.c, d := f.d, a := f.a, b := f.b }
def pMvU (f : Fields) (k : MvUnArgs → Instr) : Option Instr := do
  let t ← Ty.ofCode f.tyc
  let rm ← Rm.ofCode f.rm
  return k { t := t, rm := rm, pg := f.pg, k := pGrade f.m21 f.c, d := f.d, a := f.a }
def pAddr (f : Fields) : Addr := { sp := f.fn.getLsbD 0, a := f.a, off := f.imm }
def pMem (f : Fields) (k : MemArgs → Instr) : Option Instr := do
  let t ← Ty.ofCode f.tyc
  let ar ← AcqRel.ofCode f.c
  return k { t := t, d := f.d, m := pAddr f, ar := ar }
def pVMem (f : Fields) (k : VMemArgs → Instr) : Option Instr := do
  let t ← Ty.ofCode f.tyc
  let ar ← AcqRel.ofCode f.c
  return k { t := t, pg := f.pg, d := f.d, m := pAddr f, ar := ar, ord := f.m21 }
def pAmo (f : Fields) (k : AmoOp → AmoArgs → Instr) : Option Instr := do
  let t ← Ty.ofCode f.tyc
  let rm ← Rm.ofCode f.rm
  let ar ← AcqRel.ofCode f.c
  let op ← AmoOp.ofCode (f.fn.extractLsb' 1 4)
  return k op { t := t, rm := rm, d := f.d, m := pAddr f, b := f.b, ar := ar }
def pTok (f : Fields) : Tok := { d := f.d, et := f.imm.getLsbD 13 }
def pMask (f : Fields) : Option PReg := if f.fn.getLsbD 4 then some (f.fn.extractLsb' 0 4) else none
def pCpy (f : Fields) (k : CpyArgs → Instr) : Option Instr :=
  some (k { tok := pTok f, rsp := f.imm.getLsbD 12, ss := f.imm.getLsbD 1, ds := f.imm.getLsbD 0, a := f.a, b := f.b, c := f.c,
            mask := pMask f, ck := f.imm.extractLsb' 2 4 })
def lo3 (r : BitVec 5) : Idx3 := r.extractLsb' 0 3
def lo4 (r : BitVec 5) : BitVec 4 := r.extractLsb' 0 4
def pTy (f : Fields) (k : Ty → Instr) : Option Instr := (Ty.ofCode f.tyc).map k

/-- OPs 0x00–0x1A (13 R276). -/
def parse0 (f : Fields) : Option Instr :=
  match f.op.toNat with
  | 0x00 => pInt f .add | 0x01 => pInt f .sub | 0x02 => pInt f .mul | 0x03 => pInt f .mulh | 0x04 => pInt f .mulhn
  | 0x05 => pInt f .div | 0x06 => pInt f .divn | 0x07 => pInt f .rem | 0x08 => pInt f .remn | 0x09 => pInt f .and
  | 0x0A => pInt f .or | 0x0B => pInt f .xor | 0x0C => pInt f .andn | 0x0D => pInt f .shl | 0x0E => pInt f .shr
  | 0x0F => pInt f .sra | 0x10 => pInt f .rot | 0x11 => pInt f .min | 0x12 => pInt f .max | 0x13 => pInt f .minn
  | 0x14 => pInt f .maxn | 0x15 => pUn f .clz | 0x16 => pUn f .ctz | 0x17 => pUn f .pop | 0x18 => pUn f .bswap
  | 0x19 => (Icc.ofCode f.fn).bind fun cc => pInt f (.cmp cc)
  | 0x1A => pTy f fun t => .sel t f.d f.a f.b f.c
  | _ => none

/-- OPs 0x20–0x2B. -/
def parse2 (f : Fields) : Option Instr :=
  match f.op.toNat with
  | 0x20 => pFlt f .fadd | 0x21 => pFlt f .fsub | 0x22 => pFlt f .fmul | 0x23 => pFlt f .fdiv
  | 0x24 => pFlt f fun o => .fsqrt o.t o.rm o.sat o.d o.a
  | 0x25 => pFlt f fun o => .ffma o f.c
  | 0x26 => pFlt f .fmin | 0x27 => pFlt f .fmax
  | 0x28 => (Fcc.ofCode f.fn).bind fun cc => pTy f fun t => .fcmp cc t f.d f.a f.b
  | 0x29 => (Ty.ofCode f.b).bind fun st => pFlt f fun o => .fcvt o.t st o.rm o.sat o.d o.a
  | 0x2A => pUn f .fcls
  | 0x2B => (SgnOp.ofCode f.fn).bind fun op => pTy f fun t => .fsgn op t f.d f.a f.b
  | _ => none

/-- OPs 0x31–0x3F. -/
def parse3 (f : Fields) : Option Instr :=
  match f.op.toNat with
  | 0x31 => (Icc.ofCode f.fn).map fun cc => .bcc cc f.a f.b f.imm
  | 0x33 => some .ret | 0x34 => some (.jr f.a) | 0x35 => some (.jcall f.a)
  | 0x36 => some (.bz f.a f.imm) | 0x37 => some (.bnz f.a f.imm)
  | 0x38 => some (.qwr (lo3 f.d) f.a) | 0x39 => some (.qrd f.d (lo3 f.a))
  | 0x3A => some (.bq (f.fn.getLsbD 1) (f.fn.getLsbD 0) (lo3 f.a) f.imm)
  | 0x3B => some (.qlvl f.d (lo3 f.a))
  | 0x3C => (Srn.ofCode f.imm).map fun r => .sget f.d r
  | 0x3D => (Srn.ofCode f.imm).map fun r => .sset r f.a
  | 0x3E => (Srn.ofCode f.imm).map fun r => .sxchg f.d r f.a
  | 0x3F => some .nop
  | _ => none

/-- OPs 0x40–0x4F. -/
def parse4 (f : Fields) : Option Instr :=
  match f.op.toNat with
  | 0x40 => some (.setvl f.d f.a (if f.m21 then some f.b else none) (if f.m20 then some (f.imm.extractLsb' 0 8) else none))
  | 0x41 => some (.setrc (if f.m20 then .imm f.imm else .reg f.a))
  | 0x42 => some (.vlenq f.d)
  | 0x43 => some (.plim (lo4 f.d) f.a)
  | 0x44 => match f.fn.toNat with
    | 0 => some (.pand (lo4 f.d) (lo4 f.a) (lo4 f.b)) | 1 => some (.por (lo4 f.d) (lo4 f.a) (lo4 f.b))
    | 2 => some (.pxor (lo4 f.d) (lo4 f.a) (lo4 f.b)) | 3 => some (.pnot (lo4 f.d) (lo4 f.a))
    | _ => none
  | 0x45 => some (.pcnt f.d f.pg (lo4 f.a))
  | 0x46 => some (.pfirst f.d f.pg (lo4 f.a))
  | 0x48 => match f.fn.toNat with
    | 0 => pV f .vadd | 1 => pV f .vsub | 2 => pV f .vmul | 3 => pV f .vmac | 4 => pV f .vmin | 5 => pV f .vmax
    | 6 => pTy f fun t => .vabs t f.pg f.d f.a
    | _ => none
  | 0x49 => match f.fn.toNat with
    | 0 => pV f .vand | 1 => pV f .vor | 2 => pV f .vxor | 3 => pV f .vshl | 4 => pV f .vshr | 5 => pV f .vsra
    | _ => none
  | 0x4A => (Icc.ofCode f.fn).bind fun cc => pTy f fun t => .vcmp cc t f.pg (lo4 f.d) f.a (pVSrc f)
  | 0x4B => pV f .vsel
  | 0x4C => pTy f fun t => .vbcast t f.pg f.d (if f.m21 then .scal f.b else .elem f.a f.imm)
  | 0x4D => pTy f fun t => .vidx t f.pg f.d f.imm
  | 0x4E => pTy f fun t => .vperm t f.pg f.d f.a f.b
  | 0x4F => pTy f fun t => .vslide t f.pg f.d f.a (if f.m21 then .scal f.b else .imm f.imm)
  | _ => none

/-- OPs 0x50–0x59. -/
def parse5 (f : Fields) : Option Instr :=
  match f.op.toNat with
  | 0x50 => (RedOp.ofCode f.fn).bind fun op => pTy f fun t => .vred op t f.pg f.d f.a
  | 0x51 => (RedOp.ofCode f.fn).bind fun op => pTy f fun t => .vscan op t f.pg f.d f.a
  | 0x52 => match f.fn.toNat with
    | 0 => pVF f .vfadd | 1 => pVF f .vfsub | 2 => pVF f .vfmul | 3 => pVF f fun o => .vfma o f.c | 4 => pVF f .vfmin
    | 5 => pVF f .vfmax | 6 => pVF f .vfdiv | 7 => pVFU f .vfsqrt | 8 => pVFU f .vfrsq
    | _ => none
  | 0x53 => (Fcc.ofCode f.fn).bind fun cc => pTy f fun t => .vfcmp cc t f.pg (lo4 f.d) f.a (pVSrc f)
  | 0x54 => (Ty.ofCode f.b).bind fun st => pVFU f fun o => .vfcvt o.t st o.rm o.sat o.pg o.d o.a
  | 0x55 => (RedOp.ofCode f.fn).bind fun op => pVFU f fun o => .vfred op o.t o.rm o.pg o.d o.a
  | 0x56 => pTy f fun t => .vscl t f.pg f.d f.a (f.imm.extractLsb' 0 7)
  | 0x57 => (Ty.ofCode f.c).bind fun w => pVFU f fun o => .vqnt o.t w o.rm o.sat o.pg o.d o.a f.b (f.imm.extractLsb' 0 7)
  | 0x58 => (Ty.ofCode f.c).bind fun n => pVFU f fun o => .vdqn o.t n o.rm o.pg o.d o.a f.b (f.imm.extractLsb' 0 7)
  | 0x59 => pTy f fun t => .vbpx t f.pg f.d f.a
  | _ => none

/-- OPs 0x60–0x6A. -/
def parse6 (f : Fields) : Option Instr :=
  match f.op.toNat with
  | 0x60 => pMv f .mvgp | 0x61 => pMv f .mvwd | 0x62 => pMv f .mvjn | 0x63 => pMv f .mvlc | 0x64 => pMv f .mvsw
  | 0x65 => (RvOp.ofCode f.fn).bind fun op => pMvU f (.mvrv op)
  | 0x66 => pMvU f .mvdl | 0x67 => pMvU f .mvnm
  | 0x68 => match f.fn.toNat with
    | 0 => some (.mvgmRd f.d f.a) | 1 => some (.mvgmWr f.d f.c) | _ => none
  | 0x69 => pMvU f .mvexp
  | 0x6A => match f.fn.toNat with
    | 0 => pTy f fun t => .mvrowExt t f.pg f.d f.a (f.imm.extractLsb' 0 4)
    | 1 => pTy f fun t => .mvrowIns t f.pg f.d f.a (f.imm.extractLsb' 0 4)
    | _ => none
  | _ => none

/-- OPs 0x70–0x7F. -/
def parse7 (f : Fields) : Option Instr :=
  let nf := f.fn.extractLsb' 1 3
  match f.op.toNat with
  | 0x70 => pMem f .ld | 0x71 => pMem f .st
  | 0x72 => pMem f fun o => .ldw o.t o.d (lo3 f.a) f.b f.imm o.ar
  | 0x73 => pVMem f fun o => .vld o f.m20
  | 0x74 => pVMem f fun o => .vlds o f.m20 f.b
  | 0x75 => pVMem f fun o => .vldg o f.m20 nf
  | 0x76 => pVMem f .vst
  | 0x77 => pVMem f fun o => .vsts o f.b
  | 0x78 => pVMem f fun o => .vstg o nf
  | 0x79 => pVMem f fun o => .vgth o f.b
  | 0x7A => pVMem f fun o => .vsct o f.b
  | 0x7B => pAmo f fun _ o => .vsca o f.pg f.m21
  | 0x7C => pVMem f fun o => .mvld o (pGrade f.m20 f.b)
  | 0x7D => pVMem f fun o => .mvst o (pGrade f.m20 f.b)
  | 0x7E => some (.vspill f.d (pAddr f))
  | 0x7F => some (.vfill f.d (pAddr f))
  | _ => none

/-- OPs 0x80–0x8C. -/
def parse8 (f : Fields) : Option Instr :=
  match f.op.toNat with
  | 0x80 => some (.tlook f.d f.a) | 0x81 => some (.tset (f.imm.extractLsb' 0 12) f.a) | 0x82 => some (.tinv (f.imm.extractLsb' 0 12))
  | 0x83 => pAmo f .amo
  | 0x84 => pAmo f fun _ o => .cas o
  | 0x85 => pAmo f fun op o => .vamo op o f.pg f.m21
  | 0x86 => (AcqRel.ofCode f.c).map fun ar => .mcld f.d f.a f.b ar
  | 0x87 => (AcqRel.ofCode f.c).map fun ar => .mcst f.d f.a f.b ar
  | 0x88 => (AcqRel.ofCode f.c).map fun ar => .mctag f.a f.b ar
  | 0x89 => (Scope.ofCode (lo3 f.c)).map fun s => .fence s (f.fn.extractLsb' 0 5)
  | 0x8A => some (.bari f.a (f.imm.extractLsb' 0 12))
  | 0x8B => some (.bara f.d f.a (f.imm.extractLsb' 0 5))
  | 0x8C => some (.barw (if f.m21 then .p (lo4 f.d) else .x f.d) f.a f.b (f.imm.extractLsb' 0 4))
  | _ => none

/-- OPs 0x90–0x9F. -/
def parse9 (f : Fields) : Option Instr :=
  let kp := f.imm.extractLsb' 0 3
  match f.op.toNat with
  | 0x90 => some (.tdesc (lo3 f.d) f.a f.b)
  | 0x91 => match f.fn.toNat with
    | 0 => some (.tclsSet (lo3 f.d) (f.imm.extractLsb' 0 3)) | 1 => some (.tclsRd f.d (lo3 f.a) (f.imm.getLsbD 0)) | _ => none
  | 0x92 => match f.fn.toNat with
    | 0 => some (.tld (lo3 f.d) (lo3 f.a)) | 1 => some (.tst f.m20 (lo3 f.d) (lo3 f.a)) | _ => none
  | 0x93 => some (.tzero (lo4 f.d))
  | 0x94 => some (.mwld (f.imm.getLsbD 0) (lo3 f.a) (f.imm.extractLsb' 1 3))
  | 0x95 => some .mswap
  | 0x96 => (MmTy.ofCode (f.tyc.extractLsb' 1 4)).map fun m => .mmul (f.tyc.getLsbD 0) m (lo3 f.d) (lo3 f.a) kp
  | 0x97 => (MmTy.ofCode (f.tyc.extractLsb' 1 4)).map fun m => .mmulx (f.tyc.getLsbD 0) m (lo3 f.d) (lo3 f.a) f.b f.c kp
  | 0x98 => some (.mrd f.d (lo3 f.a) (f.imm.extractLsb' 0 7))
  | 0x99 => some (.mwr (lo3 f.d) f.a (f.imm.extractLsb' 0 7))
  | 0x9A => some (.tcvt (lo3 f.d) (lo3 f.a))
  | 0x9B => some (.send (f.imm.extractLsb' 0 8) (lo4 f.d) (lo4 f.a) (lo4 f.b))
  | 0x9C => some (.mtld f.a f.b)
  | 0x9D => some (.mtq f.d (f.imm.extractLsb' 0 8) (lo4 f.a) (lo4 f.b))
  | 0x9E => some .sdret
  | 0x9F => match f.fn.toNat with
    | 0 => some (.tsave f.a) | 1 => some (.tload f.a) | _ => none
  | _ => none

/-- OPs 0xA0–0xAF. -/
def parseA (f : Fields) : Option Instr :=
  match f.op.toNat with
  | 0xA0 => pCpy f .cpy | 0xA1 => pCpy f .cpy2 | 0xA2 => pCpy f .cpyr | 0xA3 => pCpy f .cpys
  | 0xA4 => some (.cpyk (pTok f))
  | 0xA5 => some (.gdg (pTok f) f.a f.b f.c (pMask f) (f.imm.extractLsb' 2 4))
  | 0xA6 => (Ty.ofCode (f.imm.extractLsb' 6 5)).map fun t => .gda (pTok f) t f.a f.b f.c
  | 0xA7 => some (.dsp (pTok f) f.a) | 0xA8 => some (.cmb (pTok f) f.a)
  | 0xA9 => some (.rtlay (pTok f) f.a) | 0xAA => some (.rtprog (pTok f) f.a f.b) | 0xAB => some (.rtin (pTok f) f.a)
  | 0xAC => some (.rtout (pTok f)) | 0xAD => some (.rtacc (pTok f) f.a f.b)
  | 0xAE => some (.vtsend (f.imm.extractLsb' 0 4) f.a)
  | 0xAF => some (.vtwait (if f.imm.getLsbD 4 then some (f.imm.extractLsb' 0 4) else none))
  | _ => none

/-- OPs 0xB0–0xBB, the micro-ops (18 R398). -/
def parseB (f : Fields) : Option Instr :=
  match f.op.toNat with
  | 0xB0 => some .tvFetch | 0xB1 => some .tvLd | 0xB2 => some .tvBox | 0xB3 => some .tvTri
  | 0xB4 => (TvCmp.ofCode f.fn).map .tvCmp
  | 0xB5 => some .tvPush | 0xB6 => some .tvPop | 0xB7 => some .tvLeaf | 0xB8 => some .tvAcc
  | 0xB9 => (TvBr.ofCode f.fn).map fun k => .tvBr k (f.imm.extractLsb' 0 9)
  | 0xBA => match f.fn.toNat with
    | 0 => some (.tvMov .leafi) | 1 => some (.tvMov .near) | _ => none
  | 0xBB => some .tvEnd
  | _ => none

/-- OPs 0xC0–0xC9. -/
def parseC (f : Fields) : Option Instr :=
  match f.op.toNat with
  | 0xC0 => some (.svc f.imm) | 0xC1 => some .tret | 0xC2 => some .end_ | 0xC3 => some (.spawn f.a) | 0xC4 => some (.join f.d)
  | 0xC5 => some (.kill f.d f.a) | 0xC6 => some (.idle f.a) | 0xC7 => some (.pwr f.d f.a) | 0xC8 => some (.chkm f.d f.a)
  | 0xC9 => some (.halt f.a)
  | _ => none

/-- The F-form instruction of the fields that a hart meets, unused fields not yet checked. -/
def parseF (f : Fields) : Option Instr :=
  match f.op.toNat / 16 with
  | 0x0 | 0x1 => parse0 f
  | 0x2 => parse2 f | 0x3 => parse3 f | 0x4 => parse4 f | 0x5 => parse5 f | 0x6 => parse6 f | 0x7 => parse7 f
  | 0x8 => parse8 f | 0x9 => parse9 f | 0xA => parseA f | 0xC => parseC f
  | _ => none

/-- The X-form instruction of a word (13 R280). -/
def parseX (w : Word) : Option Instr :=
  let d : Reg := w.extractLsb' 49 5
  let i := w.extractLsb' 0 48
  match (w.extractLsb' 54 8).toNat with
  | 0x1B => some (.li d i) | 0x1C => some (.lih d (w.extractLsb' 0 16)) | 0x1D => some (.lea d i)
  | 0x30 => some (.b i) | 0x32 => some (.call i)
  | _ => none

/-- The P-form instruction of a word. -/
def parseP (w : Word) : Option Instr := do
  let u ← Slot.parse (w.extractLsb' 31 31)
  let v ← Slot.parse (w.extractLsb' 0 31)
  return .pFormPair u v

/-- What a word is to a hart (13 R284, R285): an instruction, or rejected as ILLEGAL or PAIRING. -/
inductive Decoded
  | ok (i : Instr) | illegal | pairing
  deriving DecidableEq, Repr

/-- Accept a candidate whose own word is the word read. -/
def accept (w : Word) (c : Option Instr) : Decoded :=
  match c with
  | some i => if i.wf && decide (i.encode = w) then .ok i else .illegal
  | none => .illegal

/-- A P-form word: ILLEGAL for its encoding comes before PAIRING (13 R285). -/
def acceptP (w : Word) (c : Option Instr) : Decoded :=
  match c with
  | some i => if i.encode = w then (if i.wf then .ok i else .pairing) else .illegal
  | none => .illegal

/-- The hart's decoder. -/
def decode (w : Word) : Decoded :=
  match (w.extractLsb' 62 2).toNat with
  | 0 => accept w (parseF (Fields.unpack w))
  | 1 => acceptP w (parseP w)
  | 2 => accept w (parseX w)
  | _ => .illegal

/-- The traversal store's decoder (18 R398, 13 R284): none aborts the ray with FCODE 10. -/
def decodeMicro (w : Word) : Option Instr :=
  if (w.extractLsb' 62 2).toNat = 0 then
    match accept w (parseB (Fields.unpack w)) with
    | .ok i => some i
    | _ => none
  else none

/-- What a list of bytes is: an instruction word is eight bytes, little-endian (13 R271). -/
inductive DecodedBytes
  | ok (i : Instr) (rest : List Byte) | illegal | pairing | short
  deriving DecidableEq, Repr

/-- The decoder on bytes, lowest address first. -/
def decodeBytes : List Byte → DecodedBytes
  | b0 :: b1 :: b2 :: b3 :: b4 :: b5 :: b6 :: b7 :: rest =>
    match decode (BitVec.ofNat 64 (Machine.ofBytes [b0, b1, b2, b3, b4, b5, b6, b7])) with
    | .ok i => .ok i rest
    | .illegal => .illegal
    | .pairing => .pairing
  | _ => .short

/-- The instruction whose word has the bits `w`, of which the table gives `nbits`; the rest are zero. A word of the traversal
store is read by its own decoder. -/
def decodeTableWord (nbits w : Nat) : Option Instr :=
  let v := w % 2 ^ nbits
  match decodeBytes (Machine.toBytes 8 v) with
  | .ok i _ => some i
  | _ => decodeMicro (BitVec.ofNat 64 v)

end Sys2Proof
end

