-- ==== Sys2Proof/Config.lean ====
section
/-! DEFINITION. What the machine fixes, and the free values: constants with no body, so that nothing can be proved of the
number one holds. A free value is applied to the counter `State.free`, which the step that draws one advances
(notes/assumptions 6), or to the operands it depends on. -/

namespace Sys2Proof.Config

/-- Cores in the package, and in a die and a cluster (00 R1). -/
def cores : Nat := 512
def coresPerDie : Nat := 64
def coresPerCluster : Nat := 8
/-- Bytes of one core's scratchpad (00 R2). -/
def spadBytes : Nat := 0x400000
/-- Bytes of one HBM stack, and stacks in the package (00 R4, 01 R15). -/
def stackBytes : Nat := 0x1000000000
def hbmStacks : Nat := 24
/-- First byte of the CXL tier, of a port's window, of the device registers, of the scratchpad aperture (01 R15). -/
def cxlBase : Nat := 0x8000000000000
def cxlPortBytes : Nat := 0x40000000000
def devBase : Nat := 0x5000000000000
def spadAperture : Nat := 0x4000000000000
/-- First byte of the remote-package windows, and of one window (01 R15, 10 R234). -/
def remoteBase : Nat := 0xC000000000000
def remoteBytes : Nat := 0x100000000000

/-- Depth of the vector command queue, the matrix command queue, a queue between the harts (00 R2). -/
def vqDepth : Nat := 64
def mqDepth : Nat := 32
def qDepth : Nat := 32

/-- FREE VALUE (log 9): whether an unordered element at or above the faulting one has performed (04 R116). -/
opaque mayPerform : Nat → Nat → Bool

/-- FREE VALUE (log 10): a row of a register that `vfill` leaves undefined (16 R343, 07 R169). -/
opaque fillRow : Nat → Nat → BitVec 4096

/-- FREE VALUE (log 80): what an index of `vbcast` past the elements of a row reads (06 R147, 15 R319). -/
opaque pastRow : BitVec 4096 → Nat → BitVec 8

/-- FREE VALUE (log 11): a stack entry at or above ISP of a ray record the engine writes (09 R198). -/
opaque rayStack : Nat → Nat → BitVec 64

/-- FREE VALUES (log 18): the working state of a ray at injection, which 09 R201 does not state: the condition bit, a byte of the
node buffer, the triangle buffer, the candidate, the hit mask with entry distances, the leaf start. -/
opaque startC : Bool
opaque startNode : Nat → BitVec 8
opaque startTri : Option (List Nat × Nat)
opaque startCand : Option (BitVec 32 × BitVec 32)
opaque startMask : List (Nat × Nat)
opaque startLeaf : BitVec 32

/-- FREE VALUE (log 16): the old value that an atomic brings back from the memory of another package (10 R234). -/
opaque remoteOld : Nat → BitVec 64

/-- FREE VALUE (log 16): whether the old value of an atomic, or of an element of one, comes from a poisoned sector there (10 R234). -/
opaque remoteBad : Nat → Nat → Bool

/-- FREE VALUE (log 16): whether another package translates an address that `dsp` or `cmb` sends it, or the REASON of its fault
(18 R392). -/
opaque remoteFault : Nat → Option (BitVec 4)

/-- FREE VALUE (log 21): a word of the save area of a spilled context, whose layout is private to the device (10 R215). -/
opaque saveArea : Nat → BitVec 64

/-- What is attached to the package (log 23): the GiB that a CXL port's device populates, whether the port runs on 16 lanes at
128 GT/s, and whether a fabric port trains (02 R48, R72, 10 R232). -/
opaque cxlGib : Nat → Nat
opaque cxlTrained : Nat → Bool
opaque portTrained : Nat → Bool

/-- FREE VALUE (log 22): what the host or Brioche reads where the spec states no value: poisoned data, an unbacked stack, the
scratchpad of a core without a context. -/
opaque outsideRead : Nat → BitVec 64

/-- FREE VALUE (log 15): the words of a frame of `tsave` that the spec leaves to the device: the weight banks' area and the
control block (11 R245). -/
opaque controlBlock : Nat → BitVec 64

end Sys2Proof.Config
end

