-- ==== Sys2Proof/Machine/Sparse.lean ====
section
/-! DEFINITION. A sparse map from Nat to values: a list of pairs in one canonical form, keys strictly rising and no entry
equal to the default that an unlisted key reads as. Memory and every numbered register file are such maps, so that equal
contents are equal data. -/

namespace Sys2Proof.Machine

/-- Pairs of a key and a value. -/
abbrev Sparse (β : Type) := List (Nat × β)

/-- The value at a key; `d` is what an unlisted key reads as. -/
def Sparse.get {β : Type} (d : β) : Sparse β → Nat → β
  | [], _ => d
  | (k, v) :: t, j => if k = j then v else Sparse.get d t j

/-- Put an entry at its place in rising order, replacing one with the same key. -/
def Sparse.insert {β : Type} : Sparse β → Nat → β → Sparse β
  | [], j, w => [(j, w)]
  | (k, v) :: t, j, w =>
    if k = j then (j, w) :: t
    else if j < k then (j, w) :: (k, v) :: t
    else (k, v) :: Sparse.insert t j w

/-- Write a value at a key. Writing the default removes the entry. -/
def Sparse.set {β : Type} [DecidableEq β] (d : β) (m : Sparse β) (j : Nat) (w : β) : Sparse β :=
  if w = d then m.filter (fun c => c.1 != j) else Sparse.insert m j w

/-- Every key of the map is above `lo` and the keys rise. -/
def Sparse.rising {β : Type} : Option Nat → Sparse β → Bool
  | _, [] => true
  | none, (k, _) :: t => Sparse.rising (some k) t
  | some l, (k, _) :: t => decide (l < k) && Sparse.rising (some k) t

/-- The canonical form: keys strictly rising and no entry equal to the default. -/
def Sparse.wf {β : Type} [DecidableEq β] (d : β) (m : Sparse β) : Bool :=
  Sparse.rising none m && m.all (fun c => c.2 ≠ d)

end Sys2Proof.Machine
end

