-- ==== Sys2Proof/Machine/State.lean ====
section
/-! DEFINITION. The state of the package as plain data: 512 cores' contexts, memory, the device registers, launches and
everything in flight. One context is in focus (`State.ctx`); the others stand in `State.others`. -/

namespace Sys2Proof.Machine

/-- The two harts of a context (08 R170). -/
inductive HartId
  | acc | exe
  deriving DecidableEq, Repr

/-- Whether a hart issues instructions: `idle` before any launch, `running`, `stopped` by `end` (08 R173), `halted` by a double
trap or by the end of its item (11 R242, R244). -/
inductive Run
  | idle | running | stopped | halted
  deriving DecidableEq, Repr

/-- Why a hart's present instruction has not completed. A stalled instruction is executed again from its start. -/
inductive Wait
  /-- it is not stalled -/
  | none
  /-- scoreboard, full command queue, engine limits and every stall without a rule of its own -/
  | other
  /-- 08 R175: on queue `q`, which is full or else empty -/
  | queue (q : Idx3) (full : Bool)
  /-- 16 R353: in `barw` on the object at an offset of a core's scratchpad, with its destination and phase -/
  | barw (core off : Nat) (dst : BarDst) (ph : BitVec 4)
  /-- 18 R407: in `idle`; whether the wait has a bound -/
  | idle (bounded : Bool)
  /-- 01 R31: on the page with HOLD, of a number of pages of 4 KiB, that holds a virtual address -/
  | hold (va : Word) (pages : Nat)
  /-- 10 R222: for leave of a cost -/
  | leave (cost : Nat)
  /-- 03 R87, R88: for the answers of the replicas -/
  | majority
  /-- 10 R218: the execute hart in its `end`, for the work of the context -/
  | ending
  deriving DecidableEq, Repr

/-- The trap registers of a hart, and the second set of a double trap (11 R236, R244). -/
structure TrapRegs where
  tcause : Word
  taddr : Word
  tpc : Word
  tnpc : Word
  tinfo : Word
  tsp : Word
  hstat : Word
  tcause2 : Word
  taddr2 : Word
  tpc2 : Word
  deriving DecidableEq, Repr

/-- A hart apart from its general registers. `ibuf` holds the words fetched ahead, by virtual address (13 R288). -/
structure HartSt where
  pc : Word
  run : Run
  wait : Wait
  fstat : BitVec 8
  ibuf : Sparse Word
  t : TrapRegs
  deriving DecidableEq, Repr

/-- What a vector entry captures at issue (08 R179). -/
structure Capture where
  vl : Nat
  rc : Nat
  vtype : BitVec 8
  fctl : Word
  spz : Word
  deriving DecidableEq, Repr

/-- The source of an element: a vector register, or a scalar captured at issue. -/
inductive ESrc
  | vec (r : Reg) | val (w : Word)
  deriving DecidableEq, Repr

/-- Element-wise integer operations (15 R317). -/
inductive VIntOp
  | add | sub | mul | mac | min | max | abs | and | or | xor | shl | shr | sra
  deriving DecidableEq, Repr
/-- Element-wise float operations (15 R321). -/
inductive VFltOp
  | add | sub | mul | fma | min | max | div | sqrt | rsq
  deriving DecidableEq, Repr
/-- Predicate logic (15 R315). -/
inductive PLogOp
  | and | or | xor | not
  deriving DecidableEq, Repr
/-- Multivector operations (15 R329). -/
inductive MvOp
  | gp | wd | jn | lc | sw | rev | inv | conj | dl | nm | exp
  deriving DecidableEq, Repr

/-- How the elements of a vector memory instruction are addressed (16 R337). -/
inductive VShape
  | unit | stride (by_ : Word) | seg (nf : Nat) | index (r : Reg)
  deriving DecidableEq, Repr

/-- What a queued entry does, with its scalar operands captured. -/
inductive VOp
  | int (op : VIntOp) (t : Ty) (d a : Reg) (b : ESrc)
  | icmp (cc : Icc) (t : Ty) (d : PReg) (a : Reg) (b : ESrc)
  | sel (t : Ty) (d a : Reg) (b : ESrc)
  | bcastElem (t : Ty) (d a : Reg) (i : Nat)
  | bcastVal (t : Ty) (d : Reg) (w : Word)
  | idx (t : Ty) (d : Reg) (i : Int)
  | perm (t : Ty) (d a b : Reg)
  | slide (t : Ty) (d a : Reg) (s : Int)
  | red (op : RedOp) (t : Ty) (d a : Reg)
  | scan (op : RedOp) (t : Ty) (d a : Reg)
  | flt (op : VFltOp) (t : Ty) (rm : Rm) (sat : Bool) (d a : Reg) (b : ESrc) (c : Reg)
  | fcmp (cc : Fcc) (t : Ty) (d : PReg) (a : Reg) (b : ESrc)
  | fcvt (dt st : Ty) (rm : Rm) (sat : Bool) (d a : Reg)
  | fred (op : RedOp) (t : Ty) (rm : Rm) (d a : Reg)
  | scl (w : Ty) (d a : Reg) (i : Nat)
  | qnt (n w : Ty) (rm : Rm) (sat : Bool) (d a s : Reg) (i : Nat)
  | dqn (w n : Ty) (rm : Rm) (d a s : Reg) (i : Nat)
  | bpx (k : Nat) (d a : Reg)
  | mv (op : MvOp) (t : Ty) (rm : Rm) (k : Option (BitVec 5)) (d a b : Reg)
  | gmRd (d a : Reg)
  | gmWr (d : Reg) (k : BitVec 5)
  | rowExt (t : Ty) (d a : Reg) (r : Nat)
  | rowIns (t : Ty) (d a : Reg) (r : Nat)
  | plim (d : PReg) (n : Word)
  | plog (op : PLogOp) (d a b : PReg)
  | pcnt (d : Reg) (a : PReg)
  | pfirst (d : Reg) (a : PReg)
  | load (sh : VShape) (t : Ty) (d : Reg) (sp : Bool) (base : Word) (ar : AcqRel) (ord ft : Bool)
  | store (sh : VShape) (t : Ty) (d : Reg) (sp : Bool) (base : Word) (ar : AcqRel) (ord : Bool)
  | sca (t : Ty) (rm : Rm) (d : Reg) (sp : Bool) (base : Word) (b : Reg) (ar : AcqRel) (ord : Bool)
  | amo (op : AmoOp) (t : Ty) (rm : Rm) (d : Reg) (sp : Bool) (base : Word) (b : Reg) (ar : AcqRel) (ord : Bool)
  | mvLoad (t : Ty) (d : Reg) (sp : Bool) (base : Word) (ar : AcqRel) (ord : Bool) (q : Option (BitVec 5))
  | mvStore (t : Ty) (d : Reg) (sp : Bool) (base : Word) (ar : AcqRel) (ord : Bool) (q : Option (BitVec 5))
  | spill (d : Reg) (sp : Bool) (base : Word)
  | fill (d : Reg) (m : Addr) (base : Word)
  | lanes (p : PReg) (block : Word)
  deriving DecidableEq, Repr

/-- Where a replayed entry resumes (11 R241): from its start, from the element that ES named at the `tret`, or with only the elements
that FMR named then. -/
inductive Resume
  | fresh | elem (row elem : Nat) | mask (m : Pred)
  deriving DecidableEq, Repr

/-- A vector command queue entry (08 R179). `leave` is the heavy operation it completes, if any (10 R221); `grades` the result mask that a
multivector operation had inferred when it trapped, with which its restart goes on (07 R163, R167). -/
structure VEntry where
  op : VOp
  pg : PReg
  cap : Capture
  pos : Nat
  pc : Word
  resume : Resume
  leave : Option Nat
  grades : Option (BitVec 5) := none
  deriving DecidableEq, Repr

/-- The vector registers and what the vector stream holds. `rows` is keyed by 16 × register + row; a row not listed is zero,
a grade mask not listed is 0b11111, a predicate not listed is zero (08 R171, 07 R162, 15 R314). -/
structure Vec where
  rows : Sparse Row
  gm : Sparse (BitVec 5)
  preds : Sparse Pred
  vl : Nat
  rc : Nat
  vtype : BitVec 8
  vq : List VEntry
  saved : List VEntry
  vpos : Nat
  lfstat : BitVec 8
  deriving DecidableEq, Repr

/-- The state registers of a context that neither the vector unit nor a hart holds (13 R279). -/
structure SRegs where
  fctl : Word
  spz : Word
  qdir : BitVec 8
  hwin : Word
  pto : Word
  sendarg : Word
  es : Word
  fmr : BitVec 512
  ftr : Word
  tqp : Word
  wix : Sparse Word
  wext : Sparse Word
  rfrb : Word
  rdrb : Word
  rib : Sparse Word
  deriving DecidableEq, Repr

/-- A weight format: an activation type, or bit-plane of a number of planes (08 R191). -/
inductive WFmt
  | fmt (f : MmTy) | bp (planes : Nat)
  deriving DecidableEq, Repr

/-- What a matrix command queue entry does, descriptors captured at commit (17 R358). -/
inductive MOp
  | load (bank : Bool) (desc : BitVec 128) (kp : Nat)
  | swap
  | mul (set : Bool) (f : MmTy) (t : Idx3) (desc : BitVec 128) (kp : Nat) (m : Nat) (list : Option Nat)
  | read (d : Reg) (t : Idx3) (row rc : Nat)
  | write (t : Idx3) (s : Reg) (row rc : Nat)
  | tld (t : Idx3) (desc : BitVec 128)
  | tst (sat : Bool) (desc : BitVec 128) (t : Idx3)
  | tcvt (n m : BitVec 128)
  | zeroAcc (t : Idx3)
  | zeroTile (desc : BitVec 128)
  | add (t : Idx3) (a b : Idx3 ⊕ BitVec 128) (rows cols : Nat)
  deriving DecidableEq, Repr

/-- A matrix command queue entry. `next` is the first row a stream has not yet injected; `strip` says that the open strip issued it
(11 R251), and `told` that the hart has taken its machine check (notes/assumptions 66). -/
structure MEntry where
  op : MOp
  spz : Word
  pc : Word
  next : Nat
  leave : Option Nat
  strip : Bool := false
  told : Bool := false
  deriving DecidableEq, Repr

/-- An accumulator row computed and not yet checked (11 R253, R254). -/
structure PendRow where
  row : Nat
  val : Row
  flags : BitVec 8
  bank : Bool
  failed : Bool
  leave : Option Nat
  deriving DecidableEq, Repr

/-- A method table entry (17 R371), its 128 bits. -/
abbrev Method := BitVec 128

/-- What `tsave` saves beside the accumulator rows of the frame (11 R245): the frame holds it in the banks' area and the
device-private control block, whose bytes are free values of a number `mark`. -/
structure TFrame where
  mark : Nat
  mq : List MEntry
  desc : Sparse (BitVec 128)
  wts : Sparse Nat
  wscale : Sparse Byte
  wfmt0 : Option WFmt
  wfmt1 : Option WFmt
  act : Bool
  cfmt0 : Option WFmt
  cfmt1 : Option WFmt
  cact : Bool
  poisoned : List Nat
  deriving DecidableEq, Repr

/-- The matrix state of a context. `acc` is keyed by 128 × accumulator + row; weights are keyed by
131072 × bank + 1024 × column + k, with the MX4 scale of 32 weights keyed by 4096 × bank + 32 × column + k / 32. `wfmt` and `act`
are the latched formats and the active bank as the stream has them, `cfmt` and `cact` as the execute hart tracks them in program
order (17 R360). -/
structure Mat where
  mq : List MEntry
  acc : Sparse Row
  accPoison : List Nat
  pend : List PendRow
  desc : Sparse (BitVec 128)
  wts : Sparse Nat
  wscale : Sparse Byte
  wfmt0 : Option WFmt
  wfmt1 : Option WFmt
  act : Bool
  cfmt0 : Option WFmt
  cfmt1 : Option WFmt
  cact : Bool
  frame : Option TFrame
  methods : List Method
  sendstk : List Word
  deriving DecidableEq, Repr

/-- The kinds of engine commands (18 R381 to R397). -/
inductive CmdKind
  | cpy | cpy2 | cpyr | cpys | gdg | gda (t : Ty) | dsp | cmb | rtlay | rtprog | rtin | rtout | rtacc
  deriving DecidableEq, Repr

/-- A command of an engine that has not yet written its token (18 R381 to R386): its operands as captured at issue, with the
descriptor and the route entries of `dsp` and `cmb` (R392), and the last port they used (R395); of its `total` chunks, rows or windows those below `next` and those of
`doneCh` are done, and `badCh` names the chunks of a gather that lack a position; what the token will report. -/
structure Cmd where
  id : Nat
  kind : CmdKind
  hart : HartId
  tok : Reg
  mask : Option PReg
  ck : Nat
  rsp : Bool
  ss : Bool
  ds : Bool
  dst : Word
  src : Word
  c0 : Word
  c1 : Word
  desc : BitVec 512
  routes : List Word
  spz : Word
  next : Nat
  total : Nat
  doneCh : List Nat
  badCh : List Nat
  units : Nat
  fault : Option (Word × Nat)
  bnd : Bool
  psn : Bool
  cancel : Bool
  reject : Option Nat
  link : Option Nat
  port : Option Nat
  flags : BitVec 8
  leave : Option Nat
  deriving DecidableEq, Repr

/-- Why a ring cannot be used (09 R204): it is off, its header is malformed or poisoned, or translation faults with TINFO. -/
inductive Blockage
  | off | malformed | poisoned | xlate (info : Word)
  deriving DecidableEq, Repr

/-- Where a ray stands in its engine: running, or holding its slot until a ring takes its record (09 R204, R205): ring 0 is the
fault ring, 1 the done ring, 2 + d the inbox of die d; the HEAD value and address of the slot reserved, if any; the blockage that has
been reported, by its address and cause; FADDR and FINFO. -/
inductive RayPhase
  | run
  | out (ring : Nat) (slot : Option (Word × Word)) (told : Option (Word × Blockage)) (faddr finfo : Word)
  deriving DecidableEq, Repr

/-- A ray in flight: the committed record, its working copy, and the working state (09 R198, R200, R201). `held` has the spill
writes of the step, newest first, by physical address; `reread` stands until the re-read of R199; `part` has the bytes that an
unfinished read of a node, an index or a triangle has brought so far (09 R206), and `prim` the index once it has been read. -/
structure Ray where
  id : Nat
  rcd : BitVec 1024
  work : BitVec 1024
  held : List (Nat × Word)
  reread : Bool
  c : Bool
  nb : List Byte
  pb : Option (List Nat × Nat)
  cand : Option (Nat × Nat)
  mask : List (Nat × Nat)
  lstart : Nat
  count : Nat
  suspend : Bool
  phase : RayPhase
  part : List Byte := []
  prim : Option Nat := none
  deriving DecidableEq, Repr

/-- The ray traversal engine of a context. `focus` is the ray the micro-op rows act on; `event` is a pending RAY_FAULT. -/
structure RayEng where
  layout : Option (BitVec 256)
  ustore : Sparse Word
  rays : List Ray
  focus : Nat
  event : Option (Word × Word)
  deriving DecidableEq, Repr

/-- A store not yet performed, held by a strip or a lane block: to a physical address, or to a place of the scratchpad. `rel` is the
scope of a release in a lane block; `vp` and `grp` the element and the number of a block that has retired into a strip (10 R224); `bad`
says that the bytes are written as poisoned (11 R255); `who` the keys of the parties that have read it, and `level` the scope at which it
performs for what they did since (04 R100, R107, R109). -/
structure Held where
  spad : Bool
  addr : Nat
  bytes : List Byte
  rel : Option Scope := none
  vp : Option Nat := none
  grp : Nat := 0
  bad : Bool := false
  who : List Nat := []
  level : Scope := .core
  deriving DecidableEq, Repr

/-- The open strip (02 R69 to R71, 11 R250, R251). -/
structure Strip where
  pc : Word
  vl : Nat
  rc : Nat
  vtype : BitVec 8
  xs : List (Nat × Word)
  revocable : Bool
  held : List Held
  rewinds : Nat
  rewound : Bool
  deriving DecidableEq, Repr

/-- What a release leaves for the acquire that reads it (04 R107, R108): the releasing core, the scope, and a key that the stores
known to the releasing party carry. -/
structure Sync where
  core : Nat
  scope : Scope
  key : Nat
  deriving DecidableEq, Repr

/-- A store that a hart made to a byte of its scratchpad, while it still matters who has acquired it (04 R107, R112): the byte it
replaced, its writer, the parties that have acquired it, and the releases that it carries; `grp` numbers the block that it is a part of
(04 R118), and `shown` says that it has become visible to every party. -/
structure SpadStore where
  off : Nat
  old : Byte
  own : Nat
  who : List Nat
  sync : List Sync
  grp : Nat := 0
  shown : Bool := false
  deriving DecidableEq, Repr

/-- The state of a virtual processor (08 R185 to R187): a fault aborts it, and `vtwait` reports the abort. A virtual processor
whose block has retired is gone. -/
inductive VpState
  | running | aborted (cause : Nat) (addr info : Word) | reported
  deriving DecidableEq, Repr

/-- A word of a lane block as `vtsend` read it (13 R288): the word, the fault of its fetch, or nothing yet, on a page with HOLD or
after a fault that a restart reads again. -/
inductive BlockWord
  | word (w : Word) | fault (cause : Nat) (addr info : Word) | unread
  deriving DecidableEq, Repr

/-- A virtual processor of a lane block: its element and width, its block, the words of it and where it stands, FCTL and SPZ as
captured (14 R307), whether the open strip's `vtsend` started it, and what it holds until the block retires: register writes, stores
newest first and their number, and flags. -/
structure Vp where
  elem : Nat
  ew : Nat
  block : Word
  words : List BlockWord
  pc : Word
  fctl : Word
  spz : Word
  strip : Bool
  regs : List (Reg × Word)
  held : List Held
  stores : Nat
  flags : BitVec 8
  st : VpState
  deriving DecidableEq, Repr

/-- The scratchpad of a context by physical offset, its poisoned words, and the tag table (02 R52 to R60, 11 R255). -/
structure Spad where
  bytes : Sparse Byte
  poison : List Nat
  tags : Sparse Word
  deriving DecidableEq, Repr

/-- Where a context stands (10 R211, R214, R216). -/
inductive Place
  | empty | active | shadow | spilling | spilled
  deriving DecidableEq, Repr

/-- One context (08 R170) with all that belongs to it. `qk` has, for each entry of a queue, the key of its release (04 R115); `slog`
the scratchpad stores of the harts that 04 R107 and R112 still ask about, newest first; `lane` the element of the virtual processor
whose instruction runs, in the middle of a step only. `save` is the save area of a spilled context: its first byte, and the number
of the free values that its bytes are (10 R215). `kept` says that a double trap ended the item and that its trap registers stay
readable (11 R244). -/
structure Context where
  core : Nat
  bank : Nat
  place : Place
  launch : Nat
  item : Nat
  asid : BitVec 12
  ctl : Word
  ah : HartSt
  xh : HartSt
  ax : Sparse Word
  v : Vec
  q : Sparse (List Word)
  qk : Sparse (List Nat)
  sr : SRegs
  m : Mat
  spad : Spad
  cmds : List Cmd
  ray : RayEng
  strip : Option Strip
  vps : List Vp
  kids : List Nat
  win : Sparse (BitVec 128)
  standing : Nat
  save : Option (Nat × Nat)
  slog : List SpadStore
  lane : Option Nat
  kept : Bool := false
  deriving DecidableEq, Repr

/-- A store that has performed in its writer's core instance, and how far it is visible (04 R99); the key of its writer, the keys of
the parties that made it, read it or acquired it (04 R107), the block whose stores become visible with it, if any (04 R118), and the
releases that it carries (04 R108). -/
structure PStore where
  addr : Nat
  bytes : List Byte
  core : Nat
  level : Scope
  own : Nat := 2097151
  who : List Nat := []
  grp : Nat := 0
  sync : List Sync := []
  deriving DecidableEq, Repr

/-- A cached translation of a die (01 R20, R21, R41): its first page and their number, the entry of that page with A, D, UO and G as
the walk read them and hardware changed them since, and its address; for a group of 64 KiB those four bits of each of its sixteen
members (`pte` has them zero there); `fresh`, that the access for which it was installed has yet to use it (R41). -/
structure TlbEntry where
  die : Nat
  asid : BitVec 12
  vpn : Nat
  pages : Nat
  pte : Word
  pteAddr : Nat
  group : List Nat := []
  fresh : Bool := false
  deriving DecidableEq, Repr

/-- An entry of a victim queue (01 R42). -/
structure Victim where
  uo : Bool
  g : Bool
  asid : BitVec 12
  vpn : Nat
  deriving DecidableEq, Repr

/-- An answer of a replica (03 R86 to R88); `was` says that an accepted write met poison (03 R85). -/
inductive Answer
  | accept (was : Bool) | reject (tag : Word) | value (bytes : List Byte) (tag : Word) | poisoned | lost
  deriving DecidableEq, Repr

/-- A majority operation in flight (03 R87, R88), of a context of a launch, with the instruction that began it. `orphan`: the item has
ended, and the operation goes on to its end without a hart that takes the result (10 R219, 11 R242). -/
structure MajOp where
  id : Nat
  instr : Instr
  launch : Nat
  asid : BitVec 12
  orphan : Bool
  deg : Bool
  core : Nat
  bank : Nat
  hart : HartId
  store : Bool
  addr : Word
  pa : Nat
  mset : BitVec 4
  tag : Word
  acc : Nat
  rej : Nat
  lost : Nat
  newest : Word
  good : List (Nat × List Byte × Word)
  bad : List Nat
  badLost : List Nat
  stale : List Nat
  wrote : Bool
  result : Option (Option (List Byte × Word))
  deriving DecidableEq, Repr

/-- The releases that a majority store of a tag carries (04 R108, R111). -/
structure MajRel where
  pa : Nat
  tag : Word
  sync : List Sync
  deriving DecidableEq, Repr

/-- A tagged write on its way to a replica; `op` is the operation that awaits the answer, if any (03 R86). -/
structure RepWrite where
  op : Option Nat
  replica : Nat
  stk : Nat
  pa : Nat
  bytes : List Byte
  tag : Word
  deriving DecidableEq, Repr

/-- A read request or an answer on its way back (03 R88). -/
structure RepAnswer where
  op : Nat
  replica : Nat
  stk : Nat
  pa : Nat
  ans : Option Answer
  deriving DecidableEq, Repr

/-- What Brioche or the host is told (10 R228, 11 R244, R254, R255, R257). -/
inductive Notice
  | machineCheck (core : Nat) (addr info : Word)
  | handlerDouble (core bank : Nat) (hart : HartId)
  | completionLost (addr word : Word)
  | rowFailure (core row : Nat)
  | chkm (seq : Nat) (core : Nat) (val : Word)
  | halt (core : Nat) (pc : Word) (code : Nat)
  | portDown (port : Nat)
  | linkFail (core : Nat) (port : Nat)
  deriving DecidableEq, Repr

/-- A launch from acceptance until its completion word is written, and until it is joined (10 R207 to R219): its record and method
table, home die, the dies it is dealt over, the items placed with their cores, gangs with their clusters, items ended. -/
structure Launch where
  id : Nat
  rcd : BitVec 2048
  home : Nat
  dies : List Nat
  viaHost : Bool
  parent : Option Nat
  ep : Nat
  methods : List Method
  placed : List (Nat × Nat)
  gangs : List (Nat × Nat)
  ended : List Nat
  placedSinceTick : Bool
  faulted : Option Nat
  killed : Bool
  aborted : Option Nat
  flags : BitVec 8
  written : Bool
  status : Nat
  deriving DecidableEq, Repr

/-- A request for leave, or leave granted (10 R222): under standing leave or not; claimed once its operation has committed. -/
structure Leave where
  id : Nat
  die : Nat
  core : Nat
  bank : Nat
  hart : HartId
  cost : Nat
  prio7 : Bool
  standing : Bool
  claimed : Bool
  deriving DecidableEq, Repr

/-- The checkpoint engine (02 R72 to R76): CKCTL, CKDST and CKSTAT; KIND and STACKS, and the destination, of the command that runs, which
writes of CKCTL and CKDST leave as they are; the granules of 64 KiB that it has copied, and whether one was uncorrectable. -/
structure Ckpt where
  ctl : Word
  dst : Word
  stat : Word
  cur : Word
  curDst : Word
  copied : List Nat
  bad : Bool
  deriving DecidableEq, Repr

/-- A fabric port (10 R232, 11 R256, R257): live, flits accepted, failures in a row of the present flit, flits since its injector was
armed. -/
structure Port where
  live : Bool
  seq : Nat
  fails : Nat
  since : Nat
  deriving DecidableEq, Repr

/-- The device registers of the package (01 R24, 02 R72, 03 R83 to R91, 10, 11 R256). `xatbIgnored` and `xinvErr`: an XATB write has
been ignored; the running XINV command will report one (01 R25, R33). `xmsetLive`: the replica sets in force. `lsubHost`: the dies whose
pending submission came over the host port (10 R209). `unloaded`: the functions whose firmware image has failed, as a die or the hub with
its readiness bit (10 R230). -/
structure Dev where
  xatb : Word
  xatbIgnored : Bool
  xinv : Word
  xinvErr : Bool
  xmset : Sparse Word
  xmsetLive : Sparse Word
  xvq : Sparse (List Victim)
  xvqov : Sparse Word
  ckpt : Ckpt
  mcbase : Word
  mclost : Word
  mcrenew : Word
  mcscrub : Word
  mcc : Sparse (BitVec 24)
  lsub : Sparse Word
  lsubHost : List Nat
  lkill : Word
  pwrbud : Sparse Word
  pwrto : Sparse Word
  pwruse : Sparse Word
  rdyhub : Word
  rdydie : Sparse Word
  cmap : Sparse Word
  scanctl : Word
  csa : Sparse Word
  bootstat : Word
  linjctl : Sparse Word
  linjcnt : Sparse Word
  pkgid : Word
  lnken : Word
  lnktbl : Sparse (BitVec 96)
  ports : Sparse Port
  cxlGib : Sparse Nat
  unloaded : List (Option Nat × Nat) := []
  deriving DecidableEq, Repr

/-- Where a request to another package stands (11 R257): in flight over a port, arrived, or lost with a port and no other to take. -/
inductive Way
  | over (port : Nat) | arrived | lost (port : Nat)
  deriving DecidableEq, Repr

/-- Who made a request to another package: a hart of a bank, or for one of `dsp` its command too. -/
structure Requester where
  core : Nat
  bank : Nat
  hart : HartId
  cmd : Option Nat
  deriving DecidableEq, Repr

/-- A store or atomic sent over the link to another package (04 R123, 10 R234): at an address of its HBM, or for a row of `dsp` at
a virtual address that the other package translates under an ASID (18 R392). `bad` says that some byte is poisoned (11 R255). Until it
has arrived, `who` has the keys of the parties that know it (04 R107), and `space` the ASID under which it was translated (01 R34). -/
structure Remote where
  pkg : Nat
  asid : Option (BitVec 12)
  addr : Nat
  bytes : List Byte
  atomic : Bool
  bad : Bool
  way : Way
  by_ : Requester
  who : List Nat := []
  space : BitVec 12 := 0#12
  deriving DecidableEq, Repr

/-- What happens next: the hart in focus takes its next instruction, the engine of the context in focus runs the next micro-op
of a ray, or an event of the opcode table happens. -/
inductive Act
  | instr | micro (ray : Nat) | event (i : Instr)
  deriving DecidableEq, Repr

/-- One entry of the agenda: which core, bank and hart is in focus, and what happens. -/
structure Move where
  core : Nat
  bank : Nat
  hart : HartId
  act : Act
  deriving DecidableEq, Repr

/-- The whole machine. `queues` holds the launches with unplaced items, first to be served first, keyed by 8 × die + priority
(10 R211). `answer` is what the latest read by the host or Brioche returned. `agenda`, `hart`, `answer` and `free` are the MODEL's
own (notes/assumptions 2, 6 and 22). -/
structure State where
  agenda : List Move
  hart : HartId
  ctx : Context
  others : List Context
  mem : Sparse Byte
  sideband : Sparse Word
  poison : List Nat
  correctable : List Nat
  stores : List PStore
  remote : List Remote
  tlb : List TlbEntry
  dev : Dev
  maj : List MajOp
  repWrites : List RepWrite
  repAnswers : List RepAnswer
  majRel : List MajRel
  launches : List Launch
  queues : Sparse (List Nat)
  nextId : Nat
  leaveQ : List Leave
  heavy : List Leave
  notices : List Notice
  msix : List Nat
  evseq : Nat
  answer : Word
  free : Nat
  deriving DecidableEq, Repr

/-- Why the machine stops. -/
inductive Fault
  /-- Raised by the access of the host or of Brioche to a physical address that 01 R15 leaves reserved. SAFE: the model stops
  where nothing answers. -/
  | physicalHole (addr : Nat)
  deriving DecidableEq, Repr

/-- Why a step has no meaning in the model. -/
inductive Refusal
  /-- Raised by exec's arm of an instruction that has no meaning yet. SAFE: nothing can be proved of it. -/
  | notModelled (mnemonic : String)
  /-- Raised by an outside access to a device register that no rule of the spec lists. SAFE: nothing can be proved of it. -/
  | unlistedDeviceRegister (addr : Nat)
  deriving DecidableEq, Repr

/-- Trap registers at launch start (11 R236). -/
def TrapRegs.zero : TrapRegs :=
  { tcause := 0#64, taddr := 0#64, tpc := 0#64, tnpc := 0#64, tinfo := 0#64, tsp := 0#64, hstat := 0#64,
    tcause2 := 0#64, taddr2 := 0#64, tpc2 := 0#64 }

/-- A hart of a bank that holds no context. -/
def HartSt.idle : HartSt := { pc := 0#64, run := .idle, wait := .none, fstat := 0#8, ibuf := [], t := TrapRegs.zero }

/-- The vector state at launch start (08 R171). -/
def Vec.start : Vec :=
  { rows := [], gm := [], preds := [], vl := 0, rc := 1, vtype := 0#8, vq := [], saved := [], vpos := 0, lfstat := 0#8 }

/-- The state registers at launch start (08 R171, 11 R236, R249). -/
def SRegs.start : SRegs :=
  { fctl := 0#64, spz := 0#64, qdir := 0#8, hwin := 0#64, pto := 18000000#64, sendarg := 0#64, es := 0#64, fmr := 0#512,
    ftr := 0#64, tqp := 0#64, wix := [], wext := [], rfrb := 0#64, rdrb := 0#64, rib := [] }

/-- The matrix state at launch start (08 R171). -/
def Mat.start : Mat :=
  { mq := [], acc := [], accPoison := [], pend := [], desc := [], wts := [], wscale := [], wfmt0 := none, wfmt1 := none,
    act := false, cfmt0 := none, cfmt1 := none, cact := false, frame := none, methods := [], sendstk := [] }

/-- The scratchpad and tag table at launch start (02 R54). -/
def Spad.start : Spad := { bytes := [], poison := [], tags := [] }

/-- The ray engine at launch start (09 R196, R197). -/
def RayEng.start : RayEng := { layout := none, ustore := [], rays := [], focus := 0, event := none }

/-- A bank that holds no context. -/
def Context.empty (core bank : Nat) : Context :=
  { core := core, bank := bank, place := .empty, launch := 0, item := 0, asid := 0#12, ctl := 0#64, ah := HartSt.idle,
    xh := HartSt.idle, ax := [], v := Vec.start, q := [], qk := [], sr := SRegs.start, m := Mat.start, spad := Spad.start, cmds := [],
    ray := RayEng.start, strip := none, vps := [], kids := [], win := [], standing := 0, save := none, slog := [],
    lane := none }

/-- The device registers after reset. -/
def Dev.reset : Dev :=
  { xatb := 0#64, xatbIgnored := false, xinv := 0#64, xinvErr := false, xmset := [], xmsetLive := [], xvq := [], xvqov := [],
    ckpt := { ctl := 0#64, dst := 0#64, stat := 0#64, cur := 0#64, curDst := 0#64, copied := [], bad := false },
    mcbase := 0#64, mclost := 0#64, mcrenew := 0#64, mcscrub := 0#64, mcc := [], lsub := [], lsubHost := [], lkill := 0#64,
    pwrbud := [], pwrto := [], pwruse := [], rdyhub := 0#64, rdydie := [], cmap := [], scanctl := 0#64, csa := [],
    bootstat := 0#64, linjctl := [], linjcnt := [], pkgid := 0#64, lnken := 0#64, lnktbl := [], ports := [], cxlGib := [] }

/-- The machine right after device reset: no context is live, and the first bank of core 0 is in focus. The empty contexts of
the other banks are added when they are first used. -/
def State.reset : State :=
  { agenda := [], hart := .exe, ctx := Context.empty 0 0, others := [], mem := [], sideband := [], poison := [],
    correctable := [], stores := [], remote := [], tlb := [], dev := Dev.reset, maj := [], repWrites := [], repAnswers := [], majRel := [],
    launches := [], queues := [], nextId := 0, leaveQ := [], heavy := [], notices := [], msix := [], evseq := 0, answer := 0#64, free := 0 }

end Sys2Proof.Machine
end

