-- ==== Sys2Proof/Machine/Ops.lean ====
section
/-! DEFINITION. The named operations over registers, scratchpad and contexts; the scoreboard; taking an exception and the end of
an item. Memory and translation stand in Mem.lean and Translate.lean. -/

namespace Sys2Proof.Machine

/-- The outcome of a step. -/
abbrev Out := Host.Outcome State Fault Refusal

/-! ## Contexts and harts -/

/-- A hart of a context. -/
def Context.hs (c : Context) : HartId → HartSt
  | .acc => c.ah
  | .exe => c.xh

/-- Replace a hart of a context. -/
def Context.setHs (c : Context) (h : HartId) (x : HartSt) : Context :=
  match h with
  | .acc => { c with ah := x }
  | .exe => { c with xh := x }

/-- The other hart (08 R175). -/
def HartId.other : HartId → HartId
  | .acc => .exe
  | .exe => .acc

/-- The hart in focus. -/
def State.hs (s : State) : HartSt := s.ctx.hs s.hart

/-- Replace the context in focus. -/
def State.setCtx (s : State) (c : Context) : State := { s with ctx := c }

/-- Replace the hart in focus. -/
def State.setHs (s : State) (x : HartSt) : State := s.setCtx (s.ctx.setHs s.hart x)

/-- The program counter of the hart in focus (13 R286). -/
def State.pc (s : State) : Word := s.hs.pc

/-- Set the program counter of the hart in focus. -/
def State.setPc (s : State) (a : Word) : State := s.setHs { s.hs with pc := a }

/-- Go on to the next word. -/
def State.advance (s : State) : State := s.setPc (s.pc + 8#64)

/-- Set why the hart in focus waits. -/
def State.setWait (s : State) (w : Wait) : State := s.setHs { s.hs with wait := w }

/-- The die of a core, and its cluster (00 R1). -/
def dieOf (core : Nat) : Nat := core / Config.coresPerDie
def clusterOf (core : Nat) : Nat := core / Config.coresPerCluster

/-- The contexts of the package, the one in focus first. -/
def State.contexts (s : State) : List Context := s.ctx :: s.others

/-- Change every context that satisfies the test. -/
def State.mapCtx (s : State) (p : Context → Bool) (f : Context → Context) : State :=
  { s with ctx := if p s.ctx then f s.ctx else s.ctx, others := s.others.map fun c => if p c then f c else c }

/-- A context is in a bank of a core. -/
def Context.isAt (c : Context) (core bank : Nat) : Bool := decide (c.core = core) && decide (c.bank = bank)

/-- Both harts have stopped for good and no engine command is left: the item has ended (11 R242). -/
def Context.ended (c : Context) : Bool :=
  decide (c.ah.run = .halted) && decide (c.xh.run = .halted) && c.cmds.isEmpty

/-- A bank or save area holds a context (10 R211). -/
def Context.held (c : Context) : Bool := decide (c.place ≠ .empty) && !c.ended

/-- Bring the context of a core and bank into focus; a bank not listed holds no context. -/
def State.focus (s : State) (core bank : Nat) (h : HartId) : State :=
  if s.ctx.isAt core bank then { s with hart := h }
  else
    match s.others.find? (fun c => c.isAt core bank) with
    | some c => { s with ctx := c, hart := h, others := s.ctx :: s.others.filter (fun x => !x.isAt core bank) }
    | none => { s with ctx := Context.empty core bank, hart := h, others := s.ctx :: s.others }

/-- A hart in `idle` goes on (18 R407). -/
def HartSt.wake (x : HartSt) : HartSt :=
  match x.wait with
  | .idle _ => { x with pc := x.pc + 8#64, wait := .none }
  | .none | .other | .queue _ _ | .barw _ _ _ _ | .hold _ _ | .leave _ | .majority | .ending => x
/-- A token or chunk-mask write, or a pending event, for a context. -/
def Context.wake (c : Context) : Context := { c with ah := c.ah.wake, xh := c.xh.wake }

/-! ## Launch modes of a context (10 R207) -/

def Context.sg (c : Context) : Bool := c.ctl.getLsbD 12
def Context.slc (c : Context) : Bool := c.ctl.getLsbD 13
def Context.pre (c : Context) : Bool := c.ctl.getLsbD 14
def Context.lbe (c : Context) : Bool := c.ctl.getLsbD 15
def Context.prio (c : Context) : Nat := bits c.ctl.toNat 0 3

/-! ## Vector registers, grade masks and predicates (07 R162, 15 R314) -/

/-- The grade of a row: the grade of the blade it holds (07 R157). -/
def gradeOfRow (r : Nat) : Nat :=
  if r = 0 then 0 else if r < 5 then 1 else if r < 11 then 2 else if r < 15 then 3 else 4

/-- The grade mask of a register. -/
def Vec.mask (v : Vec) (r : Nat) : BitVec 5 := Sparse.get 31#5 v.gm r
def Vec.setMask (v : Vec) (r : Nat) (k : BitVec 5) : Vec := { v with gm := Sparse.set 31#5 v.gm r k }

/-- The bits a row holds, whatever the mask. -/
def Vec.raw (v : Vec) (r row : Nat) : Row := Sparse.get 0#4096 v.rows (16 * r + row)
def Vec.setRaw (v : Vec) (r row : Nat) (x : Row) : Vec := { v with rows := Sparse.set 0#4096 v.rows (16 * r + row) x }

/-- Read a row: +0 in every slot when its grade is absent. -/
def Vec.row (v : Vec) (r row : Nat) : Row :=
  if (v.mask r).getLsbD (gradeOfRow row) then v.raw r row else 0#4096

/-- Zero every row of a grade. -/
def Vec.zeroGrade (v : Vec) (r g : Nat) : Vec :=
  (List.range 16).foldl (fun v row => if gradeOfRow row = g then v.setRaw r row 0#4096 else v) v

/-- The revival of R162, before a row of an absent grade is written. -/
def Vec.revive (v : Vec) (r row : Nat) : Vec :=
  let g := gradeOfRow row
  if (v.mask r).getLsbD g then v
  else (v.zeroGrade r g).setMask r (v.mask r ||| BitVec.ofNat 5 (2 ^ g))

/-- Write a row, by an instruction other than a multivector one. -/
def Vec.setRow (v : Vec) (r row : Nat) (x : Row) : Vec := (v.revive r row).setRaw r row x

/-- Replace the low 64 bits of a row: slot 0 (08 R182). -/
def slot0 (x : Row) (w : Word) : Row := (x.extractLsb' 64 4032) ++ w

/-- Execute-hart register xN: slot 0 of row 0 of vN. -/
def Vec.x (v : Vec) (r : Nat) : Word := (v.row r 0).extractLsb' 0 64
def Vec.setX (v : Vec) (r : Nat) (w : Word) : Vec :=
  let v := v.revive r 0
  v.setRaw r 0 (slot0 (v.raw r 0) w)

/-- A predicate; p0 is all ones and a write of it has no effect. -/
def Vec.pred (v : Vec) (p : PReg) : Pred :=
  if p = 0#4 then BitVec.allOnes 512 else Sparse.get 0#512 v.preds p.toNat
def Vec.setPred (v : Vec) (p : PReg) (x : Pred) : Vec :=
  if p = 0#4 then v else { v with preds := Sparse.set 0#512 v.preds p.toNat x }

/-! ## Scalar registers -/

/-- Read x register `r` of a hart of a context. -/
def Context.x (c : Context) (h : HartId) (r : Reg) : Word :=
  match h with
  | .acc => Sparse.get 0#64 c.ax r.toNat
  | .exe => c.v.x r.toNat

/-- Write x register `r` of a hart of a context (14 R289, 08 R182). -/
def Context.setX (c : Context) (h : HartId) (r : Reg) (w : Word) : Context :=
  match h with
  | .acc => { c with ax := Sparse.set 0#64 c.ax r.toNat w }
  | .exe => { c with v := c.v.setX r.toNat w }

/-- Read and write an x register of the hart in focus. -/
def State.x (s : State) (r : Reg) : Word := s.ctx.x s.hart r
def State.setX (s : State) (r : Reg) (w : Word) : State := s.setCtx (s.ctx.setX s.hart r w)

/-- The sign-extended immediate (14 R289). -/
def imm64 (i : BitVec 14) : Word := i.signExtend 64

/-- Src2 of 14 R289. -/
def State.src (s : State) : Src → Word
  | .reg r => s.x r
  | .imm i => imm64 i

/-- Ext of 14 R289: the w-bit result as 64 bits. -/
def ext (t : Ty) (n : Nat) : Word :=
  if t.isSigned then sext64 t.width n else BitVec.ofNat 64 (n % 2 ^ t.width)

/-- The low bits of a register, at a type's width. -/
def low (t : Ty) (w : Word) : Nat := w.toNat % 2 ^ t.width

/-! ## The scratchpad (02 R52 to R57) -/

/-- The physical offset of a logical offset under an SPZ. -/
def swizzle (spz : Word) (a : Nat) : Nat :=
  let z := bits spz.toNat (4 * bits a 18 4) 4
  if z = 0 then a
  else
    let row := a / 2 ^ (z + 7)
    setBits a 3 5 (Nat.xor (bits a 3 5) (row % 32))

/-- A byte of the scratchpad at a physical offset. -/
def Spad.byte (p : Spad) (a : Nat) : Byte := Sparse.get 0#8 p.bytes a
def Spad.setByte (p : Spad) (a : Nat) (b : Byte) : Spad := { p with bytes := Sparse.set 0#8 p.bytes a b }

/-- `n` bytes from a logical offset. -/
def Spad.read (p : Spad) (spz : Word) (a n : Nat) : List Byte :=
  (List.range n).map fun i => p.byte (swizzle spz (a + i))

/-- Write bytes from a logical offset. -/
def Spad.write (p : Spad) (spz : Word) (a : Nat) : List Byte → Spad
  | [] => p
  | b :: t => Spad.write (p.setByte (swizzle spz a) b) spz (a + 1) t

/-- Some byte of an access lies in a poisoned word (11 R255). -/
def Spad.bad (p : Spad) (spz : Word) (a n : Nat) : Bool :=
  (List.range n).any fun i => p.poison.contains (swizzle spz (a + i) / 8)

/-! ## The scoreboard (08 R181) -/

/-- The vector registers a queued operation writes, those it reads, and the predicates it writes and reads. -/
def VOp.vw : VOp → List Nat
  | .int _ _ d _ _ | .sel _ d _ _ | .bcastElem _ d _ _ | .bcastVal _ d _ | .idx _ d _ | .perm _ d _ _ | .slide _ d _ _
  | .red _ _ d _ | .scan _ _ d _ | .flt _ _ _ _ d _ _ _ | .fcvt _ _ _ _ d _ | .fred _ _ _ d _ | .scl _ d _ _
  | .qnt _ _ _ _ d _ _ _ | .dqn _ _ _ d _ _ _ | .bpx _ d _ | .mv _ _ _ _ d _ _ | .gmRd d _ | .gmWr d _ | .rowExt _ d _ _
  | .rowIns _ d _ _ | .pcnt d _ | .pfirst d _ | .amo _ _ _ d _ _ _ _ _ | .mvLoad _ d _ _ _ _ _ | .fill d _ _ => [d.toNat]
  | .load sh _ d _ _ _ _ _ => match sh with
    | .seg nf => (List.range nf).map (fun f => d.toNat + f)
    | .unit | .stride _ | .index _ => [d.toNat]
  | .icmp _ _ _ _ _ | .fcmp _ _ _ _ _ | .plim _ _ | .plog _ _ _ _ | .store _ _ _ _ _ _ _ | .sca _ _ _ _ _ _ _ _
  | .mvStore _ _ _ _ _ _ _ | .spill _ _ _ | .lanes _ _ => []

def ESrc.regs : ESrc → List Nat
  | .vec r => [r.toNat]
  | .val _ => []

def VOp.vr : VOp → List Nat
  | .int op _ d a b => (if op = .mac then [d.toNat] else []) ++ a.toNat :: b.regs
  | .icmp _ _ _ a b | .sel _ _ a b | .fcmp _ _ _ a b => a.toNat :: b.regs
  | .bcastElem _ _ a _ | .slide _ _ a _ | .red _ _ _ a | .scan _ _ _ a | .fcvt _ _ _ _ _ a | .fred _ _ _ _ a | .scl _ _ a _
  | .bpx _ _ a | .gmRd _ a | .rowExt _ _ a _ | .rowIns _ _ a _ => [a.toNat]
  | .bcastVal _ _ _ | .idx _ _ _ | .plim _ _ | .plog _ _ _ _ | .pcnt _ _ | .pfirst _ _ | .mvLoad _ _ _ _ _ _ _ | .fill _ _ _
  | .lanes _ _ => []
  | .perm _ _ a b => [a.toNat, b.toNat]
  | .flt op _ _ _ _ a b c => a.toNat :: b.regs ++ (if op = .fma then [c.toNat] else [])
  | .qnt _ _ _ _ _ a s _ | .dqn _ _ _ _ a s _ => [a.toNat, s.toNat]
  | .mv op _ _ _ _ a b => a.toNat :: (match op with
    | .gp | .wd | .jn | .lc | .sw => [b.toNat]
    | .rev | .inv | .conj | .dl | .nm | .exp => [])
  | .gmWr d _ => [d.toNat]
  | .load sh _ _ _ _ _ _ _ => match sh with
    | .index r => [r.toNat]
    | .unit | .stride _ | .seg _ => []
  | .store sh _ d _ _ _ _ => match sh with
    | .index r => [d.toNat, r.toNat]
    | .seg nf => (List.range nf).map (fun f => d.toNat + f)
    | .unit | .stride _ => [d.toNat]
  | .sca _ _ d _ _ b _ _ | .amo _ _ _ d _ _ b _ _ => [d.toNat, b.toNat]
  | .mvStore _ d _ _ _ _ _ | .spill d _ _ => [d.toNat]

def VOp.pw : VOp → List Nat
  | .icmp _ _ d _ _ | .fcmp _ _ d _ _ | .plim d _ | .plog _ d _ _ => [d.toNat]
  | _ => []

/-- The predicates an entry reads, the governing one apart. -/
def VOp.pr : VOp → List Nat
  | .plog _ _ a b => [a.toNat, b.toNat]
  | .pcnt _ a | .pfirst _ a => [a.toNat]
  | .lanes p _ => [p.toNat]
  | _ => []

/-- The predicates that an entry writes: a `.ft` load trims its governing one (11 R248). -/
def VEntry.pw (e : VEntry) : List Nat :=
  match e.op with
  | .load _ _ _ _ _ _ _ true => if e.pg = 0#4 then [] else [e.pg.toNat]
  | op => op.pw

/-- A matrix entry that has yet to write a vector register, and one that has yet to read it (17 R366). -/
def MOp.vw : MOp → List Nat
  | .read d _ _ _ => [d.toNat]
  | _ => []
def MOp.vr : MOp → List Nat
  | .write _ s _ _ => [s.toNat]
  | _ => []

/-- A pending token of a hart names the register. -/
def Context.tokBusy (c : Context) (h : HartId) (r : Reg) : Bool :=
  c.cmds.any fun k => decide (k.hart = h) && decide (k.tok = r)

/-- A read of xN must wait. -/
def Context.rdBusy (c : Context) (h : HartId) (r : Reg) : Bool :=
  c.tokBusy h r ||
  (decide (h = .exe) && (c.v.vq.any (fun e => e.op.vw.contains r.toNat) || c.m.mq.any (fun e => e.op.vw.contains r.toNat)))

/-- A write of xN must wait. -/
def Context.wrBusy (c : Context) (h : HartId) (r : Reg) : Bool :=
  c.rdBusy h r ||
  (decide (h = .exe) && (c.v.vq.any (fun e => e.op.vr.contains r.toNat) || c.m.mq.any (fun e => e.op.vr.contains r.toNat)))

/-- A scalar write of a predicate must wait: an entry reads or writes it, or a command uses it as its chunk mask (04 R114). -/
def Context.predBusy (c : Context) (p : PReg) : Bool :=
  c.v.vq.any (fun e => e.pw.contains p.toNat || e.op.pr.contains p.toNat || decide (e.pg = p)) ||
  c.cmds.any (fun k => decide (k.mask = some p))

/-- The hart in focus may read all the first registers and write all the second ones now. -/
def State.ready (s : State) (rs ws : List Reg) : Bool :=
  !(rs.any (s.ctx.rdBusy s.hart)) && !(ws.any (s.ctx.wrBusy s.hart))

/-! ## Traps (11 R235 to R245) -/

/-- Cause codes (11 R235). -/
def Cause.illegal : Nat := 0x00
def Cause.pairing : Nat := 0x01
def Cause.priv : Nat := 0x02
def Cause.fetch : Nat := 0x03
def Cause.load : Nat := 0x04
def Cause.store : Nat := 0x05
def Cause.align : Nat := 0x06
def Cause.window : Nat := 0x07
def Cause.missingMethod : Nat := 0x08
def Cause.gradeEscape : Nat := 0x09
def Cause.fp : Nat := 0x0A
def Cause.progress : Nat := 0x0B
def Cause.barover : Nat := 0x0C
def Cause.matrixInHandler : Nat := 0x0D
def Cause.rayFault : Nat := 0x0E
def Cause.leaveTimeout : Nat := 0x0F
def Cause.machineCheck : Nat := 0x10
def Cause.handlerDouble : Nat := 0x11
def Cause.queueIllegal : Nat := 0x12
def Cause.svc : Nat := 0x13

/-- A trap that an instruction, an entry or an event raises. `toNext` is SVC's TNPC (11 R240), `lb` a lane-block report. -/
structure Trap where
  cause : Nat
  addr : Word
  info : Word
  lb : Bool := false
  toNext : Bool := false
  deriving DecidableEq, Repr

/-- What a hart's instruction comes to: a new state, a trap, a stall with the state to wait in, or the rewind of the strip. -/
inductive Res
  | ok (s : State)
  | trap (t : Trap) (s : State)
  | stall (w : Wait) (s : State)
  | rewind (s : State)

/-- The handler window of HWIN (11 R243): its first byte, and its size. -/
def hwinBase (hw : Word) : Word := sext64 57 (bits hw.toNat 21 36 * 2 ^ 21)
def hwinSize (hw : Word) : Nat := 0x200000 * (bits hw.toNat 0 4 + 1)

/-- Entry and StackTop of 11 R243. -/
def entryOf (hw : Word) : HartId → Word
  | .exe => hwinBase hw
  | .acc => hwinBase hw + 0x100#64
def stackTop (hw : Word) : HartId → Word
  | .exe => hwinBase hw + BitVec.ofNat 64 (hwinSize hw)
  | .acc => hwinBase hw + BitVec.ofNat 64 (hwinSize hw) - 0x10000#64

/-- Handler mode (11 R236). -/
def HartSt.handler (x : HartSt) : Bool := x.t.hstat.getLsbD 0
/-- HSTAT.TS: matrix state saved by `tsave`. -/
def HartSt.ts (x : HartSt) : Bool := x.t.hstat.getLsbD 1

/-- The FSTAT of a context: the OR of all its copies (06 R141). -/
def Context.fstat (c : Context) : BitVec 8 := c.ah.fstat ||| c.xh.fstat ||| c.v.lfstat

/-- Change the launch of an id. -/
def State.mapLaunch (s : State) (id : Nat) (f : Launch → Launch) : State :=
  { s with launches := s.launches.map fun l => if l.id = id then f l else l }

/-- Return a granted leave to its die (10 R222): PWRUSE falls by its cost, unless standing leave covered it. -/
def State.returnLeave (s : State) (id : Nat) : State :=
  match s.heavy.find? (fun h => h.id = id) with
  | none => s
  | some h =>
    let s := { s with heavy := s.heavy.filter (fun x => x.id ≠ id) }
    if h.standing then s
    else
      let use := (Sparse.get 0#64 s.dev.pwruse h.die).toNat
      { s with dev := { s.dev with pwruse := Sparse.set 0#64 s.dev.pwruse h.die (BitVec.ofNat 64 (use - h.cost)) } }

/-- Give back standing leave of a die. -/
def State.returnStanding (s : State) : State :=
  let d := dieOf s.ctx.core
  let use := (Sparse.get 0#64 s.dev.pwruse d).toNat
  { s with dev := { s.dev with pwruse := Sparse.set 0#64 s.dev.pwruse d (BitVec.ofNat 64 (use - s.ctx.standing)) },
           ctx := { s.ctx with standing := 0 } }

/-- An event takes the next number of the package order (10 R220); before the package event arbiter is ready it takes none (R225;
notes/assumptions 70). -/
def State.pkgEvent (s : State) : State := { s with evseq := s.evseq + (if s.dev.rdyhub.getLsbD 15 then 1 else 0) }

/-- A leave belongs to a hart of the context in focus. -/
def State.ownLeave (s : State) (h : HartId) (l : Leave) : Bool :=
  decide (l.core = s.ctx.core) && decide (l.bank = s.ctx.bank) && decide (l.hart = h)

/-- Withdraw the requests for leave of a hart of the context in focus; granted leave is kept (10 R216, R222). -/
def State.withdrawLeave (s : State) (h : HartId) : State := { s with leaveQ := s.leaveQ.filter fun r => !s.ownLeave h r }

/-- Return leave granted to a hart that will not use it. -/
def State.dropLeave (s : State) (h : HartId) : State :=
  (s.heavy.filter fun l => s.ownLeave h l && !l.claimed).foldl (fun s l => s.returnLeave l.id) s

/-- The bit number of a hart in WAIT of a barrier object (16 R349). -/
def waitBit (core bank : Nat) (h : HartId) : Nat :=
  8 * (core % 8) + 2 * bank + (match h with | .acc => 0 | .exe => 1)

/-- Change the WAIT word of the object at an offset of a core's scratchpad. -/
def State.mapWaitWord (s : State) (core off : Nat) (f : Nat → Nat) : State :=
  s.mapCtx (fun c => decide (c.core = core) && decide (c.launch = s.ctx.launch) && decide (c.place ≠ .empty))
    (fun c => { c with spad := c.spad.write c.sr.spz (off + 8) (toBytes 8 (f (ofBytes (c.spad.read c.sr.spz (off + 8) 8)))) })

/-- A stalled instruction of a hart of the context in focus is interrupted: it will be executed again from its start, its
request for leave is withdrawn and its WAIT bit is cleared (09 R205, 10 R214, R222, 16 R353). -/
def State.interrupt (s : State) (h : HartId) : State :=
  let s := s.withdrawLeave h
  let s := match (s.ctx.hs h).wait with
    | .barw core off _ _ =>
      let k := waitBit s.ctx.core s.ctx.bank h
      s.mapWaitWord core off fun n => if n.testBit k then n - 2 ^ k else n
    | _ => s
  s.setCtx (s.ctx.setHs h { s.ctx.hs h with wait := .none })

/-- An item whose context has ended is counted: its flags join the launch's, and its standing leave returns (10 R218). -/
def State.countEnded (s : State) : State :=
  if s.ctx.ended && decide (s.ctx.place ≠ .empty) then
    let item := s.ctx.item
    let f := s.ctx.fstat
    (s.mapLaunch s.ctx.launch fun l =>
      { l with ended := if l.ended.contains item then l.ended else item :: l.ended, flags := l.flags ||| f }).returnStanding.pkgEvent
  else s

/-- The majority operation of a hart of the context in focus goes on without it: the hart stops or leaves at an instruction boundary,
and what its operation has sent still applies (10 R219, 11 R242, 03 R87). -/
def State.orphanOps (s : State) (h : HartId) : State :=
  let own (m : MajOp) : Bool := decide (m.core = s.ctx.core) && decide (m.bank = s.ctx.bank) && decide (m.hart = h)
  { s with maj := (s.maj.filter fun m => !(own m && m.result.isSome)).map fun m => if own m then { m with orphan := true } else m }

/-- Both harts stop for good; engine commands and majority operations complete (11 R242, 10 R219). DESIGN CHOICE: entries of the command
queues that have not performed, saved or not, and held stores are discarded at every such end, as 10 R219 says of a killed launch; of the
end of an item 11 R242 says nothing about them (notes/assumptions 84). The rays in flight leave the engine (notes/assumptions 34). -/
def State.haltItem (s : State) : State :=
  let s := (((((s.interrupt .acc).interrupt .exe).dropLeave .acc).dropLeave .exe).orphanOps .acc).orphanOps .exe
  let c := s.ctx
  { s with ctx := { c with
      ah := { c.ah with run := .halted }, xh := { c.xh with run := .halted }, v := { c.v with vq := [], saved := [] },
      m := { c.m with mq := [], pend := [], frame := none }, strip := none, vps := [],
      ray := { c.ray with rays := [], event := none } } }.countEnded

/-- End the item with STATUS 1 and a cause (11 R242); the launch keeps the cause of its first faulted item (10 R217). -/
def State.endFaulted (s : State) (cause : Nat) : State :=
  (s.mapLaunch s.ctx.launch fun l => { l with faulted := l.faulted.or (some cause) }).haltItem

/-- A double trap (11 R244): the first set stays frozen, the second takes the new cause, the item ends with 0x11, and Brioche has a
machine check, on MSI-X vector 1 like every one (10 R228). Brioche can read both sets until the bank is used again
(notes/assumptions 72). -/
def State.doubleTrap (s : State) (h : HartId) (cause : Nat) (addr pc : Word) : State :=
  let x := s.ctx.hs h
  let x := { x with t := { x.t with tcause2 := BitVec.ofNat 64 cause, taddr2 := addr, tpc2 := pc } }
  let s := { s.setCtx (s.ctx.setHs h x) with notices := s.notices ++ [Notice.handlerDouble s.ctx.core s.ctx.bank h],
                                                    msix := s.msix ++ [1] }
  let t := s.pkgEvent.endFaulted Cause.handlerDouble
  t.setCtx { t.ctx with kept := true }

/-- Every machine check is also logged for Brioche on MSI-X vector 1 (11 R255). -/
def State.logCheck (s : State) (t : Trap) : State :=
  if t.cause = Cause.machineCheck then
    ({ s with notices := s.notices ++ [Notice.machineCheck s.ctx.core t.addr t.info], msix := s.msix ++ [1] }).pkgEvent
  else s

/-- TakeTrap of 11 R238 for a hart of the context in focus. -/
def State.takeTrap (s : State) (h : HartId) (t : Trap) (pc npc : Word) (vs : Bool) : State :=
  let s := s.logCheck t
  let x := s.ctx.hs h
  if x.handler then s.doubleTrap h t.cause t.addr pc
  else if !s.ctx.sr.hwin.getLsbD 63 then s.endFaulted t.cause
  else
    let cause := BitVec.ofNat 64 (t.cause + (if vs then 0x100 else 0) + (if t.lb then 0x200 else 0))
    let sp := s.ctx.x h 30#5
    let hw := s.ctx.sr.hwin
    let x := { x with
      pc := entryOf hw h
      wait := .none
      t := { x.t with tcause := cause, taddr := t.addr, tinfo := t.info, tpc := pc, tnpc := npc, tsp := sp,
                      hstat := x.t.hstat ||| 1#64 } }
    s.setCtx ((s.ctx.setHs h x).setX h 30#5 (stackTop hw h))

/-- The trap of a word that is not an instruction for this hart, with the word in TINFO (11 R235). -/
def wordTrap (cause : Nat) (w : Word) : Trap := { cause := cause, addr := 0#64, info := w }
def illegalTrap (i : Instr) : Trap := wordTrap Cause.illegal i.encode
def privTrap (i : Instr) : Trap := wordTrap Cause.priv i.encode
/-- ALIGN: the lowest misaligned address, and bits [7:0] of the size (11 R235, 16 R334). -/
def alignTrap (a : Word) (size : Nat) : Trap := { cause := Cause.align, addr := a, info := BitVec.ofNat 64 (size % 256) }

/-- What a hart's instruction comes to, made a step of the machine. A trap of the execute hart waits until the vector stream
has completed every entry issued before it (11 R239). -/
def conclude (s : State) : Res → Out
  | .ok t => .next (t.setWait .none)
  | .stall w t => .next (t.setWait w)
  | .rewind t => .next t
  | .trap t u =>
    if s.hart = .exe ∧ s.ctx.v.vq ≠ [] then .next (s.setWait .other)
    else .next (u.takeTrap s.hart t s.pc (if t.toNext then s.pc + 8#64 else s.pc) false)

/-- An instruction that both harts may run (08 R172). -/
def runBoth (f : State → Res) (s : State) : Out := conclude s (f s)

/-- An instruction of the execute hart alone. -/
def runExe (i : Instr) (f : State → Res) (s : State) : Out :=
  conclude s (if s.hart = .exe then f s else .trap (illegalTrap i) s)

/-- An instruction of the access hart alone. -/
def runAcc (i : Instr) (f : State → Res) (s : State) : Out :=
  conclude s (if s.hart = .acc then f s else .trap (illegalTrap i) s)

/-- When the registers are free, do it; else stall (08 R181). -/
def State.whenReady (s : State) (rs ws : List Reg) (f : State → Res) : Res :=
  if s.ready rs ws then f s else .stall .other s

/-- Write a register and go on. -/
def State.finX (s : State) (d : Reg) (w : Word) : Res := .ok (s.setX d w).advance

/-- Go on with no effect. -/
def State.fin (s : State) : Res := .ok s.advance

/-- OR flags into the hart's own FSTAT copy (06 R141). -/
def State.orFlags (s : State) (f : BitVec 8) : State := s.setHs { s.hs with fstat := s.hs.fstat ||| f }

/-- Draw a free value's index: the counter advances (notes/assumptions 6). -/
def State.draw (s : State) : Nat × State := (s.free, { s with free := s.free + 1 })

end Sys2Proof.Machine
end

