-- ==== Sys2Proof/Machine/Mem.lean ====
section
/-! DEFINITION. Physical memory: the fixed map (01 R15), performed stores and how far they are visible (04 R99 to R101, R107,
R109), poison, and the checkpoint engine's copy of a granule (02 R73, R74). -/

namespace Sys2Proof.Machine

/-! ## The physical map (01 R15, R16, 02 R48, 10 R225, R234) -/

/-- A part of the physical map: an HBM stack, a CXL port's window, the aperture of a core, the device registers, a
remote-package window, or nothing. Offsets count from the part's first byte. -/
inductive Part
  | hbm (stk : Nat) | cxl (port off : Nat) | aperture (core off : Nat) | device (off : Nat) | remote (pkg off : Nat) | hole
  deriving DecidableEq, Repr

/-- The part of the map that holds an address. -/
def partOf (a : Nat) : Part :=
  if a < Config.hbmStacks * Config.stackBytes then .hbm (a / Config.stackBytes)
  else if Config.spadAperture ≤ a ∧ a < Config.spadAperture + 0x80000000 then
    .aperture ((a - Config.spadAperture) / Config.spadBytes) ((a - Config.spadAperture) % Config.spadBytes)
  else if Config.devBase ≤ a ∧ a < Config.devBase + 0x100000000 then .device (a - Config.devBase)
  else if Config.cxlBase ≤ a ∧ a < Config.cxlBase + 8 * Config.cxlPortBytes then
    .cxl ((a - Config.cxlBase) / Config.cxlPortBytes) ((a - Config.cxlBase) % Config.cxlPortBytes)
  else if Config.remoteBase ≤ a ∧ a < Config.remoteBase + 64 * Config.remoteBytes then
    .remote ((a - Config.remoteBase) / Config.remoteBytes) ((a - Config.remoteBase) % Config.remoteBytes)
  else .hole

/-- A stack whose readiness bit is 1 (10 R225). -/
def State.stackReady (s : State) (stk : Nat) : Bool := (Sparse.get 0#64 s.dev.rdydie (stk / 3)).getLsbD (6 + stk % 3)

/-- HBM, or the populated part of a CXL window, with its readiness bit set: where a table may stand (01 R16). -/
def State.backed (s : State) (a : Nat) : Bool :=
  match partOf a with
  | .hbm k => s.stackReady k
  | .cxl p off => s.dev.rdyhub.getLsbD (6 + p) && decide (off < Sparse.get 0 s.dev.cxlGib p * 2 ^ 30)
  | .aperture _ _ | .device _ | .remote _ _ | .hole => false

/-- The HBM range of a remote-package window that 10 R234 makes usable. -/
def State.remoteUsable (s : State) (a : Nat) : Bool :=
  match partOf a with
  | .remote q off => s.dev.lnken.getLsbD q && decide (q ≠ bits s.dev.pkgid.toNat 0 6) && decide (off < 0x18000000000)
  | .hbm _ | .cxl _ _ | .aperture _ _ | .device _ | .hole => false

/-! ## Views and performed stores (04 R95, R96, R99) -/

/-- Who reads: a party of a core, an engine of a die, the page-table walker, or a party of the system scope. -/
inductive View
  | core (c : Nat) | die (d : Nat) | walk | sys
  deriving DecidableEq, Repr

/-- The order of scopes. -/
def scopeRank : Scope → Nat
  | .core => 0 | .cluster => 1 | .die => 2 | .pkg => 3 | .sys => 4

/-- A store at the scope has reached the die cache or the hub (02 R50). -/
def reachesDie (sc : Scope) : Bool := decide (2 ≤ scopeRank sc)

/-- A performed store is visible to a party (04 R96, R99). The walker, the host, Brioche, the checkpoint engine and the scrubber read
through the die cache (02 R50, R51). -/
def View.sees (v : View) (w : PStore) : Bool :=
  match v, w.level with
  | _, .sys => true
  | .core _, .pkg | .die _, .pkg => true
  | .walk, sc | .sys, sc => reachesDie sc
  | .core c, .core => decide (c = w.core)
  | .core c, .cluster => decide (clusterOf c = clusterOf w.core)
  | .core c, .die => decide (dieOf c = dieOf w.core)
  | .die d, .die => decide (d = dieOf w.core)
  | .die _, .core | .die _, .cluster => false

/-- The store writes the byte at an address. -/
def PStore.covers (w : PStore) (a : Nat) : Bool := decide (w.addr ≤ a) && decide (a < w.addr + w.bytes.length)

/-- A byte of memory once every store of the list has merged; an address not listed reads as 0 (notes/assumptions 3). -/
def memGet (m : Sparse Byte) (a : Nat) : Byte := Sparse.get 0#8 m a

/-- The canonical form of memory: addresses strictly rising, and no byte listed that reads as an unlisted one does. -/
def Memory.wf (m : Sparse Byte) : Bool := Sparse.wf 0#8 m

/-- Write consecutive bytes. -/
def memPut (m : Sparse Byte) (a : Nat) : List Byte → Sparse Byte
  | [] => m
  | b :: t => memPut (Sparse.set 0#8 m a b) (a + 1) t

/-- The byte at an address as the stores that satisfy a test leave it: that of the newest of them, else memory's (04 R101). -/
def State.byteBy (s : State) (sees : PStore → Bool) (a : Nat) : Byte :=
  match s.stores.find? (fun w => sees w && w.covers a) with
  | some w => w.bytes.getD (a - w.addr) 0#8
  | none => memGet s.mem a

/-- The byte a party reads: that of the newest store visible to it, else memory's (04 R99, R101). -/
def State.byte (s : State) (v : View) (a : Nat) : Byte := s.byteBy v.sees a

/-- Consecutive bytes as a party reads them. -/
def State.bytes (s : State) (v : View) (a n : Nat) : List Byte := (List.range n).map fun i => s.byte v (a + i)

/-- A little-endian number of consecutive bytes. -/
def State.num (s : State) (v : View) (a n : Nat) : Nat := ofBytes (s.bytes v a n)

/-- A request to another package has yet to arrive there. -/
def Remote.flying (r : Remote) : Bool :=
  match r.way with
  | .over _ => true
  | .arrived | .lost _ => false

/-- The keys that some store below system scope, some request in flight to another package or some scratchpad store still carries: a
release that no party can acquire anything by is over. -/
def State.liveKeys (s : State) : List Nat :=
  (s.stores.filter fun w => decide (w.level ≠ .sys)).flatMap (·.who) ++ (s.remote.filter (·.flying)).flatMap (·.who) ++
  s.contexts.flatMap fun c => c.slog.flatMap (·.who)

/-- Merge into memory the oldest stores that are visible everywhere and carry no release that is not over. `stores` has the newest
first. -/
def settleList (live : List Nat) (m : Sparse Byte) (l : List PStore) : Sparse Byte × List PStore :=
  match l with
  | [] => (m, [])
  | w :: t =>
    let (m, t) := settleList live m t
    if t = [] ∧ w.level = .sys ∧ w.sync.all (fun y => !live.contains y.key) then (memPut m w.addr w.bytes, []) else (m, w :: t)
def State.settle (s : State) : State :=
  let (m, t) := settleList s.liveKeys s.mem s.stores
  { s with mem := m, stores := t }

/-! ## The checkpoint engine's copies (02 R73, R74) -/

/-- Granules of 64 KiB. -/
def granule : Nat := 0x10000

/-- A save is running; a restore is. -/
def Ckpt.saving (c : Ckpt) : Bool := c.stat.getLsbD 63 && decide (bits c.cur.toNat 60 3 = 0)
def Ckpt.restoring (c : Ckpt) : Bool := c.stat.getLsbD 63 && decide (bits c.cur.toNat 60 3 = 1)

/-- The granule holding an address is selected by the running save and not yet copied. -/
def State.uncopied (s : State) (g : Nat) : Bool :=
  s.dev.ckpt.saving &&
  (match partOf (g * granule) with
   | .hbm k => s.dev.ckpt.cur.getLsbD k && !s.dev.ckpt.copied.contains g
   | .cxl _ _ | .aperture _ _ | .device _ | .remote _ _ | .hole => false)

/-- The first byte of the image slot of a stack (02 R73). -/
def imageBase (dst : Word) (stk : Nat) : Nat :=
  Config.cxlBase + (stk % 8) * Config.cxlPortBytes + bits dst.toNat 30 12 * 2 ^ 30 + (stk / 8) * 72 * 2 ^ 30

/-- Replace the entries of keys [lo, lo + n) by those of [src, src + n) of another map, moved. -/
def Sparse.copyRange {β : Type} [DecidableEq β] (d : β) (m : Sparse β) (lo n : Nat) (from_ : Sparse β) (src : Nat) : Sparse β :=
  let cleared := m.filter fun c => !(decide (lo ≤ c.1) && decide (c.1 < lo + n))
  (from_.filter fun c => decide (src ≤ c.1) && decide (c.1 < src + n)).foldl
    (fun m c => Sparse.set d m (lo + (c.1 - src)) c.2) cleared

/-- Memory as the system scope sees it: every store visible there merged, in coherence order. -/
def State.sysMem (s : State) : Sparse Byte :=
  s.stores.foldr (fun w m => if View.sys.sees w then memPut m w.addr w.bytes else m) s.mem

/-- What a store writes outside [lo, lo + n). -/
def PStore.clip (w : PStore) (lo n : Nat) : List PStore :=
  if w.addr < lo + n ∧ lo < w.addr + w.bytes.length then
    [{ w with bytes := w.bytes.take (lo - w.addr) }, { w with addr := lo + n, bytes := w.bytes.drop (lo + n - w.addr) }].filter
      fun x => !x.bytes.isEmpty
  else [w]

/-- The stores with nothing left in [lo, lo + n), which a later write fills. -/
def State.clipStores (s : State) (lo n : Nat) : State := { s with stores := s.stores.flatMap fun w => w.clip lo n }

/-- Copy one granule into the image, data and sideband words; a sector that reads uncorrectable is written with poison. -/
def State.copyGranule (s : State) (g : Nat) : State :=
  let lo := g * granule
  let stk := lo / Config.stackBytes
  let off := lo % Config.stackBytes
  let base := imageBase s.dev.ckpt.curDst stk
  let data := Sparse.copyRange 0#8 s.mem (base + off) granule s.sysMem lo
  let tags := (List.range (granule / 64)).foldl
    (fun m i => memPut m (base + Config.stackBytes + 8 * (off / 64 + i)) (toBytes 8 (Sparse.get 0#64 s.sideband (lo / 64 + i)).toNat)) data
  let bad := s.poison.filter fun p => decide (lo / 64 ≤ p) && decide (p < lo / 64 + granule / 64)
  let img := bad.map fun p => (base + off) / 64 + (p - lo / 64)
  let sideband := base + Config.stackBytes + 8 * (off / 64)
  let keep := s.poison.filter fun p =>
    !(decide ((base + off) / 64 ≤ p) && decide (p < (base + off) / 64 + granule / 64)) &&
    !(decide (sideband / 64 ≤ p) && decide (p < sideband / 64 + granule / 512))
  { (s.clipStores (base + off) granule).clipStores sideband (granule / 8) with
           mem := tags, poison := img ++ keep,
           dev := { s.dev with ckpt := { s.dev.ckpt with copied := g :: s.dev.ckpt.copied, bad := s.dev.ckpt.bad || !bad.isEmpty } } }

/-- Before a store reaches the die cache, and so the parties of system scope, the engine copies the granules it writes ahead of its sequence (02 R74). -/
def State.protect (s : State) (a n : Nat) : State :=
  let g := a / granule
  (List.range ((a + n - 1) / granule - g + 1)).foldl (fun s i => if s.uncopied (g + i) then s.copyGranule (g + i) else s) s

/-! ## Parties and what they know (04 R95, R107, R112) -/

/-- A key names a party, or what a release or a command leaves to be acquired: a hart, the engines of a context, a virtual processor,
every party of system scope, and a key of its own for each number that `nextId` gives. -/
def hartKey (core bank : Nat) (h : HartId) : Nat := 4 * core + 2 * bank + (match h with | .acc => 0 | .exe => 1)
def engKey (core bank : Nat) : Nat := 2048 + 2 * core + bank
def vpKey (core bank elem : Nat) : Nat := 4096 + 1024 * (2 * core + bank) + elem
def sysKey : Nat := 2097151
def readMark : Nat := 2097150
/-- The mark of a store that the party that made it has read as well (04 R100, R109). -/
def ownRead : Nat := 2097149
def freshKey (id : Nat) : Nat := 2097152 + id

/-- The keys of a context. -/
def Context.hartKey (c : Context) (h : HartId) : Nat := Machine.hartKey c.core c.bank h
def Context.engKey (c : Context) : Nat := Machine.engKey c.core c.bank
def Context.vpKey (c : Context) (elem : Nat) : Nat := Machine.vpKey c.core c.bank elem
/-- The execute hart or a virtual processor of a context. -/
def Context.exeSide (c : Context) (key : Nat) : Bool :=
  decide (key = c.hartKey .exe) || (decide (c.vpKey 0 ≤ key) && decide (key < c.vpKey 0 + 1024))

/-- The party whose instruction runs: the hart in focus, or a virtual processor. -/
def State.party (s : State) : Nat :=
  match s.ctx.lane with
  | some e => s.ctx.vpKey e
  | none => s.ctx.hartKey s.hart

/-- Two cores lie in one instance of a scope (04 R96). -/
def sameInst (sc : Scope) (a b : Nat) : Bool :=
  match sc with
  | .core => decide (a = b)
  | .cluster => decide (clusterOf a = clusterOf b)
  | .die => decide (dieOf a = dieOf b)
  | .pkg | .sys => true

/-- A key joins a list. -/
def addKey (k : Nat) (l : List Nat) : List Nat := if l.contains k then l else k :: l

/-- Who knows a store or release: a party that holds `k` gains everything that `k` names. -/
def gainKey (k key : Nat) (who : List Nat) : List Nat := if who.contains k then addKey key who else who

/-- A party acquires every store that carries a key. -/
def State.acquireKey (s : State) (k key : Nat) : State :=
  let ctx (c : Context) : Context := { c with slog := c.slog.map fun e => { e with who := gainKey k key e.who } }
  { s with stores := s.stores.map fun w => { w with who := gainKey k key w.who },
           remote := s.remote.map fun r => { r with who := gainKey k key r.who }, ctx := ctx s.ctx, others := s.others.map ctx }

/-- A party acquires by each of several keys. -/
def State.acquireKeys (s : State) (ks : List Nat) (key : Nat) : State := ks.foldl (fun s k => s.acquireKey k key) s

/-- The party knows a store to another package that has yet to arrive there: a release or a fence at system scope waits for it
(04 R107, R109, R123). -/
def State.unsent (s : State) (key : Nat) : Bool := s.remote.any fun r => r.flying && r.who.contains key

/-- The party knows a store that has still to become visible somewhere, or a scratchpad store. -/
def State.knows (s : State) (key : Nat) : Bool :=
  s.stores.any (fun w => w.who.contains key && decide (w.level ≠ .sys)) || s.unsent key ||
  s.contexts.any fun c => c.slog.any fun e => e.who.contains key

/-- A key that every store known to a party carries from now on; none when it knows of nothing. -/
def State.leaveKey (s : State) (key : Nat) : List Nat × State :=
  if s.knows key then ([freshKey s.nextId], ({ s with nextId := s.nextId + 1 }).acquireKey key (freshKey s.nextId)) else ([], s)

/-! ## Performing and becoming visible -/

/-- A store performs: it is the last in coherence order (04 R101). -/
def State.push (s : State) (w : PStore) : State :=
  let s := if reachesDie w.level then s.protect w.addr w.bytes.length else s
  { s with stores := w :: s.stores }.settle

/-- A store of a party that no rule asks about again performs, visible up to a scope of its writer (04 R99, R101). -/
def State.perform (s : State) (core : Nat) (level : Scope) (a : Nat) (bs : List Byte) : State :=
  s.push { addr := a, bytes := bs, core := core, level := level }

/-- The wider of two scopes. -/
def scopeMax (a b : Scope) : Scope := if scopeRank a ≤ scopeRank b then b else a

/-- A store satisfies a test, or belongs to a block of which a store does (04 R118). -/
def State.withBlock (s : State) (p : PStore → Bool) (w : PStore) : Bool :=
  p w || (decide (w.grp ≠ 0) && s.stores.any fun x => decide (x.grp = w.grp) && p x)

/-- Make the stores that satisfy a test, and the blocks they belong to, visible at a scope of their writers. -/
def State.raise (s : State) (p : PStore → Bool) (sc : Scope) : State :=
  let t := if reachesDie sc then
      s.stores.foldl (fun t w => if s.withBlock p w && !reachesDie w.level then t.protect w.addr w.bytes.length else t) s
    else s
  { t with stores := t.stores.map fun w => if s.withBlock p w then { w with level := scopeMax w.level sc } else w }.settle

/-- A release or fence at a scope by a party: its own stores and those it has acquired perform at the scope first (04 R107, R109;
notes/assumptions 7). -/
def State.release (s : State) (key : Nat) (sc : Scope) : State := s.raise (fun w => w.who.contains key) sc

/-- What the write of a release carries (04 R108). -/
def State.syncs (s : State) (core : Nat) (key : Nat) (sc : Scope) : List Sync × State :=
  let (ks, s) := s.leaveKey key
  (ks.map fun k => { core := core, scope := sc, key := k }, s)

/-- What a party of a core acquires by an acquire at a scope that reads a release (04 R97, R108). -/
def State.acquireSyncs (s : State) (core key : Nat) (sc : Scope) (l : List Sync) : State :=
  s.acquireKeys ((l.filter fun y => sameInst y.scope y.core core && sameInst sc y.core core).map (·.key)) key

/-- The newest visible store of each byte, by its number in `stores`. -/
def State.sources (s : State) (sees : PStore → Bool) (as : List Nat) : List Nat :=
  (as.filterMap fun a => s.stores.findIdx? fun w => sees w && w.covers a).dedup

/-- A party that has read a store of a block has read all of the block: no party observes a part of one (04 R118). -/
def State.seeBlocks (s : State) (key : Nat) (gs : List Nat) : State :=
  let gs := gs.filter (· ≠ 0)
  if gs = [] then s
  else
    let ctx (c : Context) : Context :=
      { c with slog := c.slog.map fun e => if gs.contains e.grp then { e with who := addKey key e.who } else e }
    { s with stores := s.stores.map fun w => if gs.contains w.grp then { w with who := addKey key w.who } else w,
             ctx := ctx s.ctx, others := s.others.map ctx }

/-- A party of a core reads bytes: it has acquired the stores it reads (04 R107); where the read is an acquire at a scope, those stores
perform at the scope (04 R100), and it acquires by the releases they carry (04 R108). -/
def State.read (s : State) (sees : PStore → Bool) (core key : Nat) (acq : Option Scope) (as : List Nat) : State :=
  let hits := s.sources sees as
  if hits = [] then s
  else
    let from_ := hits.filterMap fun i => s.stores[i]?
    let syncs := from_.flatMap (·.sync)
    let mark (w : PStore) : PStore := { w with who := readMark :: w.who }
    let s := { s with stores := hits.foldl (fun l i => List.modifyAt l i mark) s.stores }
    let s := match acq with
      | some sc => (s.raise (fun w => w.who.contains readMark && sameInst sc w.core core) sc).acquireSyncs core key sc syncs
      | none => s
    ({ s with stores := s.stores.map fun w =>
        if w.who.contains readMark then
          let who := addKey key (w.who.filter (· ≠ readMark))
          { w with who := if w.own = key then addKey ownRead who else who }
        else w } : State).seeBlocks key (from_.map (·.grp))

/-- The releases that the stores a party reads carry: an atomic that writes passes them on (04 R108). -/
def State.carried (s : State) (v : View) (as : List Nat) : List Sync :=
  ((s.sources v.sees as).filterMap fun i => s.stores[i]?).flatMap (·.sync)

/-- A key is of a party of a bank: a hart, its engines, or a virtual processor. -/
def ofBank (core bank k : Nat) : Bool :=
  decide (k = hartKey core bank .acc) || decide (k = hartKey core bank .exe) || decide (k = engKey core bank) ||
  (decide (vpKey core bank 0 ≤ k) && decide (k < vpKey core bank 0 + 1024))

/-- The stores that the parties of a bank made or acquired. -/
def Remote.knownIn (r : Remote) (core bank : Nat) : Bool := r.who.any (ofBank core bank)
def PStore.knownIn (w : PStore) (core bank : Nat) : Bool := ofBank core bank w.own || w.who.any (ofBank core bank)

/-- What the parties of a bank know passes to a key: the completion word of their launch covers it (04 R121). -/
def State.handOver (s : State) (core bank key : Nat) : State :=
  { s with stores := s.stores.map fun w => if w.knownIn core bank then { w with who := addKey key w.who } else w,
           remote := s.remote.map fun r => if r.knownIn core bank then { r with who := addKey key r.who } else r }

/-- Forget the parties of a bank: another item's harts begin there (10 R211). -/
def State.purgeKeys (s : State) (core bank : Nat) : State :=
  let keep (l : List Nat) : List Nat := l.filter fun k => !ofBank core bank k
  let ctx (c : Context) : Context := { c with slog := c.slog.map fun e => { e with who := keep e.who } }
  { s with stores := s.stores.map fun w => { w with own := if ofBank core bank w.own then sysKey else w.own, who := keep w.who },
           remote := s.remote.map fun r => { r with who := keep r.who }, ctx := ctx s.ctx, others := s.others.map ctx }

/-- The least scope with an instance that holds both a writer's core and a party. -/
def joinScope (v : View) (core : Nat) : Scope :=
  match v with
  | .core c =>
    if c = core then .core else if clusterOf c = clusterOf core then .cluster else if dieOf c = dieOf core then .die else .pkg
  | .die d => if d = dieOf core then .die else .pkg
  | .walk => .die
  | .sys => .sys

/-- An atomic reads the latest store to its bytes, whatever its scope (04 R110): those stores become visible to the party. -/
def State.gatherStores (s : State) (v : View) (a n : Nat) : State :=
  s.stores.foldl (fun s w =>
    let meets (x : PStore) : Bool := decide (x.addr < a + n) && decide (a < x.addr + x.bytes.length)
    if meets w then s.raise (fun x => meets x && decide (x.core = w.core)) (joinScope v w.core) else s) s

/-! ## Poison (11 R255, 02 R45, R49) -/

/-- Some sector of an access is poisoned. -/
def State.poisoned (s : State) (a n : Nat) : Bool :=
  s.poison.any fun p => decide (a / 64 ≤ p) && decide (p * 64 < a + n)

/-- Mark the sectors of an access poisoned, or clear them. -/
def State.setPoison (s : State) (a n : Nat) (bad : Bool) : State :=
  if n = 0 then s
  else
    let secs := (List.range ((a + n - 1) / 64 - a / 64 + 1)).map (a / 64 + ·)
    let rest := s.poison.filter fun p => !secs.contains p
    { s with poison := if bad then secs ++ rest else rest }

/-- TINFO of a machine check: UNIT and SRC (11 R255). -/
def checkInfo (unit src : Nat) : Word := BitVec.ofNat 64 (256 * unit + src)

/-- SRC and UNIT of a poisoned physical address: 1 and the stack, or 2 and the port. -/
def poisonInfo (a : Nat) : Word :=
  match partOf a with
  | .cxl p _ => checkInfo p 2
  | .hbm k => checkInfo k 1
  | .aperture _ _ | .device _ | .remote _ _ | .hole => checkInfo 0 1

/-! ## Links to other packages (10 R233, 11 R257) -/

/-- A port as it is until boot trains it. -/
def untrained : Port := { live := false, seq := 0, fails := 0, since := 0 }
def State.port (s : State) (p : Nat) : Port := Sparse.get untrained s.dev.ports p

/-- The port that a request of a die to package q takes: the lowest live one of PORTS on the die, else in the package. -/
def State.portTo (s : State) (die q : Nat) : Option Nat :=
  let m := Sparse.get 0#96 s.dev.lnktbl q
  ((List.range 12).map (12 * die + ·) ++ List.range 96).find? fun p => m.getLsbD p && (s.port p).live

/-- The port that a machine check names when no live port leads to package q: the lowest of PORTS (notes/assumptions 19). -/
def State.portConcerned (s : State) (q : Nat) : Nat :=
  ((List.range 96).find? fun p => (Sparse.get 0#96 s.dev.lnktbl q).getLsbD p).getD 0

/-- Two requests of one hart to one package, neither of a row of `dsp`, share a byte. -/
def Remote.overlaps (r q : Remote) : Bool :=
  decide (r.pkg = q.pkg) && decide (r.by_ = q.by_) && r.asid.isNone && q.asid.isNone &&
  decide (r.addr < q.addr + q.bytes.length) && decide (q.addr < r.addr + r.bytes.length)

/-- A request to another package leaves over the port that serves it, or behind one of the same hart in flight to the same bytes over its
port (04 R103); the answer of an atomic comes back at once. -/
def State.sendRemote (s : State) (r : Remote) : State :=
  let way : Way :=
    if r.atomic then .arrived
    else match s.remote.find? fun q => q.flying && r.overlaps q with
      | some q => q.way
      | none => match s.portTo (dieOf r.by_.core) r.pkg with
        | some p => .over p
        | none => .lost (s.portConcerned r.pkg)
  { s with remote := s.remote ++ [{ r with way := way }] }

/-- A hart has a request in flight to bytes of some pieces: an atomic there waits for it (04 R103). -/
def State.inFlight (s : State) (by_ : Requester) (ps : List (Nat × Nat)) : Bool :=
  ps.any fun (a, n) =>
    match partOf a with
    | .remote q off => s.remote.any fun r => r.flying && r.overlaps
        { pkg := q, asid := none, addr := off, bytes := List.replicate n 0#8, atomic := true, bad := false, way := .arrived, by_ := by_ }
    | .hbm _ | .cxl _ _ | .aperture _ _ | .device _ | .hole => false

/-- The requests that a party knows and that are in flight arrive now: the next element of an `.ord` entry follows them (04 R104;
notes/assumptions 73). -/
def State.arrive (s : State) (key : Nat) : State :=
  { s with remote := s.remote.map fun r => if r.flying && r.who.contains key then { r with way := .arrived } else r }

/-- TINFO of the machine check of a poisoned sector of another package: SRC 1, and the stack of that package (10 R234, 11 R255). -/
def remoteInfo (a : Nat) : Word :=
  match partOf a with
  | .remote _ off => checkInfo (off / Config.stackBytes) 1
  | .hbm _ | .cxl _ _ | .aperture _ _ | .device _ | .hole => checkInfo 0 1

/-- TINFO of the machine check of a request of a core that no live port can carry. -/
def State.linkDead (s : State) (core : Nat) (ps : List (Nat × Nat)) : Option Word :=
  ps.findSome? fun (a, _) =>
    match partOf a with
    | .remote q _ => if s.remoteUsable a ∧ s.portTo (dieOf core) q = none then some (checkInfo (s.portConcerned q) 8) else none
    | .hbm _ | .cxl _ _ | .aperture _ _ | .device _ | .hole => none

end Sys2Proof.Machine
end

