-- ==== Sys2Proof/Machine/Translate.lean ====
section
/-! DEFINITION. Translation of virtual addresses (01 R12 to R23, R26, R30, R41, R42): the walk, the cached translations, and the
update of A, D, UO and G. One shared operation serves harts, streams and engines. -/

namespace Sys2Proof.Machine

/-- What an access is to UO and G (01 R41): a unit-stride stream, a scalar, strided or segment access, a gather or atomic, or
anything else; `walk` is a walk that ends before the access for which it was made, which then counts as the one that installs. -/
inductive Touch
  | stream | direct | gather | plain | walk
  deriving DecidableEq, Repr

/-- A request for translation: for a core and address space, what the access does, how it touches the page, whether a
remote-package window may carry it (10 R234), and whether the run-ahead pipeline makes it, which sets A and D in every page of an
access and not only in those before the first fault (01 R22). -/
structure XlReq where
  core : Nat
  asid : BitVec 12
  k : Acc
  touch : Touch := .plain
  remote : Bool := false
  ahead : Bool := false
  deriving DecidableEq, Repr

/-- The outcome of one translation: REASON and LEVEL of a fault, or a leaf with HOLD = 1 at a level, and the number of pages of 4 KiB
that it maps (01 R19, R26, R31). -/
inductive Xl
  | ok (pa : Nat) | fault (reason level : Nat) | hold (level pages : Nat)
  deriving DecidableEq, Repr

/-- Bits [63:57] all equal bit 56 (01 R12). -/
def canonical (va : Word) : Bool := decide ((va.extractLsb' 0 57).signExtend 64 = va)

/-- The access writes; the access reads (01 R19). -/
def accWrites : Acc → Bool
  | .write | .rmw | .majWrite => true
  | .fetch | .read | .majRead => false
def accIsMaj : Acc → Bool
  | .majRead | .majWrite => true
  | .fetch | .read | .write | .rmw => false

/-- Fields of an entry (01 R18). -/
def pteV (e : Nat) : Bool := e.testBit 0
def pteRD (e : Nat) : Bool := e.testBit 1
def pteWR (e : Nat) : Bool := e.testBit 2
def pteEX (e : Nat) : Bool := e.testBit 3
def pteMAJ (e : Nat) : Bool := e.testBit 10
def pteCONT (e : Nat) : Bool := e.testBit 11
def pteHOLD (e : Nat) : Bool := e.testBit 59
def ptePA (e : Nat) : Nat := bits e 12 40 * 4096
def pteMSET (e : Nat) : Nat := bits e 60 4
def pteLeaf (e : Nat) : Bool := pteRD e || pteWR e || pteEX e

/-- An entry without A, D, UO and G, the fields hardware writes. -/
def pteStatic (e : Nat) : Nat := e - bits e 6 4 * 64

/-- The pages of 4 KiB that a leaf maps at a level. -/
def levelPages : Nat → Nat
  | 0 => 1
  | 1 => 512
  | _ => 262144

/-- A walk's end: a fault, or a leaf with its address, level, and the first page of its mapping. -/
inductive Walked
  | fault (reason level : Nat)
  | leaf (e addr level : Nat)
  deriving DecidableEq, Repr

/-- The sixteen entries of the group of 64 KiB that holds the entry at an address are consistent (01 R20). -/
def State.groupOk (s : State) (addr : Nat) : Bool :=
  let base := addr / 128 * 128
  let first := s.num .walk base 8
  decide (bits first 12 4 = 0) &&
  (List.range 16).all fun i =>
    let e := s.num .walk (base + 8 * i) 8
    decide (pteStatic e = pteStatic first + i * 4096) && pteCONT e

/-- The rows of 01 R19 that the entry alone decides, at a level. -/
def State.entryFault (s : State) (e addr level : Nat) : Option Nat :=
  if !pteV e then some 0
  else if !pteLeaf e then
    if e - ptePA e - 1 ≠ 0 then some 3
    else if level = 0 then some 3
    else if !s.backed (ptePA e) then some 6
    else none
  else if 3 ≤ level then some 3
  else if pteWR e && !pteRD e then some 3
  else if bits e 52 7 ≠ 0 ∨ bits e 4 2 ≠ 0 then some 3
  else if ptePA e % (levelPages level * 4096) ≠ 0 then some 3
  else if pteCONT e && decide (level ≠ 0) then some 3
  else if !pteMAJ e && decide (pteMSET e ≠ 0) then some 3
  else if pteCONT e && !s.groupOk addr then some 4
  else none

/-- The walk from a table at a level down (01 R17, R19). -/
def State.walkFrom (s : State) (va : Nat) : Nat → Nat → Walked
  | level, table =>
    let addr := table + 8 * bits va (12 + 9 * level) 9
    let e := s.num .walk addr 8
    match s.entryFault e addr level with
    | some r => .fault r level
    | none =>
      if pteLeaf e then .leaf e addr level
      else
        match level with
        | 0 => .fault 3 0
        | n + 1 => s.walkFrom va n (ptePA e)

/-- The walk of an address space, from its entry in the ASID table (01 R23). -/
def State.walk (s : State) (asid : BitVec 12) (va : Nat) : Walked :=
  let at_ := bits s.dev.xatb.toNat 15 37 * 32768 + 8 * asid.toNat
  if !s.backed at_ then .fault 6 7
  else
    let e := s.num .walk at_ 8
    if !e.testBit 63 then .fault 7 7
    else if bits e 52 11 ≠ 0 ∨ bits e 0 12 ≠ 0 then .fault 3 7
    else if !s.backed (ptePA e) then .fault 6 7
    else s.walkFrom va 4 (ptePA e)

/-- A replica set: its count and stacks (01 R30). -/
def msetN (x : Word) : Nat := bits x.toNat 60 3
def msetStack (x : Word) (j : Nat) : Nat := bits x.toNat (5 * j) 5
def msetStacks (x : Word) : List Nat := (List.range (msetN x)).map (msetStack x)
def msetValid (x : Word) : Bool :=
  x.getLsbD 63 && (decide (msetN x = 3) || decide (msetN x = 5)) && (msetStacks x).all (fun k => decide (k ≤ 23)) &&
  decide ((msetStacks x).map (· / 3)).Nodup

/-- The replica set in force for an index (01 R33, KIND 3). -/
def State.mset (s : State) (i : Nat) : Word := Sparse.get 0#64 s.dev.xmsetLive i

/-- A leaf is a majority page by 01 R30. -/
def State.majPage (s : State) (e level : Nat) : Bool :=
  decide (level = 0) && !pteCONT e && pteWR e && pteRD e && !pteEX e &&
  (match partOf (ptePA e) with
   | .hbm _ => true
   | .cxl _ _ | .aperture _ _ | .device _ | .remote _ _ | .hole => false) &&
  msetValid (s.mset (pteMSET e))

/-- Permission (01 R19). -/
def permits (e : Nat) : Acc → Bool
  | .fetch => pteEX e
  | .read | .majRead => pteRD e
  | .write | .majWrite => pteWR e
  | .rmw => pteRD e && pteWR e

/-- The rows of 01 R19 that the access decides, for a leaf; `pa` is the address it gives. -/
def State.judge (s : State) (r : XlReq) (e level pa : Nat) : Xl :=
  if pteMAJ e && !(s.majPage e level && accIsMaj r.k) then .fault 5 level
  else if !pteMAJ e && accIsMaj r.k then .fault 5 level
  else if !pteMAJ e && !(s.backed pa || (r.remote && s.remoteUsable pa)) then .fault 6 level
  else if !permits e r.k then .fault 1 level
  else if pteHOLD e then .hold level (if pteCONT e then 16 else levelPages level)
  else .ok pa

/-- A, D, UO and G after an access (01 R22, R41); `installed` when the translation is new. -/
def pteTouched (e : Nat) (r : XlReq) (installed : Bool) : Nat :=
  let hbm := match partOf (ptePA e) with
    | .hbm _ => true
    | .cxl _ _ | .aperture _ _ | .device _ | .remote _ _ | .hole => false
  let e := setBits e 6 1 1
  let e := if accWrites r.k then setBits e 7 1 1 else e
  if !hbm then e
  else
    match r.touch with
    | .stream => if installed && !e.testBit 8 then setBits e 9 1 1 else e
    | .direct => setBits e 9 1 0
    | .plain => if installed then setBits e 9 1 0 else e
    | .walk => e
    | .gather => setBits (setBits e 9 1 0) 8 1 1

/-- The compare-and-write of an entry, performed through the die cache for every party; none is made where the entry is as it is to be.
Like every atomic it meets the latest store to the entry, whatever its scope (01 R22, 04 R110). Answers whether the entry was as the walk
had read it. -/
def State.swapPte (s : State) (core addr old new : Nat) : Bool × State :=
  if old = new then (true, s)
  else
    let s := s.gatherStores .walk addr 8
    if s.num .walk addr 8 = old then (true, s.perform core .sys addr (toBytes 8 new)) else (false, s)

/-- The physical address of a virtual one under a leaf at a level. -/
def leafPA (e level va : Nat) : Nat :=
  ptePA e + va % (levelPages level * 4096)

/-- The level of a cached translation. -/
def TlbEntry.level (t : TlbEntry) : Nat := if t.pages = 262144 then 2 else if t.pages = 512 then 1 else 0

/-- The cached translation that a core uses for an address. -/
def State.cached (s : State) (core : Nat) (asid : BitVec 12) (va : Nat) : Option TlbEntry :=
  let vpn := bits va 12 45
  s.tlb.find? fun t => decide (t.die = dieOf core) && decide (t.asid = asid) && decide (t.vpn ≤ vpn) && decide (vpn < t.vpn + t.pages)

/-- A, D, UO and G of an entry, as a number. -/
def pteFlags (e : Nat) : Nat := bits e 6 4

/-- The member of its group that an address enters by, and its entry as the translation has it (01 R20). -/
def TlbEntry.member (t : TlbEntry) (va : Nat) : Nat := if t.pages = 16 then bits va 12 4 else 0
def TlbEntry.entry (t : TlbEntry) (i : Nat) : Nat :=
  if t.pages = 16 then t.pte.toNat + i * 4096 + t.group.getD i 0 * 64 else t.pte.toNat
/-- The translation with a member's entry changed by hardware. -/
def TlbEntry.put (t : TlbEntry) (i e : Nat) : TlbEntry :=
  if t.pages = 16 then { t with group := List.modifyAt t.group i fun _ => pteFlags e } else { t with pte := BitVec.ofNat 64 e }

/-- The translation that a walk of an address installs, from its leaf. -/
def State.installed (s : State) (r : XlReq) (va e addr level : Nat) : TlbEntry :=
  if pteCONT e then
    let base := addr / 128 * 128
    { die := dieOf r.core, asid := r.asid, vpn := bits va 12 45 / 16 * 16, pages := 16,
      pte := BitVec.ofNat 64 (pteStatic (s.num .walk base 8)), pteAddr := base,
      group := (List.range 16).map fun i => pteFlags (s.num .walk (base + 8 * i) 8), fresh := decide (r.touch = .walk) }
  else
    { die := dieOf r.core, asid := r.asid, vpn := bits va 12 45 / levelPages level * levelPages level, pages := levelPages level,
      pte := BitVec.ofNat 64 e, pteAddr := addr, fresh := decide (r.touch = .walk) }

/-- Install a translation in place of one of the same page. -/
def State.install (s : State) (t : TlbEntry) : State :=
  { s with tlb := t :: s.tlb.filter fun u => !(decide (u.die = t.die) && decide (u.asid = t.asid) && decide (u.vpn = t.vpn)) }

/-- Translate by a walk, install the translation, and update the entry; where the entry is no longer as the walk read it, the walk starts
again (01 R19 to R22), which each time has brought a store to the die cache, so that as many walks as there are stores suffice. DESIGN
CHOICE: 01 R21 lets a unit cache the pointer entries of a walk; the model's reads every one again on each walk, so a changed pointer acts
without XINV (notes/assumptions 12). -/
def State.xlWalkN (r : XlReq) (va : Nat) : Nat → State → Xl × State
  | fuel, s =>
    match s.walk r.asid va with
    | .fault reason level => (.fault reason level, s)
    | .leaf e addr level =>
      match s.judge r e level (leafPA e level va) with
      | .ok pa =>
        let t := s.installed r va e addr level
        let e' := pteTouched e r true
        match s.swapPte r.core addr e e', fuel with
        | (true, u), _ => (.ok pa, u.install (t.put (t.member va) e'))
        | (false, u), n + 1 => State.xlWalkN r va n u
        | (false, u), 0 => (.ok pa, u)
      | x => (x, s)
def State.xlWalk (s : State) (r : XlReq) (va : Nat) : Xl × State := State.xlWalkN r va s.stores.length s

/-- Translate one address (01 R12, R25, R21). A cached translation serves until it is invalidated or evicted; where its entry must
change and no longer is as the walk read it, the walk starts again (R22). The access for which a walk has installed it touches the page as
one that installs (R41; notes/assumptions 53). -/
def State.xl (s : State) (r : XlReq) (va : Word) : Xl × State :=
  if !canonical va then (.fault 2 7, s)
  else if !s.dev.xatb.getLsbD 0 then (.fault 7 7, s)
  else
    let v := va.toNat
    match s.cached r.core r.asid v with
    | none => s.xlWalk r v
    | some t =>
      let i := t.member v
      let e := t.entry i
      match s.judge r e t.level (ptePA t.pte.toNat + (v - t.vpn * 4096) % (t.pages * 4096)) with
      | .ok pa =>
        let e' := pteTouched e r t.fresh
        if e' = e ∧ t.fresh = false then (.ok pa, s)
        else
          match s.swapPte r.core (t.pteAddr + 8 * i) e e' with
          | (true, u) =>
            let t' : TlbEntry := { t.put i e' with fresh := t.fresh && decide (r.touch = .walk) }
            (.ok pa, { u with tlb := u.tlb.map fun x => if x = t then t' else x })
          | (false, u) => u.xlWalk r v
      | x => (x, s)

/-! ## Accesses of several bytes (01 R14) -/

/-- The pieces of an access that lie in one page each: first address and length. -/
def pagePieces : Nat → Word → Nat → List (Word × Nat)
  | 0, _, _ => []
  | fuel + 1, va, n =>
    if n = 0 then []
    else
      let room := 4096 - va.toNat % 4096
      if n ≤ room then [(va, n)] else (va, room) :: pagePieces fuel (va + BitVec.ofNat 64 room) (n - room)

/-- The outcome for every piece: physical pieces in order, or the lowest faulting address. -/
inductive XlAll
  | ok (ps : List (Nat × Nat)) | fault (va : Word) (reason level : Nat) | hold (va : Word) (level pages : Nat)
  deriving DecidableEq, Repr

def State.xlPieces (s : State) (r : XlReq) : List (Word × Nat) → XlAll × State
  | [] => (.ok [], s)
  | (va, n) :: t =>
    match s.xl r va with
    | (.ok pa, s) =>
      match s.xlPieces r t with
      | (.ok ps, s) => (.ok ((pa, n) :: ps), s)
      | (x, s) => (x, s)
    | (.fault reason level, s) => (.fault va reason level, if r.ahead then (s.xlPieces r t).2 else s)
    | (.hold level pages, s) => (.hold va level pages, if r.ahead then (s.xlPieces r t).2 else s)

/-- Translate `n` bytes from a virtual address. -/
def State.xlAll (s : State) (r : XlReq) (va : Word) (n : Nat) : XlAll × State :=
  s.xlPieces r (pagePieces (n / 4096 + 2) va n)

/-- TINFO of a translation fault (01 R26). -/
def xlInfo (asid : BitVec 12) (space : Nat) (seg runahead : Bool) (level reason : Nat) : Word :=
  BitVec.ofNat 64 (asid.toNat * 4096 + space * 1024 + (if seg then 512 else 0) + (if runahead then 256 else 0) + level * 16 + reason)

/-- The cause of a translation fault (01 R12). -/
def xlCause : Acc → Nat
  | .fetch => Cause.fetch
  | .read | .majRead => Cause.load
  | .write | .rmw | .majWrite => Cause.store

/-- The trap of a scalar access (01 R26). -/
def xlTrap (r : XlReq) (va : Word) (space level reason : Nat) : Trap :=
  { cause := xlCause r.k, addr := va, info := xlInfo r.asid space false false level reason }

/-- The trap of a scratchpad access beyond the bound (01 R11): the lowest offset above 0x3F_FFFF. -/
def spadTrap (asid : BitVec 12) (k : Acc) (off : Nat) : Trap :=
  { cause := xlCause k, addr := BitVec.ofNat 64 (max off Config.spadBytes), info := xlInfo asid 1 false false 7 9 }

/-! ## Eviction and the victim queue (01 R42) -/

/-- The class of a victim: use-once, plain, gathered, in the order they are served. DESIGN CHOICE: a leaf with both UO and G, which
software can write, is of the class of UO (01 R42 gives it none; notes/assumptions 52). -/
def Victim.cls (v : Victim) : Nat := if v.uo then 0 else if v.g then 2 else 1

/-- Enter a page in a die's queue, oldest first within its class: when it is full, the newest entry of a later class goes, or
the arriving entry is dropped and counted. DESIGN CHOICE: where two later classes hold entries, the last in the order of service
loses its newest (01 R42 says only "a later class"; notes/assumptions 52). -/
def State.victim (s : State) (die : Nat) (v : Victim) : State :=
  let q := Sparse.get [] s.dev.xvq die
  let put (q : List Victim) : List Victim := q.filter (fun w => w.cls ≤ v.cls) ++ v :: q.filter (fun w => v.cls < w.cls)
  if q.length < 1024 then { s with dev := { s.dev with xvq := Sparse.set [] s.dev.xvq die (put q) } }
  else
    match q.getLast? with
    | some w =>
      if v.cls < w.cls then { s with dev := { s.dev with xvq := Sparse.set [] s.dev.xvq die (put q.dropLast) } }
      else
        let n := (Sparse.get 0#64 s.dev.xvqov die).toNat
        { s with dev := { s.dev with xvqov := Sparse.set 0#64 s.dev.xvqov die (BitVec.ofNat 64 (min (n + 1) (2 ^ 64 - 1))) } }
    | none => s

/-- G and UO of a cached translation. DESIGN CHOICE: a group of 64 KiB has G where one of its entries has it, else UO where one has it
(01 R42 speaks of one leaf; notes/assumptions 52). -/
def TlbEntry.gathered (t : TlbEntry) : Bool := if t.pages = 16 then t.group.any (·.testBit 2) else t.pte.getLsbD 8
def TlbEntry.once (t : TlbEntry) : Bool := if t.pages = 16 then t.group.any (·.testBit 3) && !t.gathered else t.pte.getLsbD 9

/-- Evict a die's cached translation; an HBM leaf enters the victim queue. -/
def State.evict (s : State) (die : Nat) (t : TlbEntry) : State :=
  let s := { s with tlb := s.tlb.filter (fun u => decide (u ≠ t)) }
  match partOf (ptePA t.pte.toNat) with
  | .hbm _ => s.victim die { uo := t.once, g := t.gathered, asid := t.asid, vpn := t.vpn }
  | .cxl _ _ | .aperture _ _ | .device _ | .remote _ _ | .hole => s

end Sys2Proof.Machine
end

