-- ==== Sys2Proof/Machine/Access.lean ====
section
/-! DEFINITION. The data accesses of the harts of a context: the strip store buffer (02 R69 to R71), consumption of poison
(11 R251, R255), and loads, stores and atomics in the virtual space and the scratchpad. Each takes what comes after it as a
continuation. -/

namespace Sys2Proof

/-- The acquire part of a modifier, and its release part. -/
def AcqRel.acqScope : AcqRel → Option Scope
  | .acq s | .acqrel s => some s
  | .rlx | .rel _ => none
def AcqRel.relScope : AcqRel → Option Scope
  | .rel s | .acqrel s => some s
  | .rlx | .acq _ => none
/-- The access is an acquire or a release. -/
def AcqRel.ordered (ar : AcqRel) : Bool := decide (ar ≠ .rlx)

end Sys2Proof

namespace Sys2Proof.Machine

/-! ## Places of the scratchpad -/

/-- The physical places of `n` bytes from a logical scratchpad offset (02 R57). -/
def spadPlaces (spz : Word) (a n : Nat) : List Nat := (List.range n).map fun i => swizzle spz (a + i)

/-- Consecutive bytes joined into runs. -/
def memRuns : List (Nat × Byte) → List (Nat × List Byte)
  | [] => []
  | (a, b) :: t =>
    match memRuns t with
    | (a', bs) :: r => if a' = a + 1 then (a, b :: bs) :: r else (a, [b]) :: (a', bs) :: r
    | [] => [(a, [b])]

/-- The units of `u` bytes that `n` bytes at `a` fill are no longer poisoned when they are written with good data (11 R255;
notes/assumptions 17). -/
def cleaned (u a n : Nat) (poison : List Nat) : List Nat :=
  poison.filter fun w => !(decide (a ≤ u * w) && decide (u * w + u ≤ a + n))

/-- The scratchpad stores that a context's commands and acquires still ask about, after a store (04 R107, R112). A store that replaces
one of the same hart and block that nobody has acquired stands for both; a store by another party ends what the bytes carried, unless it
is a release of its own. `who` has the parties that read the store before it performed, `grp` the block that it is a part of. -/
def Context.logStore (c : Context) (key a : Nat) (bs : List Byte) (sync : List Sync) (who : List Nat := []) (grp : Nat := 0) : Context :=
  let exe := c.exeSide key
  let entry (i : Nat) (old : Byte) : SpadStore := { off := a + i, old := old, own := key, who := key :: who, sync := sync, grp := grp }
  let one (l : List SpadStore) (i : Nat) : List SpadStore :=
    if exe then
      match l.find? fun e => e.off = a + i with
      | some e =>
        if e.own = key ∧ e.who = [key] ∧ e.sync = [] ∧ e.grp = grp then entry i e.old :: l.filter fun x => x ≠ e else entry i (c.spad.byte (a + i)) :: l
      | none => entry i (c.spad.byte (a + i)) :: l
    else
      let l := l.filter fun e => e.off ≠ a + i
      if sync = [] then l else entry i (c.spad.byte (a + i)) :: l
  { c with slog := (List.range bs.length).foldl one c.slog }

/-- Bytes written to the scratchpad of a context by a party. -/
def Context.putSpad (c : Context) (key a : Nat) (bs : List Byte) (sync : List Sync) (who : List Nat := []) (grp : Nat := 0) : Context :=
  let c := c.logStore key a bs sync who grp
  { c with spad := { (bs.zipIdx).foldl (fun p (b, i) => p.setByte (a + i) b) c.spad with poison := cleaned 8 a bs.length c.spad.poison } }

/-! ## The strip (02 R69 to R71, 11 R251) -/

/-- Sectors written whole are no longer poisoned. -/
def State.cleanSectors (s : State) (a n : Nat) : State :=
  let rest := cleaned 64 a n s.poison
  if rest = s.poison then s
  else
    let s := s.protect a n
    { s with poison := cleaned 64 a n s.poison }

/-- A store of a party takes effect, with the releases it carries, the parties that have read it while it was held, and the block it
belongs to (04 R101, R107, R108, R118). DESIGN CHOICE: an
ordinary access of a stack that MCLOST marks goes on as on a live one (03 R89 speaks of majority requests; notes/assumptions 75). -/
def State.performHeld (s : State) (key : Nat) (sync : List Sync) (h : Held) : State :=
  if h.spad then s.setCtx (s.ctx.putSpad key h.addr h.bytes sync h.who h.grp)
  else
    match partOf h.addr with
    | .remote q off =>
      s.sendRemote
        { pkg := q, asid := none, addr := off, bytes := h.bytes, atomic := false, bad := h.bad, way := .arrived,
          by_ := { core := s.ctx.core, bank := s.ctx.bank, hart := if key = s.ctx.hartKey .acc then .acc else .exe, cmd := none },
          who := key :: h.who, space := s.ctx.asid }
    | .hbm _ | .cxl _ _ | .aperture _ _ | .device _ | .hole =>
      let s := (if h.bad then s else s.cleanSectors h.addr h.bytes.length).push
        { addr := h.addr, bytes := h.bytes, core := s.ctx.core, level := h.level, own := key, who := key :: h.who, grp := h.grp, sync := sync }
      if h.bad then (s.protect h.addr h.bytes.length).setPoison h.addr h.bytes.length true else s

/-- The party that a store of the strip is of. -/
def Context.stripKey (c : Context) (h : Held) : Nat :=
  match h.vp with
  | some e => c.vpKey e
  | none => c.hartKey .exe

/-- Of blocks whose stores to memory and to the scratchpad have performed, all become visible to all: those in the scratchpad are seen at
once by every party of its core, and no party sees a part of a block (04 R118; notes/assumptions 57). -/
def State.showBlocks (s : State) (l : List Held) : State :=
  let gs := (l.filter fun h => h.spad && decide (h.grp ≠ 0) && l.any fun x => !x.spad && decide (x.grp = h.grp)).map (·.grp)
  if gs.isEmpty then s
  else
    let s := s.raise (fun w => gs.contains w.grp) .sys
    s.setCtx { s.ctx with slog := s.ctx.slog.map fun e => if gs.contains e.grp then { e with shown := true } else e }

/-- The held stores of the open strip perform in program order, and the strip holds no more of them (02 R70, R71). -/
def State.irrevocable (s : State) : State :=
  match s.ctx.strip with
  | none => s
  | some p =>
    let s := s.setCtx { s.ctx with strip := some { p with revocable := false, held := [] } }
    (p.held.reverse.foldl (fun s h => s.performHeld (s.ctx.stripKey h) [] h) s).showBlocks p.held

/-- The strip commits: its held stores perform and it is closed (02 R70). -/
def State.commitStrip (s : State) : State :=
  let s := s.irrevocable
  s.setCtx { s.ctx with strip := none }

/-- The sectors that held stores fill (02 R69). -/
def heldSectors (l : List Held) : List (Bool × Nat) :=
  (l.flatMap fun h => (List.range h.bytes.length).map fun i => (h.spad, (h.addr + i) / 64)).dedup

/-- A store of a hart, its vector stream or a virtual processor: one of the execute hart's is held in a revocable strip, one of a
virtual processor whatever the strip holds; any other performs. -/
def State.emit (s : State) (exe : Bool) (sync : List Sync) (h : Held) : State :=
  let h : Held := if s.ctx.lane.isSome then { h with vp := s.ctx.lane } else h
  let key := if s.ctx.lane.isSome then s.party else if exe then s.ctx.stripKey h else s.ctx.hartKey .acc
  match s.ctx.strip with
  | some p =>
    if exe && p.revocable then
      if (heldSectors (h :: p.held)).length ≤ 2048 ∨ s.ctx.lane.isSome then s.setCtx { s.ctx with strip := some { p with held := h :: p.held } }
      else s.irrevocable.performHeld key sync h
    else s.performHeld key sync h
  | none => s.performHeld key sync h

/-- The rewind of a revocable strip (11 R251). The strip's `vtsend` runs again, so its virtual processors are gone (10 R224); a majority
operation that the hart waits for goes on without it (03 R88), and leave that it waits for or has not used is given up (10 R222). -/
def State.rewind (s : State) (p : Strip) : State :=
  let c := s.ctx
  let v := p.xs.foldl (fun v (n, w) => v.setX n w) { c.v with vq := [], vl := p.vl, rc := p.rc, vtype := p.vtype }
  (((s.orphanOps .exe).withdrawLeave .exe).dropLeave .exe).setCtx
    { c with v := v, xh := { c.xh with pc := p.pc, wait := .none }, vps := c.vps.filter fun q => !q.strip,
             strip := some { p with held := [], rewinds := p.rewinds + 1, rewound := true } }

/-- Uncorrectable data consumed: a rewind, or MACHINE_CHECK (11 R251, R255). The eighth rewind in a row is a machine check of its
own. The strip that holds the stores of a virtual processor counts eight where there is no strip to rewind. -/
def State.consume (s : State) (exe : Bool) (addr info : Word) : Res :=
  match s.ctx.strip with
  | some p =>
    if exe && p.revocable && decide (p.rewinds < 8) then
      if p.rewinds + 1 < 8 then .rewind (s.rewind p)
      else .trap { cause := Cause.machineCheck, addr := addr, info := checkInfo 0 6 } s
    else .trap { cause := Cause.machineCheck, addr := addr, info := info } s
  | none => .trap { cause := Cause.machineCheck, addr := addr, info := info } s

/-! ## Reading with held stores (02 R70) -/

/-- A held store writes a place. -/
def Held.covers (h : Held) (sp : Bool) (a : Nat) : Bool :=
  decide (h.spad = sp) && decide (h.addr ≤ a) && decide (a < h.addr + h.bytes.length)
/-- The newest held byte of a place. -/
def heldByte (sp : Bool) (a : Nat) (l : List Held) : Option Byte :=
  (l.find? fun (h : Held) => h.covers sp a).map fun h => h.bytes.getD (a - h.addr) 0#8
def Context.heldByte (c : Context) (sp : Bool) (a : Nat) : Option Byte :=
  match c.strip with
  | some p => Machine.heldByte sp a p.held
  | none => none

/-- A byte of memory as the harts and the vector stream of the context in focus read it. -/
def State.ctxByte (s : State) (a : Nat) : Byte := (s.ctx.heldByte false a).getD (s.byte (.core s.ctx.core) a)

def State.ctxBytes (s : State) (ps : List (Nat × Nat)) : List Byte :=
  ps.flatMap fun (a, n) => (List.range n).map fun i => s.ctxByte (a + i)

/-- A byte of the scratchpad at a physical offset, held stores included. -/
def State.spadByte (s : State) (a : Nat) : Byte := (s.ctx.heldByte true a).getD (s.ctx.spad.byte a)

/-- The newest held store of a byte of memory carries poison. -/
def Context.heldBad (c : Context) (a : Nat) : Bool :=
  match c.strip with
  | some p => ((p.held.find? fun (h : Held) => h.covers false a).map (·.bad)).getD false
  | none => false

/-- The addresses of pieces that no held store covers: what a load takes from memory itself. -/
def Context.below (c : Context) (sp : Bool) (as : List Nat) : List Nat := as.filter fun a => (c.heldByte sp a).isNone
def pieceBytes (ps : List (Nat × Nat)) : List Nat := ps.flatMap fun (a, n) => (List.range n).map (a + ·)

/-- Held stores that satisfy a test, and the blocks they belong to, are to perform at a scope (04 R100, R107, R109, R118). -/
def State.raiseHeld (s : State) (p : Held → Bool) (sc : Scope) : State :=
  match s.ctx.strip with
  | none => s
  | some q =>
    let hit (h : Held) : Bool := p h || (decide (h.grp ≠ 0) && q.held.any fun x => decide (x.grp = h.grp) && p x)
    s.setCtx { s.ctx with strip := some { q with held := q.held.map fun h => if hit h then { h with level := scopeMax h.level sc } else h } }

/-- A party reads places that held stores fill: it has acquired the newest of each place, and the block it belongs to, and by an acquire
they perform at its scope (04 R100, R107, R118). -/
def State.readHeld (s : State) (key : Nat) (acq : Option Scope) (sp : Bool) (as : List Nat) : State :=
  match s.ctx.strip with
  | none => s
  | some q =>
    let ix := (as.filterMap fun a => q.held.findIdx? fun h => h.covers sp a).dedup
    if ix = [] then s
    else
      let gs := (ix.filterMap fun i => (q.held[i]?).map (·.grp)).filter (· ≠ 0)
      let see (h : Held) : Held :=
        { h with who := addKey (if s.ctx.stripKey h = key then ownRead else key) h.who, level := (acq.map (scopeMax h.level)).getD h.level }
      s.setCtx { s.ctx with strip := some { q with
        held := q.held.zipIdx.map fun (h, i) => if ix.contains i || gs.contains h.grp then see h else h } }

/-- The releases that bytes of the scratchpad of a context carry; a party that reads the bytes has acquired the stores it reads (04 R107,
R108). -/
def Context.spadSyncs (c : Context) (as : List Nat) : List Sync :=
  ((as.filterMap fun a => c.slog.find? fun e => e.off = a).flatMap (·.sync)).dedup
def Context.spadBlocks (c : Context) (as : List Nat) : List Nat := (c.slog.filter fun e => as.contains e.off).map (·.grp)
def Context.spadSeen (c : Context) (key : Nat) (as : List Nat) : Context :=
  { c with slog := c.slog.map fun e => if as.contains e.off then { e with who := addKey key e.who } else e }

/-- A party reads bytes of the scratchpad: it has acquired the stores it reads, and by an acquire the releases they carry
(04 R107, R108). -/
def State.readSpad (s : State) (key : Nat) (acq : Option Scope) (as : List Nat) : State :=
  if s.ctx.slog = [] then s
  else
    let syncs := s.ctx.spadSyncs as
    let s := (s.setCtx (s.ctx.spadSeen key as)).seeBlocks key (s.ctx.spadBlocks as)
    match acq with
    | some sc => s.acquireSyncs s.ctx.core key sc syncs
    | none => s

/-! ## The order of a hart with its streams (04 R103, R106, R107) -/

/-- The operation accesses memory or the scratchpad. -/
def VOp.isMem : VOp → Bool
  | .load _ _ _ _ _ _ _ _ | .store _ _ _ _ _ _ _ | .sca _ _ _ _ _ _ _ _ | .amo _ _ _ _ _ _ _ _ _ | .mvLoad _ _ _ _ _ _ _
  | .mvStore _ _ _ _ _ _ _ | .spill _ _ _ | .fill _ _ _ | .lanes _ _ => true
  | _ => false

/-- Two lists share a number. -/
def share (a b : List Nat) : Bool := a.any fun x => b.contains x

/-- The scope of a release that an entry carries. -/
def VOp.release : VOp → Option Scope
  | .store _ _ _ _ _ ar _ | .sca _ _ _ _ _ _ ar _ | .amo _ _ _ _ _ _ _ ar _ | .mvStore _ _ _ _ ar _ _ => ar.relScope
  | .lanes _ _ => some .core
  | _ => none

/-- The entry accesses the scratchpad. -/
def VOp.onSpad : VOp → Bool
  | .load _ _ _ sp _ _ _ _ | .store _ _ _ sp _ _ _ | .sca _ _ _ sp _ _ _ _ | .amo _ _ _ _ sp _ _ _ _ | .mvLoad _ _ sp _ _ _ _
  | .mvStore _ _ sp _ _ _ _ | .spill _ sp _ => sp
  | .fill _ m _ => m.sp
  | .lanes _ _ => true
  | _ => false

/-- An entry of the matrix stream reads a pending token, which acquires the command's writes before any later access (04 R113). -/
def Context.matAwaitsToken (c : Context) : Bool :=
  c.cmds.any fun k => decide (k.hart = .exe) && c.m.mq.any fun m => m.op.vr.contains k.tok.toNat

/-- A vector entry waits for the matrix entries before it: a register of theirs, the scratchpad, a release, or an access of memory after a
token that one of them reads (08 R181, 04 R103, R107, R113). -/
def Context.matHolds (c : Context) (e : VEntry) : Bool :=
  let regs := e.op.vw ++ e.op.vr
  (c.m.mq.any fun m => share m.op.vw regs || share m.op.vr e.op.vw) ||
  (!(c.m.mq.isEmpty && c.m.pend.isEmpty) && (e.op.onSpad || e.op.release.isSome)) || (e.op.isMem && c.matAwaitsToken)

/-- Every entry that the hart in focus issued to its streams has completed. -/
def State.drained (s : State) : Bool :=
  decide (s.hart = .acc) || (s.ctx.v.vq.isEmpty && s.ctx.m.mq.isEmpty && s.ctx.m.pend.isEmpty)

/-- A queued entry reads a predicate that may be a chunk mask: that acquires its chunks before any later access (04 R114). -/
def VEntry.readsMask (e : VEntry) : Bool := decide (e.pg ≠ 0#4) || e.op.pr.any (· ≠ 0)

/-- An entry of a stream of the execute hart reads a pending token, which acquires the command's writes before any later access
(04 R113). -/
def Context.awaitsToken (c : Context) : Bool :=
  c.matAwaitsToken || c.cmds.any fun k => decide (k.hart = .exe) && c.v.vq.any fun e => e.op.vr.contains k.tok.toNat

/-- A scalar access waits until the entries before it that may access the same place or acquire have completed; a release or an
acquire, until every entry has (04 R103, R106, R107, R113, R114, R117; notes/assumptions 7). -/
def State.memOrder (s : State) (sp ordered : Bool) (f : State → Res) : Res :=
  if s.drained || (!ordered && !(s.ctx.v.vq.any fun e => e.op.isMem || e.readsMask) && !s.ctx.awaitsToken &&
      (!sp || (s.ctx.m.mq.isEmpty && s.ctx.m.pend.isEmpty))) then f s
  else .stall .other s

/-! ## Scalar accesses (01 R11 to R14, R38) -/

/-- A request of the context in focus. -/
def State.req (s : State) (k : Acc) (touch : Touch := .plain) (remote : Bool := false) : XlReq :=
  { core := s.ctx.core, asid := s.ctx.asid, k := k, touch := touch, remote := remote }

/-- The hart in focus is the execute hart. -/
def State.isExe (s : State) : Bool := decide (s.hart = .exe)

/-- Translate an access of the hart in focus, or trap, or stall (01 R26, R31). -/
def State.reach (s : State) (r : XlReq) (va : Word) (n : Nat) (f : List (Nat × Nat) → State → Res) : Res :=
  match s.xlAll r va n with
  | (.ok ps, t) => f ps t
  | (.fault a reason level, t) => .trap (xlTrap r a 0 level reason) t
  | (.hold a _ pages, t) => .stall (.hold a pages) t

/-- The first piece of an access with a poisoned byte: one of a held row with poison, or one that no held store covers (02 R70, 11 R251,
R255). -/
def State.badPiece (s : State) (ps : List (Nat × Nat)) : Option Nat :=
  (ps.find? fun p => (s.poisoned p.1 p.2 && (s.ctx.below false (pieceBytes [p])).any fun a => s.poison.contains (a / 64)) ||
    (pieceBytes [p]).any s.ctx.heldBad).map (·.1)

/-- Some place of the scratchpad that no held store covers lies in a poisoned word. -/
def State.badPlaces (s : State) (places : List Nat) : Bool :=
  (s.ctx.below true places).any fun a => s.ctx.spad.poison.contains (a / 8)

/-- The hart in focus, its vector stream or a virtual processor has read pieces of memory, or places of its scratchpad. -/
def State.readPieces (s : State) (ar : AcqRel) (ps : List (Nat × Nat)) : State :=
  let s := s.readHeld s.party ar.acqScope false (pieceBytes ps)
  if s.stores = [] then s else s.read (View.core s.ctx.core).sees s.ctx.core s.party ar.acqScope (s.ctx.below false (pieceBytes ps))
def State.seePlaces (s : State) (acq : Option Scope) (places : List Nat) : State :=
  let s := s.readHeld s.party acq true places
  s.readSpad s.party acq (s.ctx.below true places)
def State.readPlaces (s : State) (ar : AcqRel) (places : List Nat) : State := s.seePlaces ar.acqScope places

/-- The machine check of a poisoned instruction word: SRC 1 whatever memory holds it (13 R286). -/
def fetchInfo (pa : Nat) : Word := checkInfo (bits (poisonInfo pa).toNat 8 8) 1

/-! ## Engines as parties (04 R112)

An engine command of a key sees what its issuing hart had made or acquired when it issued the command, and nothing else of the other
hart of the context until that is visible everywhere. -/

/-- A store that an engine command of the context in focus sees. -/
def State.engSees (s : State) (v : View) (key : Nat) (w : PStore) : Bool :=
  v.sees w && (!s.ctx.exeSide w.own || w.who.contains key || decide (w.level = .sys))

/-- A byte of memory as an engine command reads it. -/
def State.engByte (s : State) (v : View) (key a : Nat) : Byte := s.byteBy (s.engSees v key) a

/-- A byte of the scratchpad as an engine command of its context reads it: what stood there before the stores hidden from it. -/
def Context.engSpad (c : Context) (key off : Nat) : Byte :=
  match ((c.slog.filter fun e => e.off = off).takeWhile fun e => c.exeSide e.own && !e.shown && !e.who.contains key).getLast? with
  | some e => e.old
  | none => c.spad.byte off

/-- A store of an engine command of the context in focus, to memory. -/
def State.engPut (s : State) (key : Nat) (level : Scope) (a : Nat) (bs : List Byte) (sync : List Sync := []) : State :=
  s.push { addr := a, bytes := bs, core := s.ctx.core, level := level, own := s.ctx.engKey, who := [key], sync := sync }

/-- The first poisoned piece of an engine's read. -/
def State.engBad (s : State) (ps : List (Nat × Nat)) : Option Nat := (ps.find? fun p => s.poisoned p.1 p.2).map (·.1)

/-- Read `n` bytes of the virtual space. DESIGN CHOICE: the reads of memory that `rtlay`, `rtprog`, `rtin` and `spawn` make touch their
pages as any other access of 01 R41 does, not as scalar accesses (notes/assumptions 53). -/
def State.loadV (s : State) (touch : Touch) (va : Word) (n : Nat) (ar : AcqRel) (f : List Byte → State → Res) : Res :=
  s.reach (s.req .read touch) va n fun ps t =>
    match t.badPiece ps with
    | some pa => t.consume t.isExe va (poisonInfo pa)
    | none => f (t.ctxBytes ps) (t.readPieces ar ps)

/-- Read `n` bytes of the scratchpad at a logical offset. -/
def State.loadS (s : State) (off : Word) (n : Nat) (ar : AcqRel) (f : List Byte → State → Res) : Res :=
  if Config.spadBytes < off.toNat + n then .trap (spadTrap s.ctx.asid .read off.toNat) s
  else
    let places := spadPlaces s.ctx.sr.spz off.toNat n
    if s.badPlaces places then s.consume s.isExe off (checkInfo 0 3)
    else f (places.map s.spadByte) (s.readPlaces ar places)

/-- The stores of one access, to physical pieces, and to places of the scratchpad. -/
def pieceStores : List (Nat × Nat) → List Byte → List Held
  | [], _ => []
  | (a, n) :: t, bs => { spad := false, addr := a, bytes := bs.take n } :: pieceStores t (bs.drop n)

def spadStores (places : List Nat) (bs : List Byte) : List Held :=
  (memRuns (places.zip bs)).map fun (a, b) => { spad := true, addr := a, bytes := b }

/-- Emit the stores of one access in order. -/
def State.emitAll (s : State) (exe : Bool) (sync : List Sync) (l : List Held) : State := l.foldl (fun s h => s.emit exe sync h) s

/-- A release by the party that runs: the strip becomes irrevocable, and what the party made or acquired performs at the scope
(02 R71, 04 R107). -/
def State.releaseBy (s : State) (sc : Scope) : State := s.irrevocable.release s.party sc

/-- The release part of a store's or an atomic's modifier, and what its write carries. -/
def State.releaseFor (s : State) (ar : AcqRel) : List Sync × State :=
  match ar.relScope with
  | some sc => (s.releaseBy sc).syncs s.ctx.core s.party sc
  | none => ([], s)

/-- A release at system scope waits: what its party made or acquired has yet to arrive at another package (04 R107, R123). -/
def State.sysWait (s : State) (ar : AcqRel) : Bool := decide (ar.relScope = some .sys) && s.irrevocable.unsent s.party

/-- Write bytes to the virtual space. -/
def State.storeV (s : State) (r : XlReq) (va : Word) (bs : List Byte) (ar : AcqRel) (f : State → Res) : Res :=
  s.reach r va bs.length fun ps t =>
    match t.linkDead t.ctx.core ps with
    | some info => .trap { cause := Cause.machineCheck, addr := va, info := info } t
    | none =>
      if t.sysWait ar then .stall .other t.irrevocable
      else f ((t.releaseFor ar).2.emitAll t.isExe (t.releaseFor ar).1 (pieceStores ps bs))

/-- Write bytes to the scratchpad at a logical offset. -/
def State.storeS (s : State) (off : Word) (bs : List Byte) (ar : AcqRel) (f : State → Res) : Res :=
  if Config.spadBytes < off.toNat + bs.length then .trap (spadTrap s.ctx.asid .write off.toNat) s
  else if s.sysWait ar then .stall .other s.irrevocable
  else
    f ((s.releaseFor ar).2.emitAll s.isExe (s.releaseFor ar).1 (spadStores (spadPlaces s.ctx.sr.spz off.toNat bs.length) bs))

/-- Read from either space. -/
def State.loadAt (s : State) (sp : Bool) (touch : Touch) (a : Word) (n : Nat) (ar : AcqRel) (f : List Byte → State → Res) : Res :=
  if sp then s.loadS a n ar f else s.loadV touch a n ar f

/-- Write to either space. -/
def State.storeAt (s : State) (sp : Bool) (touch : Touch) (a : Word) (bs : List Byte) (ar : AcqRel) (f : State → Res) : Res :=
  if sp then s.storeS a bs ar f else s.storeV (s.req .write touch true) a bs ar f

/-- One atomic read-modify-write of `n` bytes (04 R110): `op` gives the value to write, or none to write nothing, from the old
one, and `f` goes on with the old value. The address is aligned, so the bytes lie in one page. What the old value's store carried,
the write carries on (04 R108). `checked` says that the entry of which this is an element has looked at poison.
DESIGN CHOICE: poison is consumed before the strip becomes irrevocable (notes/assumptions 54). -/
def State.atomicAt (s : State) (checked sp : Bool) (a : Word) (n : Nat) (ar : AcqRel)
    (op : Nat → State → Except Trap (Option Nat × State)) (f : Nat → State → Res) : Res :=
  if sp then
    if Config.spadBytes < a.toNat + n then .trap (spadTrap s.ctx.asid .rmw a.toNat) s
    else
      let places := spadPlaces s.ctx.sr.spz a.toNat n
      if !checked && s.badPlaces places then s.consume s.isExe a (checkInfo 0 3)
      else if s.sysWait ar then .stall .other s.irrevocable
      else
        let old := ofBytes (places.map s.spadByte)
        match op old s with
        | .error t => .trap t s
        | .ok (new, t) =>
          let t := t.irrevocable
          let chain := t.ctx.spadSyncs places
          let (sync, t) := (t.readPlaces ar places).releaseFor ar
          f old (match new with
            | some v => t.emitAll t.isExe (sync ++ chain) (spadStores places (toBytes n v))
            | none => t)
  else
    s.reach (s.req .rmw .gather true) a n fun ps t =>
      match ps with
      | [(pa, _)] =>
        match t.linkDead t.ctx.core ps with
        | some info => .trap { cause := Cause.machineCheck, addr := a, info := info } t
        | none =>
        if t.remoteUsable pa then
          let me : Requester := { core := t.ctx.core, bank := t.ctx.bank, hart := t.hart, cmd := none }
          if t.sysWait ar || t.irrevocable.inFlight me ps then .stall .other t.irrevocable
          else
          let (i, t) := t.draw
          if !checked && Config.remoteBad i 0 then t.consume t.isExe a (remoteInfo pa)
          else
          let old := (Config.remoteOld i).toNat % 2 ^ (8 * n)
          match op old t with
          | .error e => .trap e t
          | .ok (new, t) =>
            let (_, t) := t.irrevocable.releaseFor ar
            let q := match partOf pa with
              | .remote q off => (q, off)
              | .hbm _ | .cxl _ _ | .aperture _ _ | .device _ | .hole => (0, 0)
            let bs := match new with
              | some v => toBytes n v
              | none => []
            f old (t.sendRemote
              { pkg := q.1, asid := none, addr := q.2, bytes := bs, atomic := true, bad := false, way := .arrived, by_ := me })
        else
          match if checked then none else t.badPiece ps with
          | some pa => t.consume t.isExe a (poisonInfo pa)
          | none =>
            if t.sysWait ar then .stall .other t.irrevocable
            else
            let t := t.irrevocable.gatherStores (.core t.ctx.core) pa n
            let old := ofBytes (t.ctxBytes ps)
            match op old t with
            | .error e => .trap e t
            | .ok (new, t) =>
              let chain := t.carried (.core t.ctx.core) (pieceBytes ps)
              let (sync, t) := (t.readPieces ar ps).releaseFor ar
              f old (match new with
                | some v => t.emitAll t.isExe (sync ++ chain) (pieceStores ps (toBytes n v))
                | none => t)
      | _ => .trap (alignTrap a n) t

/-- The address of a memory operand (16 R334). -/
def State.addr (s : State) (m : Addr) : Word := s.x m.a + imm64 m.off

end Sys2Proof.Machine
end

