-- ==== Sys2Proof/Machine/Flags.lean ====
section
/-! DEFINITION. The flags of FSTAT and the enables of FCTL (06 R140 to R142). -/

namespace Sys2Proof.Machine

/-- The bits of FSTAT (06 R141). -/
def Flag.nx : BitVec 8 := 0x01#8
def Flag.uf : BitVec 8 := 0x02#8
def Flag.of : BitVec 8 := 0x04#8
def Flag.dz : BitVec 8 := 0x08#8
def Flag.nv : BitVec 8 := 0x10#8
def Flag.sat : BitVec 8 := 0x20#8
def Flag.gx : BitVec 8 := 0x40#8
def Flag.pwb : BitVec 8 := 0x80#8

/-- NV when the condition holds. -/
def nvIf (c : Bool) : BitVec 8 := if c then Flag.nv else 0#8

/-- The flags that FCTL enables (06 R140): NXE to NVE stand at bits 8 to 12. -/
def enabledFlags (fctl : Word) : BitVec 8 := BitVec.ofNat 8 (bits fctl.toNat 8 5)

/-- Some flag raised is enabled (06 R142). -/
def trapping (fctl : Word) (f : BitVec 8) : Bool := decide (f &&& enabledFlags fctl ≠ 0#8)

/-- TINFO of an FP trap: NV, DZ, OF, UF, NX in FSTAT bit order (06 R142). -/
def fpInfo (f : BitVec 8) : Word := BitVec.ofNat 64 (f.toNat % 32)

/-- The FP trap of a scalar instruction. -/
def fpTrap (f : BitVec 8) : Trap := { cause := Cause.fp, addr := 0#64, info := fpInfo f }

/-- FCTL.GXT (06 R140). -/
def gxt (fctl : Word) : Bool := fctl.getLsbD 13

/-- The rounding mode of an instruction: its own, or FCTL.DRM (06 R139). -/
def resolveRm (rm : Rm) (fctl : Word) : Rm :=
  match rm with
  | .dyn => (Rm.ofCode (fctl.extractLsb' 0 3)).getD .rne
  | .rne => .rne | .rtz => .rtz | .rdn => .rdn | .rup => .rup | .rmm => .rmm

end Sys2Proof.Machine
end

