-- ==== Sys2Proof/Machine/Memory.lean ====
section
/-! DEFINITION. Scalar loads and stores, window loads, the tag table and fences (16 R335, R336, R344, R348, 01 R28, 02 R60,
04 R109). -/

namespace Sys2Proof.Machine

/-- Bytes of a type. -/
def tyBytes (t : Ty) : Nat := t.width / 8

/-- The access is naturally aligned, or traps (16 R334). -/
def aligned (s : State) (a : Word) (n : Nat) (f : State → Res) : Res :=
  if a.toNat % n ≠ 0 then .trap (alignTrap a n) s else f s

/-- A scalar load into a register: xd := Ext(Mem[w], T). -/
def State.loadX (s : State) (t : Ty) (sp : Bool) (a : Word) (ar : AcqRel) (d : Reg) : Res :=
  aligned s a (tyBytes t) fun s => s.memOrder sp ar.ordered fun s =>
    s.loadAt sp .direct a (tyBytes t) ar fun bs s => s.finX d (ext t (ofBytes bs))

/-- A scalar store of the low bits of a value. -/
def State.storeX (s : State) (t : Ty) (sp : Bool) (a w : Word) (ar : AcqRel) : Res :=
  aligned s a (tyBytes t) fun s => s.memOrder sp ar.ordered fun s =>
    s.storeAt sp .direct a (toBytes (tyBytes t) w.toNat) ar fun s => s.fin

/-- `ld` (16 R335). -/
def execLd (o : MemArgs) (s : State) : Out :=
  runBoth (fun s => s.whenReady [o.m.a] [o.d] fun s => s.loadX o.t o.m.sp (s.addr o.m) o.ar o.d) s

/-- `st` (16 R335). -/
def execSt (o : MemArgs) (s : State) : Out :=
  runBoth (fun s => s.whenReady [o.m.a, o.d] [] fun s => s.storeX o.t o.m.sp (s.addr o.m) (s.x o.d) o.ar) s

/-- Fields of a window binding (01 R27). -/
def winBase (w : BitVec 128) : Word := w.extractLsb' 0 64
def winSize (w : BitVec 128) : Nat := (w.extractLsb' 64 32).toNat

/-- `ldw` (01 R28, 16 R336): bytes below the bound are read, bytes beyond it are zero and set PWB. -/
def State.loadWindow (s : State) (t : Ty) (d : Reg) (w : Idx3) (o : Word) (ar : AcqRel) : Res :=
  let win := Sparse.get 0#128 s.ctx.win w.toNat
  let n := tyBytes t
  let va := winBase win + o
  aligned s va n fun s =>
    if winSize win = 0 then .trap { cause := Cause.window, addr := o, info := BitVec.ofNat 64 w.toNat } s
    else s.memOrder false ar.ordered fun s =>
      let k := min n (winSize win - o.toNat)
      let done (bs : List Byte) (s : State) : Res :=
        let s := if k < n then s.orFlags Flag.pwb else s
        s.finX d (ext t (ofBytes bs))
      if k = 0 then done [] s
      else
        match s.xlAll (s.req .read .direct) va k with
        | (.ok ps, t) =>
          match t.badPiece ps with
          | some pa => t.consume t.isExe va (poisonInfo pa)
          | none => done (t.ctxBytes ps) (t.readPieces ar ps)
        | (.fault a _ level, t) => .trap (xlTrap (t.req .read) a 2 level 8) t
        | (.hold a _ pages, t) => .stall (.hold a pages) t

def execLdw (t : Ty) (d : Reg) (w : Idx3) (b : Reg) (off : BitVec 14) (ar : AcqRel) (s : State) : Out :=
  runBoth (fun s => s.whenReady [b] [d] fun s => s.loadWindow t d w (s.x b + imm64 off) ar) s

/-! ## The tag table (02 R59, R60) -/

/-- The slot that holds a tag. -/
def tagLookup (tags : Sparse Word) (t : Nat) : Nat :=
  match tags.find? (fun c => c.2.getLsbD 63 && decide (bits c.2.toNat 0 48 = t)) with
  | some c => c.1
  | none => 0xFFFF

/-- Clear V of a slot; the tag stays. -/
def clearV (tags : Sparse Word) (j : Nat) : Sparse Word :=
  Sparse.set 0#64 tags j (Sparse.get 0#64 tags j &&& 0xFFFFFFFFFFFF#64)

/-- TagSet. -/
def tagSet (tags : Sparse Word) (slot t : Nat) : Sparse Word :=
  let others := (tags.filter fun c => c.2.getLsbD 63 && decide (bits c.2.toNat 0 48 = t) && decide (c.1 ≠ slot)).map (·.1)
  Sparse.set 0#64 (others.foldl clearV tags) slot (BitVec.ofNat 64 (2 ^ 63 + t))

def State.setTags (s : State) (t : Sparse Word) : State := s.setCtx { s.ctx with spad := { s.ctx.spad with tags := t } }

def execTlook (d a : Reg) (s : State) : Out :=
  runBoth (fun s => s.whenReady [a] [d] fun s => s.memOrder true false fun s =>
    s.finX d (BitVec.ofNat 64 (tagLookup s.ctx.spad.tags (bits (s.x a).toNat 0 48)))) s

def execTset (slot : BitVec 12) (a : Reg) (s : State) : Out :=
  runBoth (fun s => s.whenReady [a] [] fun s => s.memOrder true false fun s =>
    (s.setTags (tagSet s.ctx.spad.tags slot.toNat (bits (s.x a).toNat 0 48))).fin) s

def execTinv (slot : BitVec 12) (s : State) : Out :=
  runBoth (fun s => s.memOrder true false fun s => (s.setTags (clearV s.ctx.spad.tags slot.toNat)).fin) s

/-! ## Fences -/

/-- `fence` (04 R109, 16 R348, 13 R288, 02 R71). Kinds: bit 0 ld→ld, 1 ld→st, 2 st→ld, 3 st→st, 4 eng. Before the later events of any
kind, what the hart has acquired or read performs at the scope, a store still held once it performs; before those of a kind with earlier stores, its own stores do; before
those of eng, its commands are complete and their writes perform. A fence at system scope waits for those of them that are on their way
to another package (R123). A kind with stores makes the strip irrevocable. -/
def State.fenceBy (s : State) (sc : Scope) (k : BitVec 5) : Res :=
  if !s.drained then .stall .other s
  else if k.getLsbD 4 && decide (s.hart = .acc) && !s.ctx.cmds.isEmpty then .stall .other s
  else
    let s := if k.getLsbD 1 || k.getLsbD 2 || k.getLsbD 3 || k.getLsbD 4 then s.irrevocable else s
    let own := k.getLsbD 2 || k.getLsbD 3
    let me : Requester := { core := s.ctx.core, bank := s.ctx.bank, hart := s.hart, cmd := none }
    if decide (sc = .sys) && s.remote.any (fun r => r.flying && r.who.contains s.party && (own || decide (r.by_ ≠ me))) then .stall .other s
    else
    let s := s.raiseHeld (fun h => h.who.contains (if s.ctx.stripKey h = s.party then ownRead else s.party)) sc
    let s := s.raise (fun w => (w.who.contains s.party && (own || decide (w.own ≠ s.party) || w.who.contains ownRead)) ||
      (k.getLsbD 4 && decide (w.own = s.ctx.engKey))) sc
    let s := if k.getLsbD 0 || k.getLsbD 2 then s.setHs { s.hs with ibuf := [] } else s
    s.fin

def execFence (sc : Scope) (kinds : BitVec 5) (s : State) : Out := runBoth (fun s => s.fenceBy sc kinds) s

end Sys2Proof.Machine
end

