-- ==== Sys2Proof/Machine/Operands.lean ====
section
/-! DEFINITION. Integer arithmetic on w-bit values (14 R291 to R295), shared by the scalar instructions, the P-form slots, lane
blocks, vector elements and atomics. -/

namespace Sys2Proof.Machine

/-- The members of the integer family (14 R291). -/
inductive IOp
  | add | sub | mul | mulh | mulhn | div | divn | rem | remn | and | or | xor | andn | shl | shr | sra | rot
  | min | max | minn | maxn
  deriving DecidableEq, Repr

/-- The members of one source (14 R293). -/
inductive IUn
  | clz | ctz | pop | bswap
  deriving DecidableEq, Repr

/-- F of 14 R291 on w-bit values, the result taken modulo 2^w. Division covers every case (R292). -/
def intF (op : IOp) (w a b : Nat) : Nat :=
  let sa := toSigned w a
  let sb := toSigned w b
  let m := 2 ^ w
  let sh := b % w
  match op with
  | .add => (a + b) % m
  | .sub => (a + (m - b % m)) % m
  | .mul => a * b % m
  | .mulh => ofSigned w (sa * sb / (2 : Int) ^ w)
  | .mulhn => a * b / m % m
  | .div => if b = 0 then m - 1 else ofSigned w (Int.tdiv sa sb)
  | .divn => if b = 0 then m - 1 else a / b
  | .rem => if b = 0 then a else ofSigned w (Int.tmod sa sb)
  | .remn => if b = 0 then a else a % b
  | .and => Nat.land a b
  | .or => Nat.lor a b
  | .xor => Nat.xor a b
  | .andn => Nat.land a (m - 1 - b)
  | .shl => a * 2 ^ sh % m
  | .shr => a / 2 ^ sh
  | .sra => ofSigned w (sa / (2 : Int) ^ sh)
  | .rot => (a * 2 ^ sh + a / 2 ^ (w - sh)) % m
  | .min => if sa ≤ sb then a else b
  | .max => if sa ≤ sb then b else a
  | .minn => if a ≤ b then a else b
  | .maxn => if a ≤ b then b else a

/-- The number of one bits below bit `w`. -/
def popCount (w a : Nat) : Nat := ((List.range w).filter (fun i => a.testBit i)).length

/-- F of 14 R293 on w-bit values. -/
def intU (op : IUn) (w a : Nat) : Nat :=
  match op with
  | .clz => if a = 0 then w else w - 1 - a.log2
  | .ctz => ((List.range w).find? (fun i => a.testBit i)).getD w
  | .pop => popCount w a
  | .bswap => ofBytes (toBytes (w / 8) a).reverse

/-- A comparison of two integers. -/
def ordHolds (cc : Icc) (a b : Int) : Bool :=
  match cc with
  | .eq => decide (a = b) | .ne => decide (a ≠ b)
  | .lt | .ltn => decide (a < b) | .ge | .gen => decide (b ≤ a)
  | .le | .len => decide (a ≤ b) | .gt | .gtn => decide (b < a)

/-- The value of a w-bit operand as a type reads it (14 R294). -/
def valueOf (t : Ty) (a : Nat) : Int := if t.isSigned then toSigned t.width a else (a % 2 ^ t.width : Nat)

/-- `cmp` and `vcmp` (14 R294, 15 R318). -/
def cmpHolds (cc : Icc) (t : Ty) (a b : Nat) : Bool := ordHolds cc (valueOf t a) (valueOf t b)

/-- The condition of `bcc`: codes 2–5 read as signed, 6–9 as unsigned (14 R304). -/
def bccHolds (cc : Icc) (a b : Word) : Bool :=
  match cc with
  | .ltn | .gen | .len | .gtn => ordHolds cc a.toNat b.toNat
  | .eq | .ne | .lt | .ge | .le | .gt => ordHolds cc a.toInt b.toInt

/-- 1 or 0. -/
def flagWord (b : Bool) : Word := if b then 1#64 else 0#64

/-- The result of an integer instruction (14 R289, R291). -/
def intResult (op : IOp) (t : Ty) (a b : Word) : Word := ext t (intF op t.width (low t a) (low t b))
def unResult (op : IUn) (t : Ty) (a : Word) : Word := ext t (intU op t.width (low t a))

end Sys2Proof.Machine
end

