-- ==== Sys2Proof/Machine/Num.lean ====
section
/-! DEFINITION. Floating-point arithmetic (06 R135 to R139, R143, R144): formats, exact values, one rounding at the end, and the
flags it raises. -/

namespace Sys2Proof.Machine

/-- How a format encodes what is not finite (06 R136). -/
inductive FKind
  | ieee | e4m3 | e2m1
  deriving DecidableEq, Repr

/-- Exponent width, fraction width, bias and kind of a format (06 R135). -/
structure FFmt where
  ew : Nat
  mw : Nat
  bias : Nat
  kind : FKind
  deriving DecidableEq, Repr

def ffmt : Ty → FFmt
  | .f64 => ⟨11, 52, 1023, .ieee⟩
  | .bf16 => ⟨8, 7, 127, .ieee⟩
  | .f16 => ⟨5, 10, 15, .ieee⟩
  | .e5m2 => ⟨5, 2, 15, .ieee⟩
  | .e4m3 => ⟨4, 3, 7, .e4m3⟩
  | .fp4 => ⟨2, 1, 1, .e2m1⟩
  | .f32 | .i8 | .i16 | .i32 | .i64 | .n8 | .n16 | .n32 | .n64 | .bp2 | .bp3 | .bp4 | .bp5 | .bp6 | .bp7 | .bp8 =>
    ⟨8, 23, 127, .ieee⟩

/-- A value: NaN, signalling or quiet; an infinity; or (−1)^neg × m × 2^e. -/
inductive Num
  | nan (sig : Bool) | inf (neg : Bool) | fin (neg : Bool) (m : Nat) (e : Int)
  deriving DecidableEq, Repr

/-- Width of a format. -/
def FFmt.width (f : FFmt) : Nat := 1 + f.ew + f.mw

/-- The exponent of the smallest subnormal. -/
def FFmt.qmin (f : FFmt) : Int := 1 - (f.bias : Int) - (f.mw : Int)

/-- The code of the largest finite magnitude. -/
def FFmt.maxCode (f : FFmt) : Nat :=
  match f.kind with
  | .ieee => (2 ^ f.ew - 1) * 2 ^ f.mw - 1
  | .e4m3 => 0x7E
  | .e2m1 => 7

/-- The value that bits encode. -/
def FFmt.decode (f : FFmt) (n : Nat) : Num :=
  let neg := n.testBit (f.ew + f.mw)
  let ex := bits n f.mw f.ew
  let fr := n % 2 ^ f.mw
  let special := match f.kind with
    | .ieee => decide (ex = 2 ^ f.ew - 1)
    | .e4m3 => decide (n % 128 = 127)
    | .e2m1 => false
  if special then
    match f.kind with
    | .ieee => if fr = 0 then .inf neg else .nan (!fr.testBit (f.mw - 1))
    | .e4m3 | .e2m1 => .nan false
  else if ex = 0 then .fin neg fr f.qmin
  else .fin neg (2 ^ f.mw + fr) (f.qmin + (ex : Int) - 1)

/-- Put the sign on a code. -/
def FFmt.sign (f : FFmt) (neg : Bool) (code : Nat) : Nat := if neg then 2 ^ (f.ew + f.mw) + code else code

/-- The canonical NaN (06 R137); E2M1 has none and delivers +0 (R143). -/
def FFmt.qnan (f : FFmt) : Nat :=
  match f.kind with
  | .ieee => (2 ^ f.ew - 1) * 2 ^ f.mw + 2 ^ (f.mw - 1)
  | .e4m3 => 0x7F
  | .e2m1 => 0

/-- A result and its flags. -/
abbrev FRes := Nat × BitVec 8

/-- Deliver a NaN, NV when the operation says so (06 R137, R143). -/
def FFmt.giveNan (f : FFmt) (nv : Bool) : FRes :=
  (f.qnan, match f.kind with
    | .e2m1 => Flag.nv
    | .ieee | .e4m3 => nvIf nv)

/-- Deliver an exact infinity: the Infinite input column of 06 R143. -/
def FFmt.giveInf (f : FFmt) (sat neg : Bool) : FRes :=
  match f.kind with
  | .ieee =>
    if sat then (f.sign neg f.maxCode, Flag.sat) else (f.sign neg ((2 ^ f.ew - 1) * 2 ^ f.mw), 0#8)
  | .e4m3 => if sat then (f.sign neg f.maxCode, Flag.sat) else (f.sign neg 0x7F, 0#8)
  | .e2m1 => (f.sign neg f.maxCode, Flag.sat ||| Flag.nv)

/-- The mode takes an overflow to infinity (06 R143). -/
def toInfinity (rm : Rm) (neg : Bool) : Bool :=
  match rm with
  | .rne | .rmm | .dyn => true
  | .rtz => false
  | .rdn => neg
  | .rup => !neg

/-- Finite overflow (06 R143). -/
def FFmt.giveOverflow (f : FFmt) (rm : Rm) (sat neg : Bool) : FRes :=
  let fl := Flag.of ||| Flag.nx
  match f.kind with
  | .ieee =>
    if sat then (f.sign neg f.maxCode, fl ||| Flag.sat)
    else if toInfinity rm neg then (f.sign neg ((2 ^ f.ew - 1) * 2 ^ f.mw), fl)
    else (f.sign neg f.maxCode, fl)
  | .e4m3 =>
    if sat then (f.sign neg f.maxCode, fl ||| Flag.sat)
    else if toInfinity rm neg then (f.sign neg 0x7F, fl)
    else (f.sign neg f.maxCode, fl)
  | .e2m1 => (f.sign neg f.maxCode, fl ||| Flag.sat)

/-- A magnitude m × 2^e, or with `sticky` a value strictly between it and (m + 1) × 2^e, as a whole number of 2^q, rounded, and
whether it was inexact (06 R139). With `sticky`, q lies at least two above e. -/
def roundAt (rm : Rm) (neg : Bool) (m : Nat) (e : Int) (sticky : Bool) (q : Int) : Nat × Bool :=
  if q ≤ e then (m * 2 ^ (e - q).toNat, sticky)
  else
    let sh := (q - e).toNat
    let n := m / 2 ^ sh
    let rem := m % 2 ^ sh
    let half := 2 ^ (sh - 1)
    let inexact := decide (rem ≠ 0) || sticky
    let above := decide (half < rem) || (decide (rem = half) && sticky)
    let tie := decide (rem = half) && !sticky
    let up := match rm with
      | .rne | .dyn => above || (tie && n % 2 == 1)
      | .rtz => false
      | .rdn => neg && inexact
      | .rup => !neg && inexact
      | .rmm => above || tie
    (if up then n + 1 else n, inexact)

/-- Round a nonzero magnitude to a format, with flags; tininess is detected after rounding (06 R138, R139, R143). -/
def FFmt.round (f : FFmt) (rm : Rm) (sat neg : Bool) (m : Nat) (e : Int) (sticky : Bool) : FRes :=
  if m = 0 ∧ !sticky then (f.sign neg 0, 0#8)
  else
    let top := (m.log2 : Int) + e
    let qu := top - f.mw
    let q := max qu f.qmin
    let (n, inexact) := roundAt rm neg m e sticky q
    let code := (q - f.qmin).toNat * 2 ^ f.mw + n
    if f.maxCode < code then f.giveOverflow rm sat neg
    else
      let tiny := decide (qu + 2 ≤ f.qmin) ||
        (decide (qu + 1 = f.qmin) && decide ((roundAt rm neg m e sticky qu).1 < 2 ^ (f.mw + 1)))
      (f.sign neg code, (if inexact then Flag.nx else 0#8) ||| (if tiny && inexact then Flag.uf else 0#8))

/-- Deliver an exact value. -/
def FFmt.give (f : FFmt) (rm : Rm) (sat : Bool) (x : Num) : FRes :=
  match x with
  | .nan sig => f.giveNan sig
  | .inf neg => f.giveInf sat neg
  | .fin neg m e => f.round rm sat neg m e false

/-! ## Exact operations -/

def Num.isNan : Num → Bool
  | .nan _ => true
  | .inf _ | .fin _ _ _ => false
def Num.isSig : Num → Bool
  | .nan s => s
  | .inf _ | .fin _ _ _ => false
def Num.isZero : Num → Bool
  | .fin _ m _ => decide (m = 0)
  | .nan _ | .inf _ => false
def Num.isInf : Num → Bool
  | .inf _ => true
  | .nan _ | .fin _ _ _ => false
def Num.neg : Num → Num
  | .nan s => .nan s
  | .inf n => .inf (!n)
  | .fin n m e => .fin (!n) m e
def Num.isNeg : Num → Bool
  | .nan _ => false
  | .inf n => n
  | .fin n _ _ => n

/-- The signed integer count of 2^q that a finite value is; q is at most its exponent. -/
def finInt (neg : Bool) (m : Nat) (e q : Int) : Int :=
  let k : Int := (m * 2 ^ (e - q).toNat : Nat)
  if neg then -k else k

/-- A finite value from a signed count; `zneg` is the sign of an exact zero. -/
def ofInt (i : Int) (q : Int) (zneg : Bool) : Num := .fin (if i = 0 then zneg else decide (i < 0)) i.natAbs q

/-- An exact sum, and whether it is invalid (06 R139 for the sign of zero). -/
def Num.add (rm : Rm) : Num → Num → Num × Bool
  | .nan s, y => (.nan false, s || y.isSig)
  | x, .nan s => (.nan false, s || x.isSig)
  | .inf a, .inf b => if a = b then (.inf a, false) else (.nan false, true)
  | .inf a, .fin _ _ _ => (.inf a, false)
  | .fin _ _ _, .inf b => (.inf b, false)
  | .fin a m e, .fin b n d =>
    let q := min e d
    let zneg := if m = 0 ∧ n = 0 ∧ a = b then a else decide (rm = .rdn)
    (ofInt (finInt a m e q + finInt b n d q) q zneg, false)

/-- An exact product, and whether it is invalid. -/
def Num.mul : Num → Num → Num × Bool
  | .nan s, y => (.nan false, s || y.isSig)
  | x, .nan s => (.nan false, s || x.isSig)
  | .inf a, y => if y.isZero then (.nan false, true) else (.inf (a != y.isNeg), false)
  | x, .inf b => if x.isZero then (.nan false, true) else (.inf (x.isNeg != b), false)
  | .fin a m e, .fin b n d => (.fin (a != b) (m * n) (e + d), false)

/-- Deliver an exact value that an operation formed, NV when it was invalid. -/
def FFmt.finish (f : FFmt) (rm : Rm) (sat : Bool) (r : Num × Bool) : FRes :=
  let (x, fl) := f.give rm sat r.1
  (x, fl ||| nvIf r.2)

def FFmt.add (f : FFmt) (rm : Rm) (sat : Bool) (a b : Nat) : FRes := f.finish rm sat ((f.decode a).add rm (f.decode b))
def FFmt.sub (f : FFmt) (rm : Rm) (sat : Bool) (a b : Nat) : FRes := f.finish rm sat ((f.decode a).add rm (f.decode b).neg)
def FFmt.mul (f : FFmt) (rm : Rm) (sat : Bool) (a b : Nat) : FRes := f.finish rm sat ((f.decode a).mul (f.decode b))

/-- a × b + c rounded once; ∞ × 0 is invalid whatever c holds (14 R297). -/
def FFmt.fma (f : FFmt) (rm : Rm) (sat : Bool) (a b c : Nat) : FRes :=
  let (p, inv) := (f.decode a).mul (f.decode b)
  let (r, inv') := p.add rm (f.decode c)
  f.finish rm sat (r, inv || inv')

/-- Division (14 R297). -/
def FFmt.div (f : FFmt) (rm : Rm) (sat : Bool) (a b : Nat) : FRes :=
  match f.decode a, f.decode b with
  | .nan s, y => f.giveNan (s || y.isSig)
  | x, .nan s => f.giveNan (s || x.isSig)
  | .inf _, .inf _ => f.giveNan true
  | .inf n, .fin m _ _ => f.giveInf sat (n != m)
  | .fin n _ _, .inf m => (f.sign (n != m) 0, 0#8)
  | .fin n m e, .fin k d g =>
    if d = 0 then
      if m = 0 then f.giveNan true
      else
        let (x, fl) := f.giveInf sat (n != k)
        (x, fl ||| Flag.dz)
    else
      let sh := 70 + d.log2
      let num := m * 2 ^ sh
      f.round rm sat (n != k) (num / d) (e - g - sh) (decide (num % d ≠ 0))

/-- Square root (14 R297). -/
def FFmt.sqrt (f : FFmt) (rm : Rm) (sat : Bool) (a : Nat) : FRes :=
  match f.decode a with
  | .nan s => f.giveNan s
  | .inf n => if n then f.giveNan true else f.giveInf sat false
  | .fin n m e =>
    if m = 0 then (f.sign n 0, 0#8)
    else if n then f.giveNan true
    else
      let odd := e % 2 ≠ 0
      let m' := (if odd then 2 * m else m) * 2 ^ 140
      let e' := (if odd then e - 1 else e) - 140
      let r := isqrt m'
      f.round rm sat false r (e' / 2) (decide (r * r ≠ m'))

/-- Reciprocal square root (15 R321). -/
def FFmt.rsqrt (f : FFmt) (rm : Rm) (sat : Bool) (a : Nat) : FRes :=
  match f.decode a with
  | .nan s => f.giveNan s
  | .inf n => if n then f.giveNan true else (0, 0#8)
  | .fin n m e =>
    if m = 0 then
      let (x, fl) := f.giveInf sat n
      (x, fl ||| Flag.dz)
    else if n then f.giveNan true
    else
      let odd := e % 2 ≠ 0
      let m' := if odd then 2 * m else m
      let e' := if odd then e - 1 else e
      let k := 80 + m'.log2
      let r := isqrt (2 ^ (2 * k) / m')
      f.round rm sat false r (-(e' / 2) - k) (decide (r * r * m' ≠ 2 ^ (2 * k)))

/-! ## Comparison, minimum and maximum (14 R299, R300) -/

/-- The order of two values that are not NaN; −0 and +0 are equal. -/
def Num.cmp : Num → Num → Ordering
  | .inf a, .inf b => if a = b then .eq else if a then .lt else .gt
  | .inf a, _ => if a then .lt else .gt
  | _, .inf b => if b then .gt else .lt
  | .fin a m e, .fin b n d =>
    let q := min e d
    compare (finInt a m e q) (finInt b n d q)
  | .nan _, _ => .eq
  | _, .nan _ => .eq

def Num.lt (a b : Num) : Bool := !a.isNan && !b.isNan && a.cmp b == .lt
def Num.le (a b : Num) : Bool := !a.isNan && !b.isNan && a.cmp b != .gt

/-- −0 is less than +0 here. -/
def Num.below (a b : Num) : Bool :=
  match a.cmp b with
  | .lt => true
  | .gt => false
  | .eq => a.isNeg && !b.isNeg

/-- `fmin` and `fmax`; `hi` takes the greater. DESIGN CHOICE: SAT has no effect: an infinite result of .e5m2 is an operand value and stays
(14 R299), though 14 R297 and 06 R143 saturate every infinite result under SAT (notes/assumptions 87). -/
def FFmt.minmax (f : FFmt) (hi : Bool) (a b : Nat) : FRes :=
  let x := f.decode a
  let y := f.decode b
  let fl := nvIf (x.isSig || y.isSig)
  match x.isNan, y.isNan with
  | true, true => (f.qnan, fl)
  | true, false => (b, fl)
  | false, true => (a, fl)
  | false, false => (if (x.below y) != hi then a else b, fl)

/-- `fcmp`: the relation, and NV. -/
def FFmt.compare (f : FFmt) (cc : Fcc) (a b : Nat) : Bool × BitVec 8 :=
  let x := f.decode a
  let y := f.decode b
  let un := x.isNan || y.isNan
  let sig := nvIf (x.isSig || y.isSig)
  let o := x.cmp y
  match cc with
  | .eq => (!un && o == .eq, sig)
  | .ne => (un || o != .eq, sig)
  | .lt => (!un && o == .lt, nvIf un)
  | .ge => (!un && o != .lt, nvIf un)
  | .le => (!un && o != .gt, nvIf un)
  | .gt => (!un && o == .gt, nvIf un)
  | .un => (un, sig)
  | .or => (!un, sig)

/-- `fcls` (14 R302): the number of the bit. -/
def FFmt.cls (f : FFmt) (a : Nat) : Nat :=
  match f.decode a with
  | .nan s => if s then 8 else 9
  | .inf n => if n then 0 else 7
  | .fin n m _ =>
    if m = 0 then (if n then 3 else 4)
    else if m < 2 ^ f.mw then (if n then 2 else 5)
    else (if n then 1 else 6)

/-! ## Conversions (06 R143, R144, 14 R301) -/

/-- The smallest and largest value of an integer type. -/
def tyMin (t : Ty) : Int := if t.isSigned then -(2 : Int) ^ (t.width - 1) else 0
def tyMax (t : Ty) : Int := if t.isSigned then (2 : Int) ^ (t.width - 1) - 1 else (2 : Int) ^ t.width - 1

/-- Float to integer. -/
def toIntTy (t : Ty) (rm : Rm) (x : Num) : FRes :=
  match x with
  | .nan _ => (0, Flag.nv)
  | .inf n => (ofSigned t.width (if n then tyMin t else tyMax t), Flag.nv)
  | .fin n m e =>
    let (k, inexact) := roundAt rm n m e false (max e 0)
    let (k, inexact) := if e < 0 then roundAt rm n m e false 0 else (k * 2 ^ e.toNat, inexact)
    let v : Int := if n then -(k : Int) else k
    if v < tyMin t then (ofSigned t.width (tyMin t), Flag.nv)
    else if tyMax t < v then (ofSigned t.width (tyMax t), Flag.nv)
    else (ofSigned t.width v, if inexact then Flag.nx else 0#8)

/-- `fcvt`: convert the low bits of a value from type `s` to type `d`. -/
def convert (d s : Ty) (rm : Rm) (sat : Bool) (a : Nat) : FRes :=
  if s.isInt then
    let v := valueOf s a
    (ffmt d).round rm sat (decide (v < 0)) v.natAbs 0 false
  else if d.isInt then toIntTy d rm ((ffmt s).decode a)
  else (ffmt d).give rm sat ((ffmt s).decode a)

/-- `fsgn` (14 R303): copy the low bits of `a` and form the sign bit. -/
def FFmt.fsgn (f : FFmt) (op : SgnOp) (a b : Nat) : Nat :=
  let k := f.ew + f.mw
  let sa := a.testBit k
  let sb := b.testBit k
  f.sign (match op with
    | .inj => sb
    | .injn => !sb
    | .injx => sa != sb) (a % 2 ^ k)

end Sys2Proof.Machine
end

