-- ==== Sys2Proof/Machine/Atomic.lean ====
section
/-! DEFINITION. Scalar atomics (16 R345, R346, 04 R110). -/

namespace Sys2Proof.Machine

/-- Op(old, b) of an atomic on values of a type, and its flags (13 R278, 16 R341, R345). -/
def amoValue (op : AmoOp) (t : Ty) (rm : Rm) (old b : Nat) : FRes :=
  if t.isInt then
    (match op with
     | .swap => b
     | .add => (old + b) % 2 ^ t.width
     | .and => Nat.land old b
     | .or => Nat.lor old b
     | .xor => Nat.xor old b
     | .min => if valueOf t old ≤ valueOf t b then old else b
     | .max => if valueOf t old ≤ valueOf t b then b else old, 0#8)
  else
    match op with
    | .add => (ffmt t).add rm false old b
    | .min => (ffmt t).minmax false old b
    | .max => (ffmt t).minmax true old b
    | .swap | .and | .or | .xor => (b, 0#8)

/-- `amo` after its registers are ready. A flag that FCTL enables traps and nothing changes. -/
def State.amoX (s : State) (op : AmoOp) (o : AmoArgs) : Res :=
  let a := s.addr o.m
  let n := tyBytes o.t
  let b := low o.t (s.x o.b)
  aligned s a n fun s => s.memOrder o.m.sp o.ar.ordered fun s =>
    s.atomicAt false o.m.sp a n o.ar
      (fun old s =>
        let (v, fl) := amoValue op o.t (resolveRm o.rm s.ctx.sr.fctl) old b
        if trapping s.ctx.sr.fctl fl then .error (fpTrap fl) else .ok (some v, s.orFlags fl))
      (fun old s => s.finX o.d (ext o.t old))

/-- `amo`. A float type runs only on the execute hart. -/
def execAmo (op : AmoOp) (o : AmoArgs) (s : State) : Out :=
  runBoth (fun s =>
    if !o.t.isInt && decide (s.hart = .acc) then .trap (illegalTrap (.amo op o)) s
    else s.whenReady [o.m.a, o.b] [o.d] fun s => s.amoX op o) s

/-- `cas`. -/
def execCas (o : AmoArgs) (s : State) : Out :=
  runBoth (fun s => s.whenReady [o.m.a, o.b, o.d] [o.d] fun s =>
    let a := s.addr o.m
    let n := tyBytes o.t
    let want := low o.t (s.x o.d)
    let new := low o.t (s.x o.b)
    aligned s a n fun s => s.memOrder o.m.sp o.ar.ordered fun s =>
      s.atomicAt false o.m.sp a n o.ar (fun old s => .ok (if old = want then some new else none, s))
        (fun old s => s.finX o.d (ext o.t old))) s

end Sys2Proof.Machine
end

