-- ==== Sys2Proof/Machine/Barrier.lean ====
section
/-! DEFINITION. Barrier objects and `bari`, `bara`, `barw` (16 R349 to R353). -/

namespace Sys2Proof.Machine

/-! ## The object (16 R349, R350) -/

/-- Fields of the low word of an object. -/
def objPhase (w : Nat) : Nat := bits w 0 4
def objExp (w : Nat) : Nat := bits w 4 12
def objArr (w : Nat) : Nat := bits w 16 12

/-- The core and offset that a barrier address names. -/
def barCore (core : Nat) (a : Word) : Nat := 8 * (core / 8) + bits a.toNat 22 3
def barOff (a : Word) : Nat := bits a.toNat 0 22

/-- The context of the issuing launch on a core. -/
def State.peer (s : State) (core : Nat) : Option Context :=
  s.contexts.find? fun c => decide (c.core = core) && decide (c.launch = s.ctx.launch) && c.held

/-- Change the issuing launch's context on a core. -/
def State.mapPeer (s : State) (core : Nat) (f : Context → Context) : State :=
  s.mapCtx (fun c => decide (c.core = core) && decide (c.launch = s.ctx.launch) && c.held) f

/-- A word of the object at an offset, and its replacement by a party, with the releases that the write carries. -/
def Context.objWord (c : Context) (off : Nat) : Nat := ofBytes (c.spad.read c.sr.spz off 8)
def Context.putWord (c : Context) (key off w : Nat) (sync : List Sync) : Context := c.putSpad key (swizzle c.sr.spz off) (toBytes 8 w) sync

/-- The object's low word as a hart loads it: a store that its own strip holds is visible to it (02 R70, 04 R103). -/
def State.loadObj (s : State) (c : Context) (off : Nat) : Nat :=
  if c.isAt s.ctx.core s.ctx.bank then ofBytes ((spadPlaces c.sr.spz off 8).map s.spadByte) else c.objWord off

/-- Some byte of the object that the hart reads is poisoned. -/
def State.objBad (s : State) (c : Context) (off : Nat) : Bool :=
  if c.isAt s.ctx.core s.ctx.bank then s.badPlaces (spadPlaces c.sr.spz off 16) else c.spad.bad c.sr.spz off 16

/-- The releases that the object's low word carries. -/
def State.objSyncs (s : State) (core off : Nat) : List Sync := ((s.peer core).map fun c => c.spadSyncs (spadPlaces c.sr.spz off 8)).getD []

/-- The party reads the object and acquires at cluster scope: the stores that it reads, and the releases that they carry (16 R353, 04
R108). -/
def State.acquireObj (s : State) (core off : Nat) : State :=
  match s.peer core with
  | none => s
  | some c =>
    let places := spadPlaces c.sr.spz off 8
    if c.isAt s.ctx.core s.ctx.bank then s.seePlaces (some .cluster) places
    else
      ((s.mapPeer core fun c => c.spadSeen s.party places).seeBlocks s.party (c.spadBlocks places)).acquireSyncs s.ctx.core s.party .cluster (c.spadSyncs places)

/-- The trap of a barrier address that no scratchpad serves. -/
def barTrap (s : State) (k : Acc) (a : Word) (reason : Nat) : Trap :=
  { cause := xlCause k, addr := a, info := xlInfo s.ctx.asid 1 false false 7 reason }

/-- Reach the object of a barrier address: ALIGN, the reserved field, the context, its poison, then go on with its core and offset. DESIGN
CHOICE: a `bara` consumes poison before it makes the strip irrevocable (11 R251 and 02 R71 give no order; notes/assumptions 54). -/
def State.reachObj (s : State) (k : Acc) (a : Word) (f : Nat → Nat → Context → State → Res) : Res :=
  if barOff a % 16 ≠ 0 then .trap (alignTrap a 16) s
  else if bits a.toNat 25 39 ≠ 0 then .trap (barTrap s k a 9) s
  else s.memOrder true true fun s =>
    let core := barCore s.ctx.core a
    match s.peer core with
    | none => .trap (barTrap s k a 6) s
    | some c =>
      if c.place ≠ .active then .stall .other s
      else if k ≠ .write ∧ s.objBad c (barOff a) then s.consume s.isExe a (checkInfo 0 3)
      else f core (barOff a) c s

/-! ## The instructions -/

/-- `bari` (16 R351). -/
def execBari (a : Reg) (exp : BitVec 12) (s : State) : Out :=
  runBoth (fun s => s.whenReady [a] [] fun s => s.reachObj .write (s.x a) fun core off _ s =>
    let (sync, s) := (s.releaseBy .cluster).syncs s.ctx.core s.party .cluster
    (s.mapPeer core fun c => (c.putWord s.party off (16 * exp.toNat) sync).putWord s.party (off + 8) 0 sync).fin) s

/-- `bara` (16 R352). What the old value's store carried, the write carries on (04 R108). -/
def execBara (d a : Reg) (n : BitVec 5) (s : State) : Out :=
  runBoth (fun s => s.whenReady [a] [d] fun s => s.reachObj .rmw (s.x a) fun core off _ s =>
    let s := s.irrevocable
    let chain := s.objSyncs core off
    let s := s.acquireObj core off
    let (sync, s) := (s.release s.party .cluster).syncs s.ctx.core s.party .cluster
    let put (off w : Nat) (s : State) : State := s.mapPeer core fun c => c.putWord s.party off w (sync ++ chain)
    let w := ((s.peer core).map (·.objWord off)).getD 0
    if objExp w < objArr w + n.toNat then
      let info := BitVec.ofNat 64 (n.toNat * 2 ^ 32 + bits w 0 29)
      .trap { cause := Cause.barover, addr := s.x a, info := info } (put off (setBits w 28 1 1) s)
    else
      let arr := objArr w + n.toNat
      let t := if arr = objExp w then put (off + 8) 0 (put off (setBits (setBits w 16 12 0) 0 4 (objPhase w + 1)) s)
        else put off (setBits w 16 12 arr) s
      t.finX d (BitVec.ofNat 64 (objPhase w))) s

/-- Set or clear the WAIT bit of the hart in focus. -/
def State.setWaitBit (s : State) (core off : Nat) (b : Bool) : State :=
  s.mapWaitWord core off fun n => setBits n (waitBit s.ctx.core s.ctx.bank s.hart) 1 (if b then 1 else 0)

/-- The destination of a `barw` may not be written now (08 R181, 04 R114). -/
def State.barBusy (s : State) : BarDst → Bool
  | .x d => s.ctx.wrBusy s.hart d
  | .p d => s.ctx.predBusy d

/-- The result of a `barw` and its end. One that passes acquires the object's value, and so every arrival of its chain (16 R353). -/
def State.finBarw (s : State) (core off : Nat) (dst : BarDst) (passed : Bool) : State :=
  let s := s.setWaitBit core off false
  let s := if passed then s.acquireObj core off else s
  let s := match dst with
    | .x d => s.setX d (flagWord passed)
    | .p d => s.setCtx { s.ctx with v := s.ctx.v.setPred d (if passed then BitVec.allOnes 512 else 0#512) }
  (s.setWait .none).advance
where
  flagWord (b : Bool) : Word := if b then 1#64 else 0#64

/-- `barw` (16 R353): one test now, then the hart waits. -/
def execBarw (dst : BarDst) (a b : Reg) (ph : BitVec 4) (s : State) : Out :=
  runBoth (fun s => s.whenReady [a, b] [] fun s =>
    if s.barBusy dst then .stall .other s
    else s.reachObj .read (s.x a) fun core off c s =>
      let passed := decide (objPhase (s.loadObj c off) ≠ ph.toNat)
      if passed || decide (s.x b = 0#64) then .ok (s.finBarw core off dst passed)
      else .stall (.barw core off dst ph) (s.setWaitBit core off true)) s

/-- A waiting `barw` reads its object again, once its destination may be written, and goes on with it by `f`. It traps where no context
of its launch stands there any longer, waits for one that is not active, and consumes a poisoned object (16 R350, 11 R255). -/
def State.rereadObj (s : State) (core off : Nat) (dst : BarDst) (f : Context → Out) : Out :=
  if s.ctx.place ≠ .active ∨ s.barBusy dst = true then .next s
  else
    let a : Word := BitVec.ofNat 64 (core % 8 * 2 ^ 22 + off)
    let t := s.interrupt s.hart
    match s.peer core with
    | none => conclude t (.trap (barTrap t .read a 6) t)
    | some c =>
      if c.place ≠ .active then .next s
      else if s.objBad c off then conclude t (t.consume t.isExe a (checkInfo 0 3))
      else f c

/-- BARW_RECHECK: a waiting `barw` reads its object again. -/
def execBarwRecheck (s : State) : Out :=
  match s.hs.wait, s.hs.run with
  | .barw core off dst ph, .running =>
    s.rereadObj core off dst fun c =>
      if objPhase (s.loadObj c off) ≠ ph.toNat then .next (s.finBarw core off dst true) else .next s
  | _, _ => .next s

/-- BARW_EXPIRY: the bound of a waiting `barw` has passed. -/
def execBarwExpiry (s : State) : Out :=
  match s.hs.wait, s.hs.run with
  | .barw core off dst ph, .running =>
    s.rereadObj core off dst fun c => .next (s.finBarw core off dst (decide (objPhase (s.loadObj c off) ≠ ph.toNat)))
  | _, _ => .next s

end Sys2Proof.Machine
end

