-- ==== Sys2Proof/Machine/Control.lean ====
section
/-! DEFINITION. Branches and calls (14 R304, 13 R286, R287). -/

namespace Sys2Proof.Machine

/-- The target of a word displacement: PC + 8 × d (13 R286). -/
def State.target (s : State) (d : Word) : Word := s.pc + 8#64 * d

/-- Branch when the condition holds. -/
def State.branchIf (s : State) (c : Bool) (d : Word) : Res := .ok (if c then s.setPc (s.target d) else s.advance)

/-- Jump to a register's value; `link` writes x31. A misaligned target traps before (13 R287). -/
def State.jump (s : State) (t : Word) (link : Bool) : Res :=
  if t.toNat % 8 ≠ 0 then .trap (alignTrap t 8) s
  else
    let s' := if link then s.setX 31#5 (s.pc + 8#64) else s
    .ok (s'.setPc t)

def execB (i : BitVec 48) (s : State) : Out := runBoth (fun s => s.branchIf true (i.signExtend 64)) s
def execBcc (cc : Icc) (a b : Reg) (i : BitVec 14) (s : State) : Out :=
  runBoth (fun s => s.whenReady [a, b] [] fun s => s.branchIf (bccHolds cc (s.x a) (s.x b)) (imm64 i)) s
def execCall (i : BitVec 48) (s : State) : Out :=
  runBoth (fun s => s.whenReady [] [31#5] fun s =>
    let t := s.target (i.signExtend 64)
    .ok ((s.setX 31#5 (s.pc + 8#64)).setPc t)) s
def execRet (s : State) : Out := runBoth (fun s => s.whenReady [31#5] [] fun s => s.jump (s.x 31#5) false) s
def execJr (a : Reg) (s : State) : Out := runBoth (fun s => s.whenReady [a] [] fun s => s.jump (s.x a) false) s
def execJcall (a : Reg) (s : State) : Out := runBoth (fun s => s.whenReady [a] [31#5] fun s => s.jump (s.x a) true) s
def execBz (a : Reg) (i : BitVec 14) (s : State) : Out :=
  runBoth (fun s => s.whenReady [a] [] fun s => s.branchIf (decide (s.x a = 0#64)) (imm64 i)) s
def execBnz (a : Reg) (i : BitVec 14) (s : State) : Out :=
  runBoth (fun s => s.whenReady [a] [] fun s => s.branchIf (decide (s.x a ≠ 0#64)) (imm64 i)) s

/-- `nop` (14 R308). -/
def execNop (s : State) : Out := runBoth State.fin s

end Sys2Proof.Machine
end

