-- ==== Sys2Proof/Machine/Leave.lean ====
section
/-! DEFINITION. Leave of the power arbiters (10 R221 to R223, 18 R408). -/

namespace Sys2Proof.Machine

/-- PWRUSE, PWRBUD and PWRTO of a die (10 R223). -/
def State.pwruse (s : State) (die : Nat) : Nat := bits (Sparse.get 0#64 s.dev.pwruse die).toNat 0 16
def State.pwrbud (s : State) (die : Nat) : Nat := bits (Sparse.get 1688#64 s.dev.pwrbud die).toNat 0 16
def State.pwrto (s : State) (die : Nat) : Nat := bits (Sparse.get 1800000#64 s.dev.pwrto die).toNat 0 32
def State.setUse (s : State) (die n : Nat) : State :=
  { s with dev := { s.dev with pwruse := Sparse.set 0#64 s.dev.pwruse die (BitVec.ofNat 64 n) } }

/-- A request joins its die's queue: those of priority-7 launches come first. -/
def joinQueue (q : List Leave) (r : Leave) : List Leave :=
  if r.prio7 then q.filter (·.prio7) ++ r :: q.filter (fun x => !x.prio7) else q ++ [r]

/-- The hart of a request still waits: a trap that interrupts its stall withdraws the request (10 R222), which counts for nothing from
then on. -/
def State.asks (s : State) (r : Leave) : Bool := s.contexts.any fun c => c.isAt r.core r.bank && decide ((c.hs r.hart).wait ≠ .none)

/-- Grant the head request of a die when it fits. -/
def State.grantHead (s : State) (die : Nat) : State :=
  match s.leaveQ.find? (fun r => decide (r.die = die) && s.asks r) with
  | none => s
  | some r =>
    if s.pwruse die + r.cost ≤ s.pwrbud die then
      (({ s with leaveQ := s.leaveQ.filter (fun x => x.id ≠ r.id), heavy := s.heavy ++ [r] }).setUse die (s.pwruse die + r.cost)).pkgEvent
    else s

/-- The cost of the operations in progress that a context's standing leave covers. -/
def State.covered (s : State) : Nat :=
  ((s.heavy.filter fun l => l.standing && decide (l.core = s.ctx.core) && decide (l.bank = s.ctx.bank)).map (·.cost)).sum

/-- Use leave of a cost that has been granted to the hart in focus. -/
def State.claim (s : State) (cost : Nat) : Option (Nat × State) :=
  (s.heavy.find? fun l => s.ownLeave s.hart l && !l.claimed && decide (l.cost = cost)).map fun l =>
    (l.id, { s with heavy := s.heavy.map fun x => if x.id = l.id then { x with claimed := true } else x })

/-- The hart in focus asks leave for an operation, and goes on with its id once it is granted; after an interruption it asks again, at the
tail (10 R222). One that its standing leave has
come to cover commits without a request, and a request that it had made is withdrawn (18 R408). -/
def State.askLeave (s : State) (cost : Nat) (cover : Bool) (f : Nat → State → Res) : Res :=
  let die := dieOf s.ctx.core
  let r : Leave := { id := s.nextId, die := die, core := s.ctx.core, bank := s.ctx.bank, hart := s.hart, cost := cost,
                     prio7 := decide (s.ctx.prio = 7), standing := false, claimed := false }
  match s.claim cost with
  | some (id, t) => f id t
  | none =>
    if cover && decide (s.covered + cost ≤ s.ctx.standing) then
      let s := s.withdrawLeave s.hart
      f r.id { s with nextId := s.nextId + 1, heavy := s.heavy ++ [{ r with standing := true, claimed := true }] }
    else if s.hs.wait ≠ .none ∧ s.leaveQ.any (fun r => s.ownLeave s.hart r && decide (r.cost = cost)) then .stall (.leave cost) s
    else
      let s := (s.withdrawLeave s.hart).setWait (.leave cost)
      let t := ({ s with nextId := s.nextId + 1, leaveQ := joinQueue s.leaveQ r }).grantHead die
      match t.claim cost with
      | some (id, u) => f id u
      | none => .stall (.leave cost) t

/-- An operation that has not completed holds the leave. -/
def Context.holdsLeave (c : Context) (k : Nat) : Bool :=
  c.v.vq.any (fun e => decide (e.leave = some k)) || c.v.saved.any (fun e => decide (e.leave = some k)) ||
  c.m.mq.any (fun e => decide (e.leave = some k)) || c.m.pend.any (fun e => decide (e.leave = some k)) ||
  (c.m.frame.map fun f => f.mq.any (fun e => decide (e.leave = some k))).getD false ||
  c.cmds.any (fun e => decide (e.leave = some k))

/-- LEAVE_GRANT: the arbiter of a die grants its head request once it fits. -/
def execLeaveGrant (die : Idx3) (s : State) : Out := .next (s.grantHead die.toNat)

/-- LEAVE_TIMEOUT: the hart in focus has waited PWRTO cycles for leave; the trap waits for the vector stream (11 R239). -/
def execLeaveTimeout (s : State) : Out :=
  let die := dieOf s.ctx.core
  match s.hs.wait, s.leaveQ.find? (s.ownLeave s.hart) with
  | .leave cost, some _ =>
    if s.pwrto die = 0 ∨ (s.hart = .exe ∧ s.ctx.v.vq ≠ []) then .next s
    else
      let t : Trap := { cause := Cause.leaveTimeout, addr := 0#64, info := BitVec.ofNat 64 (s.pwruse die * 65536 + cost % 65536) }
      .next (((s.withdrawLeave s.hart).setWait .none).pkgEvent.takeTrap s.hart t s.pc s.pc false)
  | _, _ => .next s

/-- HEAVY_OPERATION_COMPLETE: a heavy operation whose work is done returns its cost. -/
def execHeavyOperationComplete (k : Nat) (s : State) : Out :=
  if s.heavy.any (fun l => decide (l.id = k) && l.claimed) && !s.contexts.any (·.holdsLeave k) then .next (s.returnLeave k)
  else .next s

/-- `pwr`: set the context's standing leave. -/
def execPwr (d a : Reg) (s : State) : Out :=
  runExe (.pwr d a) (fun s => s.whenReady [a] [d] fun s =>
    let want := (s.x a).toNat
    let old := s.ctx.standing
    let die := dieOf s.ctx.core
    if 0xFFFF < want then .trap (illegalTrap (.pwr d a)) s
    else if old < want then
      s.askLeave (want - old) false fun id s =>
        let s := { s with heavy := s.heavy.filter (fun l => l.id ≠ id), ctx := { s.ctx with standing := want } }
        s.finX d (BitVec.ofNat 64 old)
    else if want < s.covered then .stall .other s
    else
      let s := ({ s with ctx := { s.ctx with standing := want } }).setUse die (s.pwruse die - (old - want))
      s.finX d (BitVec.ofNat 64 old)) s

end Sys2Proof.Machine
end

