-- ==== Sys2Proof/Machine/Shape.lean ====
section
/-! DEFINITION. VTYPE and VL (06 R146, R148, 08 R177). -/

namespace Sys2Proof.Machine

/-- The fields of VTYPE. -/
def vtEw (vt : BitVec 8) : Nat := 8 * 2 ^ bits vt.toNat 0 2
def vtBl (vt : BitVec 8) : Nat := bits vt.toNat 2 3
def vtFmta (vt : BitVec 8) : Nat := bits vt.toNat 5 3

/-- EW = 8 and FMTA = 3: the rows hold elements of 4 bits. -/
def vtNarrow (vt : BitVec 8) : Bool := decide (vtEw vt = 8) && decide (vtFmta vt = 3)

/-- VLMAX. -/
def vtMax (vt : BitVec 8) : Nat := if vtNarrow vt then 1024 else 4096 / vtEw vt

/-- The block length, 0 where there is none. -/
def vtBlock (vt : BitVec 8) : Nat := if vtBl vt = 0 then 0 else 8 * 2 ^ vtBl vt

/-- VTYPE may hold the value. -/
def vtOk (vt : BitVec 8) : Bool := decide (vtBl vt ≤ 4) && decide (vtBlock vt ≤ vtMax vt)

/-- SetVL of 06 R148. -/
def formVl (vt : BitVec 8) (request : Nat) : Nat :=
  let n := min request (vtMax vt)
  if vtBlock vt = 0 then n else n - n % vtBlock vt

/-- An accepted write of VTYPE (08 R177). -/
def Vec.setVtype (v : Vec) (vt : BitVec 8) : Vec := { v with vtype := vt, vl := formVl vt v.vl }

end Sys2Proof.Machine
end

