-- ==== Sys2Proof/Machine/VElem.lean ====
section
/-! DEFINITION. Elements of vector registers, activity, and the sweep of 15 R312 (06 R147, 08 R177, R178). -/

namespace Sys2Proof.Machine

/-- Element `e` of a row under a width: its bits (06 R147). -/
def rowElem (w : Nat) (x : Row) (e : Nat) : Nat := bits x.toNat (e * w) w
def rowSetElem (w : Nat) (x : Row) (e v : Nat) : Row := BitVec.ofNat 4096 (setBits x.toNat (e * w) w v)

/-- Read and write element `e` of row `r` of a register; a write revives an absent grade (07 R162). -/
def Vec.elem (v : Vec) (w : Nat) (d : Reg) (r e : Nat) : Nat := rowElem w (v.row d.toNat r) e
def Vec.setElem (v : Vec) (w : Nat) (d : Reg) (r e x : Nat) : Vec :=
  let v := v.revive d.toNat r
  v.setRaw d.toNat r (rowSetElem w (v.raw d.toNat r) e x)

/-- Write an element of a row whose grade the instruction has settled. -/
def Vec.putElem (v : Vec) (w : Nat) (d : Reg) (r e x : Nat) : Vec :=
  v.setRaw d.toNat r (rowSetElem w (v.raw d.toNat r) e x)

/-- An element of a source. -/
def Vec.src (v : Vec) (w : Nat) (b : ESrc) (r e : Nat) : Nat :=
  match b with
  | .vec q => v.elem w q r e
  | .val x => x.toNat % 2 ^ w

/-- Predicate bit that governs element `e`; nibbles share one (06 R147). -/
def govBit (narrow : Bool) (e : Nat) : Nat := if narrow then e / 2 else e

/-- An element below VL whose governing bit is set. -/
def Vec.active (v : Vec) (cap : Capture) (pg : PReg) (narrow : Bool) (e : Nat) : Bool :=
  decide (e < cap.vl) && (v.pred pg).getLsbD (govBit narrow e)

/-- The elements of `n` rows in row-major order, from a first one. -/
def positions (n vl : Nat) (row elem : Nat) : List (Nat × Nat) :=
  (List.range n).flatMap fun r => (List.range vl).filterMap fun e =>
    if row < r ∨ (row = r ∧ elem ≤ e) then some (r, e) else none

/-- Where an entry starts: its first position, or the mask of the elements it performs; and where it stops, if it is not to come to
its end. -/
structure VStart where
  row : Nat
  elem : Nat
  mask : Option Pred
  stop : Option (Nat × Nat)
  deriving DecidableEq, Repr

/-- A position that lies before another in row-major order. -/
def before (p q : Nat × Nat) : Bool := decide (p.1 < q.1) || (decide (p.1 = q.1) && decide (p.2 < q.2))

/-- The entry comes to a position before it stops. -/
def VStart.reaches (st : VStart) (p : Nat × Nat) : Bool :=
  match st.stop with
  | none => true
  | some q => before p q

/-- The positions of `n` rows that an entry takes. -/
def VStart.positions (st : VStart) (n vl : Nat) : List (Nat × Nat) :=
  (Machine.positions n vl st.row st.elem).filter st.reaches

/-- ROW and ELEM of ES (11 R236). -/
def esRow (es : Word) : Nat := bits es.toNat 11 4
def esElem (es : Word) : Nat := bits es.toNat 0 11
def esOf (row elem : Nat) : Word := BitVec.ofNat 64 (row * 2048 + elem)

/-- A sweep's end: every element done, or a trap at one of them with its flags. -/
inductive Swept
  | done (v : Vec)
  | trap (row elem : Nat) (flags : BitVec 8) (v : Vec)

/-- Run a step over elements in order. A step answers the registers with the element written, and its flags, which join FSTAT
unless one of them is enabled: then the element is untouched and the sweep traps there (06 R142). -/
def sweep (fctl : Word) (act : Vec → Nat → Bool) (step : Vec → Nat → Nat → Vec × BitVec 8) : List (Nat × Nat) → Vec → Swept
  | [], v => .done v
  | (r, e) :: t, v =>
    if act v e then
      let (v', fl) := step v r e
      if trapping fctl fl then .trap r e fl v
      else sweep fctl act step t { v' with lfstat := v'.lfstat ||| fl }
    else sweep fctl act step t v

/-- The sweep of an entry over its tile, from its start. -/
def tile (pg : PReg) (cap : Capture) (narrow : Bool) (st : VStart) (step : Vec → Nat → Nat → Vec × BitVec 8) (v : Vec) : Swept :=
  sweep cap.fctl (fun v e => v.active cap pg narrow e) step (st.positions cap.rc cap.vl) v

end Sys2Proof.Machine
end

