-- ==== Sys2Proof/Machine/VArith.lean ====
section
/-! DEFINITION. What the queued predicate, integer, movement, float, scale and plane operations compute (15 R314 to R328). -/

namespace Sys2Proof.Machine

/-! ## Integer (15 R317 to R320) -/

/-- F of 15 R317 on values of a type; `d` is the old destination element. -/
def vint (op : VIntOp) (t : Ty) (d a b : Nat) : Nat :=
  let w := t.width
  let m := 2 ^ w
  match op with
  | .add => intF .add w a b
  | .sub => intF .sub w a b
  | .mul => intF .mul w a b
  | .mac => (d + a * b) % m
  | .min => if valueOf t a ≤ valueOf t b then a else b
  | .max => if valueOf t a ≤ valueOf t b then b else a
  | .abs => ofSigned w (toSigned w a).natAbs
  | .and => Nat.land a b
  | .or => Nat.lor a b
  | .xor => Nat.xor a b
  | .shl => intF .shl w a b
  | .shr => intF .shr w a b
  | .sra => intF .sra w a b

/-- Set one bit of a predicate. -/
def Vec.setBit (v : Vec) (d : PReg) (e : Nat) (b : Bool) : Vec :=
  v.setPred d (BitVec.ofNat 512 (setBits (v.pred d).toNat e 1 (if b then 1 else 0)))

/-- Combine two integers of a type (15 R320). -/
def redOp (op : RedOp) (t : Ty) (a b : Nat) : Nat :=
  match op with
  | .add => (a + b) % 2 ^ t.width
  | .min => if valueOf t a ≤ valueOf t b then a else b
  | .max => if valueOf t a ≤ valueOf t b then b else a
  | .and => Nat.land a b
  | .or => Nat.lor a b
  | .xor => Nat.xor a b

/-- The identity of a reduction. -/
def redId (op : RedOp) (t : Ty) : Nat :=
  match op with
  | .add | .or | .xor => 0
  | .and => 2 ^ t.width - 1
  | .min => ofSigned t.width (tyMax t)
  | .max => ofSigned t.width (tyMin t)

/-- The active elements of a row of a register, in order. -/
def Vec.activeElems (v : Vec) (cap : Capture) (pg : PReg) (w : Nat) (a : Reg) (r : Nat) : List (Nat × Nat) :=
  (List.range cap.vl).filterMap fun e => if v.active cap pg false e then some (e, v.elem w a r e) else none

/-- `vred` on one row. -/
def vredRow (op : RedOp) (t : Ty) (pg : PReg) (cap : Capture) (d a : Reg) (v : Vec) (r : Nat) : Vec :=
  let x := ((v.activeElems cap pg t.width a r).map (·.2)).foldl (redOp op t) (redId op t)
  v.setElem t.width d r 0 x

/-- `vscan` on one row: the active elements get their running combination. An entry that starts inside the row has written the
elements below, where vd is va. -/
def vscanRow (op : RedOp) (t : Ty) (pg : PReg) (cap : Capture) (st : VStart) (d a : Reg) (v : Vec) (r : Nat) : Vec :=
  let (below, rest) := (v.activeElems cap pg t.width a r).partition fun x => decide (r = st.row) && decide (x.1 < st.elem)
  let start := if d = a then (below.getLast?.map (·.2)).getD (redId op t) else (below.map (·.2)).foldl (redOp op t) (redId op t)
  ((rest.filter fun x => st.reaches (r, x.1)).foldl (fun (p : Nat × Vec) (x : Nat × Nat) =>
    let k := redOp op t p.1 x.2
    (k, p.2.setElem t.width d r x.1 k)) (start, v)).2

/-! ## Float (15 R321 to R324) -/

/-- One float element. -/
def vflt (op : VFltOp) (f : FFmt) (rm : Rm) (sat : Bool) (a b c : Nat) : FRes :=
  match op with
  | .add => f.add rm sat a b
  | .sub => f.sub rm sat a b
  | .mul => f.mul rm sat a b
  | .fma => f.fma rm sat a b c
  | .min => f.minmax false a b
  | .max => f.minmax true a b
  | .div => f.div rm sat a b
  | .sqrt => f.sqrt rm sat a
  | .rsq => f.rsqrt rm sat a

/-- A value delivered as an arithmetic result: only a NaN changes (15 R324). -/
def FFmt.deliver1 (f : FFmt) (a : Nat) : FRes :=
  match f.decode a with
  | .nan sig => (f.qnan, nvIf sig)
  | .inf _ | .fin _ _ _ => (a, 0#8)

/-- `vfred` of the active elements of a row, in order. -/
def vfredRow (op : RedOp) (f : FFmt) (rm : Rm) (xs : List Nat) : FRes :=
  let inf (neg : Bool) : Nat := f.sign neg ((2 ^ f.ew - 1) * 2 ^ f.mw)
  match xs with
  | [] => (match op with
    | .min => inf false
    | .max => inf true
    | .add | .and | .or | .xor => 0, 0#8)
  | x :: t =>
    let start : FRes := f.deliver1 x
    t.foldl (fun (p : FRes) y =>
      let (r, fl) := match op with
        | .min => f.minmax false p.1 y
        | .max => f.minmax true p.1 y
        | .add | .and | .or | .xor => f.add rm false p.1 y
      (r, p.2 ||| fl)) start

/-- The rows of a `vfred`, from a first one; a row that raises an enabled flag is left unchanged and traps. DESIGN CHOICE: TINFO has the flags
of all the row's additions, those after the one that raised an enabled flag too (15 R324 does not say; notes/assumptions 85). -/
def vfredRows (op : RedOp) (t : Ty) (rm : Rm) (pg : PReg) (cap : Capture) (d a : Reg) : List Nat → Vec → Swept
  | [], v => .done v
  | r :: rs, v =>
    let (x, fl) := vfredRow op (ffmt t) rm ((v.activeElems cap pg t.width a r).map (·.2))
    if trapping cap.fctl fl then .trap r 0 fl v
    else vfredRows op t rm pg cap d a rs { v.setElem t.width d r 0 x with lfstat := v.lfstat ||| fl }

/-! ## Block scales (06 R149, 15 R325 to R327) -/

/-- Row and element of the scale of element `e` of row `r`, group member `i`. -/
def scalePos (vt : BitVec 8) (r e i : Nat) : Nat × Nat :=
  let blocks := vtMax vt / vtBlock vt
  let s := e / vtBlock vt + r * blocks + i * 16 * blocks
  let per := 4096 / vtEw vt
  (s / per, s % per)

/-- The E8M0 scale of an element. -/
def Vec.scale (v : Vec) (vt : BitVec 8) (s : Reg) (r e i : Nat) : Nat :=
  let (row, k) := scalePos vt r e i
  v.elem (vtEw vt) s row k % 256

/-- A value multiplied by a power of two, exactly. -/
def Num.scaled (x : Num) (k : Int) : Num :=
  match x with
  | .fin n m e => .fin n m (e + k)
  | .nan s => .nan s
  | .inf n => .inf n

/-- One element of `vqnt`, and of `vdqn`. -/
def qnt1 (n w : Ty) (rm : Rm) (sat : Bool) (a x : Nat) : FRes :=
  if x = 255 then (ffmt n).giveNan true
  else (ffmt n).give rm sat (((ffmt w).decode a).scaled (127 - (x : Int)))
def dqn1 (w n : Ty) (rm : Rm) (a x : Nat) : FRes :=
  if x = 255 then (ffmt w).giveNan true
  else (ffmt w).give rm false (((ffmt n).decode a).scaled ((x : Int) - 127))

/-- EMAX of `vscl` by FMTA. -/
def emaxOf (fmta : Nat) : Int := if fmta = 0 then 8 else if fmta = 1 then 15 else 2

/-- The scale of a block from its active magnitudes (15 R326). -/
def sclOf (fmta : Nat) (xs : List Num) : Nat :=
  if xs.any (·.isNan) then 0xFF
  else if xs.any (·.isInf) then 0xFE
  else
    let logs : List Int := xs.filterMap fun x => match x with
      | .fin _ m e => if m = 0 then none else some ((m.log2 : Int) + e)
      | .nan _ | .inf _ => none
    match logs with
    | [] => 0
    | l :: t => (max 0 (min 254 (t.foldl max l - emaxOf fmta + 127))).toNat

/-- `vscl`: the blocks of a row that hold an active element, from where the entry starts to where it stops. -/
def sclRow (w : Ty) (pg : PReg) (cap : Capture) (st : VStart) (d a : Reg) (i : Nat) (v0 v : Vec) (r : Nat) : Vec :=
  let bl := vtBlock cap.vtype
  let narrow := vtNarrow cap.vtype
  let takes (b : Nat) : Bool := (decide (st.row < r) || decide (st.elem ≤ b * bl)) && st.reaches (r, b * bl)
  ((List.range ((cap.vl + bl - 1) / bl)).filter takes).foldl (fun v b =>
    let es := (List.range bl).filterMap fun j =>
      let e := b * bl + j
      if v0.active cap pg narrow e then some ((ffmt w).decode (v0.elem w.width a r e)) else none
    if es.isEmpty then v
    else
      let (row, k) := scalePos cap.vtype r (b * bl) i
      v.setElem (vtEw cap.vtype) d row k (sclOf (vtFmta cap.vtype) es)) v

/-! ## Planes (06 R154, R155, 15 R328) -/

/-- The value that planes 0 to k − 1 of a block of 256 bytes give for an element, sign-extended to 8 bits. -/
def planeValue (k : Nat) (block : Nat) (i : Nat) : Nat :=
  let y := ((List.range k).map fun p => if block.testBit (256 * p + i) then 2 ^ (k - 1 - p) else 0).sum
  ofSigned 8 (toSigned k y)

/-! ## Predicates (15 R314 to R316) -/

def plogic (op : PLogOp) (a b : Pred) : Pred :=
  match op with
  | .and => a &&& b
  | .or => a ||| b
  | .xor => a ^^^ b
  | .not => ~~~a

/-- The bits below PL that are set in both predicates. -/
def Vec.bothBits (v : Vec) (cap : Capture) (pg a : PReg) : List Nat :=
  let n := if vtNarrow cap.vtype then (cap.vl + 1) / 2 else cap.vl
  (List.range n).filter fun e => (v.pred a).getLsbD e && (v.pred pg).getLsbD e

/-! ## One operation on the registers -/

/-- The element that `vbcast` reads: FREE where an index below VLMAX = 1024 lies past the 512 elements of 8 bits that a row holds (06 R147,
15 R319; notes/assumptions 80). -/
def Vec.bcastSrc (v : Vec) (t : Ty) (a : Reg) (r i : Nat) : Nat :=
  if 4096 ≤ i * t.width then (Config.pastRow (v.row a.toNat r) i).toNat else v.elem t.width a r i

/-- What an operation that accesses no memory does, from its start; multivector arithmetic stands in Mv.lean. -/
def arith (op : VOp) (pg : PReg) (cap : Capture) (st : VStart) (v : Vec) : Swept :=
  let whole (w : Vec) : Swept := .done (if st.stop.isSome then v else w)
  let rows := (List.range cap.rc).filter fun r => decide (st.row ≤ r) && st.reaches (r, 0)
  match op with
  | .int op t d a b =>
    tile pg cap false st (fun v r e =>
      (v.setElem t.width d r e (vint op t (v.elem t.width d r e) (v.elem t.width a r e) (v.src t.width b r e)), 0#8)) v
  | .icmp cc t d a b =>
    tile pg cap false st (fun v r e => (v.setBit d e (cmpHolds cc t (v.elem t.width a r e) (v.src t.width b r e)), 0#8)) v
  | .sel t d a b =>
    sweep cap.fctl (fun _ _ => true) (fun v r e =>
      (v.setElem t.width d r e (if (v.pred pg).getLsbD e then v.elem t.width a r e else v.src t.width b r e), 0#8))
      (st.positions cap.rc cap.vl) v
  | .bcastElem t d a i =>
    let v0 := v
    tile pg cap false st (fun v r e => (v.setElem t.width d r e (v0.bcastSrc t a r i), 0#8)) v
  | .bcastVal t d x => tile pg cap false st (fun v r e => (v.setElem t.width d r e (x.toNat % 2 ^ t.width), 0#8)) v
  | .idx t d i =>
    tile pg cap false st (fun v r e => (v.setElem t.width d r e (ofSigned t.width (i + (r * cap.vl + e : Nat))), 0#8)) v
  | .perm t d a b =>
    tile pg cap false st (fun v r e =>
      let j := v.elem t.width b r e
      (v.setElem t.width d r e (if j < cap.vl then v.elem t.width a r j else 0), 0#8)) v
  | .slide t d a k =>
    tile pg cap false st (fun v r e =>
      let j : Int := (e : Int) - k
      (v.setElem t.width d r e (if 0 ≤ j ∧ j < cap.vl then v.elem t.width a r j.toNat else 0), 0#8)) v
  | .red op t d a => if cap.vl = 0 then .done v else .done (rows.foldl (vredRow op t pg cap d a) v)
  | .scan op t d a => .done (rows.foldl (vscanRow op t pg cap st d a) v)
  | .flt op t rm sat d a b c =>
    tile pg cap false st (fun v r e =>
      let (x, fl) := vflt op (ffmt t) (resolveRm rm cap.fctl) sat (v.elem t.width a r e) (v.src t.width b r e) (v.elem t.width c r e)
      (v.setElem t.width d r e x, fl)) v
  | .fcmp cc t d a b =>
    tile pg cap false st (fun v r e =>
      let (x, fl) := (ffmt t).compare cc (v.elem t.width a r e) (v.src t.width b r e)
      (v.setBit d e x, fl)) v
  | .fcvt dt src rm sat d a =>
    tile pg cap false st (fun v r e =>
      let (x, fl) := convert dt src (resolveRm rm cap.fctl) sat (v.elem src.width a r e)
      (v.setElem dt.width d r e x, fl)) v
  | .fred op t rm d a => if cap.vl = 0 then .done v else vfredRows op t (resolveRm rm cap.fctl) pg cap d a rows v
  | .scl w d a i => .done (rows.foldl (sclRow w pg cap st d a i v) v)
  | .qnt n w rm sat d a s i =>
    tile pg cap (decide (n = .fp4)) st (fun v r e =>
      let (x, fl) := qnt1 n w (resolveRm rm cap.fctl) sat (v.elem w.width a r e) (v.scale cap.vtype s r e i)
      (v.setElem n.width d r e x, fl)) v
  | .dqn w n rm d a s i =>
    tile pg cap (decide (n = .fp4)) st (fun v r e =>
      let (x, fl) := dqn1 w n (resolveRm rm cap.fctl) (v.elem n.width a r e) (v.scale cap.vtype s r e i)
      (v.setElem w.width d r e x, fl)) v
  | .bpx k d a =>
    tile pg cap false st (fun v r e =>
      let block := bits (v.row a.toNat r).toNat (2048 * (e / 256)) 2048
      (v.setElem 8 d r e (planeValue k block (e % 256)), 0#8)) v
  | .rowExt t d a k =>
    sweep cap.fctl (fun v e => v.active cap pg false e) (fun v _ e => (v.setElem t.width d 0 e (v.elem t.width a k e), 0#8))
      (st.positions 1 cap.vl) v
  | .rowIns t d a k =>
    sweep cap.fctl (fun v e => v.active cap pg false e) (fun v _ e => (v.setElem t.width d k e (v.elem t.width a 0 e), 0#8))
      (st.positions 1 cap.vl) v
  | .plim d n => whole (v.setPred d (BitVec.ofNat 512 (2 ^ (min n.toNat 512) - 1)))
  | .plog op d a b => whole (v.setPred d (plogic op (v.pred a) (v.pred b)))
  | .pcnt d a => if cap.vl = 0 then .done v else whole (v.setX d.toNat (BitVec.ofNat 64 (v.bothBits cap pg a).length))
  | .pfirst d a =>
    if cap.vl = 0 then .done v else
    whole (v.setX d.toNat (match (v.bothBits cap pg a).head? with
      | some e => BitVec.ofNat 64 e
      | none => BitVec.allOnes 64))
  | .gmRd d a => whole (v.setX d.toNat ((v.mask a.toNat).zeroExtend 64))
  | .gmWr d k =>
    let old := v.mask d.toNat
    whole (((List.range 5).foldl (fun v g => if k.getLsbD g && !old.getLsbD g then v.zeroGrade d.toNat g else v) v).setMask d.toNat k)
  | .mv _ _ _ _ _ _ _ | .load _ _ _ _ _ _ _ _ | .store _ _ _ _ _ _ _ | .sca _ _ _ _ _ _ _ _ | .amo _ _ _ _ _ _ _ _ _
  | .mvLoad _ _ _ _ _ _ _ | .mvStore _ _ _ _ _ _ _ | .spill _ _ _ | .fill _ _ _ | .lanes _ _ => .done v

end Sys2Proof.Machine
end

