-- ==== Sys2Proof/Machine/Tile.lean ====
section
/-! DEFINITION. Tile descriptors and the elements of tiles (17 R354 to R357, 06 R145, R154 to R156), the pairing of activations with
weights (R360), and the dot products of the array (06 R150 to R153). -/

namespace Sys2Proof.Machine

/-! ## Descriptors (17 R355 to R357) -/

/-- A tile descriptor. -/
abbrev Desc := BitVec 128

def dBase (d : Desc) : Nat := bits d.toNat 0 22
def dRows (d : Desc) : Nat := bits d.toNat 40 8
def dCols (d : Desc) : Nat := bits d.toNat 48 8
def dFmt (d : Desc) : Nat := bits d.toNat 57 3
def dX64 (d : Desc) : Bool := d.getLsbD 60
def dClass (d : Desc) : Nat := bits d.toNat 61 3
def dAux (d : Desc) : Nat := bits d.toNat 74 22
def dRank (d : Desc) : Nat := bits d.toNat 100 7
def dPlanes (d : Desc) : Nat := bits d.toNat 108 4
def dLdim (d : Desc) : Nat := bits d.toNat 112 16
def dSetClass (d : Desc) (c : Nat) : Desc := BitVec.ofNat 128 (setBits d.toNat 61 3 c)

/-- Bits of an element of a format code (06 R145). -/
def fmtBits (f : Nat) (x64 : Bool) : Nat :=
  match f with
  | 0 | 1 | 2 => 8
  | 3 => 4
  | 4 => 1
  | 5 | 6 => 16
  | _ => if x64 then 64 else 32
def dW (d : Desc) : Nat := fmtBits (dFmt d) (dX64 d)

/-- The type of a format code's elements. -/
def fmtTy (f : Nat) (x64 : Bool) : Ty :=
  match f with
  | 0 => .e4m3 | 1 => .e5m2 | 2 => .i8 | 3 => .fp4 | 4 => .i8 | 5 => .bf16 | 6 => .f16
  | _ => if x64 then .f64 else .f32
def dTy (d : Desc) : Ty := fmtTy (dFmt d) (dX64 d)

/-- Row bytes RB. -/
def dRb (d : Desc) : Nat := (dCols d * dW d + 7) / 8

/-- The end of rows of some bytes at a pitch. -/
def endsBy (base rows pitch len : Nat) : Bool := decide (base + (rows - 1) * pitch + len ≤ Config.spadBytes)

/-- A descriptor is valid (17 R357). -/
def descOk (d : Desc) : Bool :=
  let n := d.toNat
  let f := dFmt d
  decide (bits n 107 1 = 0) && decide (bits n 96 4 = 0) && decide (bits n 64 10 = 0) && decide (bits n 56 1 = 0) &&
  decide (bits n 22 18 = 0) && decide (1 ≤ dRows d) && decide (dRows d ≤ 128) && decide (1 ≤ dCols d) && decide (dCols d ≤ 128) &&
  (!dX64 d || decide (f = 7)) &&
  (match dClass d with
   | 0 | 1 =>
     decide (f ≠ 3) && decide (f ≠ 4) && decide (dRb d ≤ dLdim d) && endsBy (dBase d) (dRows d) (dLdim d) (dRb d) &&
     (decide (dClass d = 0) || (decide (dAux d % 8 = 0) && decide (dAux d + 8 ≤ Config.spadBytes)))
   | 2 =>
     let len := dRank d * dW d / 8
     decide (5 ≤ f) && !dX64 d && decide (1 ≤ dRank d) && decide (dRank d ≤ 64) && decide (len ≤ dLdim d) &&
     endsBy (dBase d) (dRows d) (dLdim d) len && endsBy (dAux d) (dCols d) (dLdim d) len
   | 3 =>
     decide (f = 3) && decide (dRb d ≤ dLdim d) && endsBy (dBase d) (dRows d) (dLdim d) (dRb d) &&
     decide (dAux d + 4 * dRows d ≤ Config.spadBytes)
   | 4 =>
     decide (f = 4) && decide (2 ≤ dPlanes d) && decide (dPlanes d ≤ 8) &&
     decide (dBase d + 256 * ((dRows d * dCols d + 255) / 256) ≤ Config.spadBytes)
   | _ => true)

/-! ## Elements (17 R356, 06 R154 to R156) -/

/-- A number of bytes at an offset. -/
def rdNum (rd : Nat → Byte) (a n : Nat) : Nat := ofBytes ((List.range n).map fun i => rd (a + i))

/-- The byte offset of element (i, j) of rows at a pitch. -/
def cellAt (d : Desc) (i j : Nat) : Nat := dBase d + i * dLdim d + j * dW d / 8

/-- The block of an element is present: always, but for BSPARSE. -/
def present (rd : Nat → Byte) (d : Desc) (i j : Nat) : Bool :=
  if dClass d = 1 then (rdNum rd (dAux d) 8).testBit (8 * (i / 16) + j / 16) else true

/-- The bits of element (i, j): the stored element, zero in an absent block, and the plane value of BPLANE as 8 bits. -/
def tileCode (rd : Nat → Byte) (d : Desc) (i j : Nat) : Nat :=
  if dClass d = 4 then
    let f := i * dCols d + j
    let at_ := dBase d + 256 * (f / 256)
    let y := ((List.range (dPlanes d)).map fun p =>
      if (rd (at_ + 32 * p + f % 256 / 8)).getLsbD (f % 8) then 2 ^ (dPlanes d - 1 - p) else 0).sum
    ofSigned 8 (toSigned (dPlanes d) y)
  else if !present rd d i j then 0
  else if dW d = 4 then bits (rd (cellAt d i j)).toNat (4 * (j % 2)) 4
  else rdNum rd (cellAt d i j) (dW d / 8)

/-- The E8M0 scale of an element of an MX4 tile. -/
def tileScale (rd : Nat → Byte) (d : Desc) (i j : Nat) : Nat := (rd (dAux d + 4 * i + j / 32)).toNat

/-- The bytes that hold the data of some rows of a tile, its bitmap and scales: what reading them consumes. -/
def tileBytes (rd : Nat → Byte) (d : Desc) (rows : List Nat) : List Nat :=
  match dClass d with
  | 4 =>
    (rows.flatMap fun i => (List.range (dCols d)).flatMap fun j =>
      let f := i * dCols d + j
      (List.range (dPlanes d)).map fun p => dBase d + 256 * (f / 256) + 32 * p + f % 256 / 8).dedup
  | 1 =>
    (List.range 8).map (dAux d + ·) ++ rows.flatMap fun i => (List.range (dCols d)).flatMap fun j =>
      if present rd d i j then (List.range (dW d / 8)).map (cellAt d i j + ·) else []
  | 3 =>
    rows.flatMap fun i => (List.range (dRb d)).map (dBase d + i * dLdim d + ·) ++
      (List.range ((dCols d + 31) / 32)).map (dAux d + 4 * i + ·)
  | _ => rows.flatMap fun i => (List.range (dRb d)).map (dBase d + i * dLdim d + ·)

/-! ## Formats of weights and activations (08 R191, 17 R359, R360, R363) -/

/-- The format of a weight tile. -/
def weightFmt (d : Desc) : WFmt :=
  if dClass d = 4 then .bp (dPlanes d)
  else match dFmt d with
    | 0 => .fmt .e4m3 | 1 => .fmt .e5m2 | 2 => .fmt .i8 | 3 => .fmt .fp4 | 5 => .fmt .bf16 | 6 => .fmt .f16
    | _ => if dX64 d then .fmt .f64 else .fmt .f32

/-- CAP of a bank along K. -/
def WFmt.cap : WFmt → Nat
  | .fmt .e4m3 | .fmt .e5m2 | .fmt .i8 => 256
  | .fmt .fp4 => 512
  | .fmt .bf16 | .fmt .f16 | .fmt .f32 | .fmt .f64 => 128
  | .bp n => if n = 2 then 1024 else if n ≤ 4 then 512 else 256

/-- The cost of a burst against weights of a format (10 R221). -/
def WFmt.cost : WFmt → Nat
  | .fmt .bf16 | .fmt .f16 => 16
  | .fmt .f32 | .fmt .f64 => 8
  | .fmt .e4m3 | .fmt .e5m2 | .fmt .i8 | .fmt .fp4 | .bp _ => 24

/-- Result columns NA. -/
def MmTy.columns : MmTy → Nat
  | .f64 => 64
  | .e4m3 | .e5m2 | .i8 | .fp4 | .bf16 | .f16 | .f32 => 128
def WFmt.columns : WFmt → Nat
  | .fmt f => MmTy.columns f
  | .bp _ => 128

/-- An activation type pairs with latched weights; a bank with no latched format pairs with every type (08 R171). -/
def pairs (f : MmTy) (w : Option WFmt) : Bool :=
  match w with
  | none => true
  | some (.bp _) => decide (f = .i8)
  | some (.fmt g) => decide (f = g) || (decide (f = .e4m3) && decide (g = .e5m2)) || (decide (f = .e5m2) && decide (g = .e4m3))

/-- The descriptor of an activation stream agrees with the instruction's type. -/
def actFits (f : MmTy) (d : Desc) : Bool :=
  decide (weightFmt d = .fmt f) && (if f = .fp4 then decide (dClass d = 3) else decide (dClass d ≤ 1))

/-! ## Dot products (06 R150 to R153) -/

/-- Groups of a list. -/
def groups {α : Type} (n : Nat) : Nat → List α → List (List α)
  | 0, _ => []
  | fuel + 1, l => if l.isEmpty then [] else l.take n :: groups n fuel (l.drop n)

/-- S of a group of products: exact, truncated below 2^(emax − down), summed, and rounded once to FP32 (06 R150, R152). DESIGN CHOICE:
a group with a NaN product sets NV only where a product is itself invalid, whatever infinities it holds (notes/assumptions 59). -/
def groupSum (down : Nat) (ps : List (Num × Bool)) : FRes :=
  let f := ffmt .f32
  let inv := ps.any (·.2)
  let infs := ps.filterMap fun p => match p.1 with
    | .inf n => some n
    | .nan _ | .fin _ _ _ => none
  if ps.any fun p => p.1.isNan then (f.qnan, nvIf inv)
  else if infs.contains true && infs.contains false then (f.qnan, Flag.nv)
  else
    match infs with
    | n :: _ => f.giveInf false n
    | [] =>
      let tops : List Int := ps.filterMap fun p => match p.1 with
        | .fin _ m e => if m = 0 then none else some ((m.log2 : Int) + e)
        | .nan _ | .inf _ => none
      match tops with
      | [] => (0, 0#8)
      | t :: rest =>
        let unit := rest.foldl max t - down
        let q : Int := (ps.map fun p => match p.1 with
          | .fin n m e =>
            let k : Nat := if unit ≤ e then m * 2 ^ (e - unit).toNat else m / 2 ^ (unit - e).toNat
            if n then -(k : Int) else (k : Int)
          | .nan _ | .inf _ => 0).sum
        f.round .rne false (decide (q < 0)) q.natAbs unit false

/-- Acc + S in FP32. -/
def accAdd (acc : FRes) (s : FRes) : FRes :=
  let (x, fl) := (ffmt .f32).add .rne false acc.1 s.1
  (x, acc.2 ||| s.2 ||| fl)

/-- One element: the accumulator's bits z, the number of columns K, the codes of the activation row and of the weight column, and for MX4 the
scales of each block of 32. Beyond K the products of a group are exact zeros (06 R150, R152). DESIGN CHOICE: FP32 and FP64 go on over every
index, with 0 × weight beyond K (06 R153 does not say; notes/assumptions 60). DESIGN CHOICE: under a scale of 0xFF a group of zero elements
gives NaN too (06 R151 says NaN and +0; notes/assumptions 58). -/
def dotAccumulate (f : MmTy) (g : Option WFmt) (z cols : Nat) (a b : List Nat) (xa xb : List Nat) : FRes :=
  let codes (n : Nat) (ta tb : Ty) : List (List (Num × Bool)) :=
    groups n 128 ((a.zip b).zipIdx.map fun ((x, y), k) =>
      if k < cols then ((ffmt ta).decode x).mul ((ffmt tb).decode y) else (.fin false 0 0, false))
  let fma (t : Ty) : FRes :=
    (a.zip b).foldl (fun (acc : FRes) (x, y) => let (r, fl) := (ffmt t).fma .rne false x y acc.1; (r, acc.2 ||| fl)) ((z, 0#8) : FRes)
  let other (own : Ty) : Ty := match g with
    | some (.fmt .e4m3) => .e4m3
    | some (.fmt .e5m2) => .e5m2
    | _ => own
  match f with
  | .e4m3 => (codes 32 .e4m3 (other .e4m3)).foldl (fun acc ps => accAdd acc (groupSum 30 ps)) ((z, 0#8) : FRes)
  | .e5m2 => (codes 32 .e5m2 (other .e5m2)).foldl (fun acc ps => accAdd acc (groupSum 30 ps)) ((z, 0#8) : FRes)
  | .bf16 => (codes 16 .bf16 .bf16).foldl (fun acc ps => accAdd acc (groupSum 46 ps)) ((z, 0#8) : FRes)
  | .f16 => (codes 16 .f16 .f16).foldl (fun acc ps => accAdd acc (groupSum 46 ps)) ((z, 0#8) : FRes)
  | .f32 => fma .f32
  | .f64 => fma .f64
  | .i8 => (ofSigned 32 ((z : Int) + ((a.zip b).map fun (x, y) => toSigned 8 x * toSigned 8 y).sum), 0#8)
  | .fp4 =>
    let sums := (groups 32 128 (a.zip b)).map fun l => ((l.map fun (x, y) =>
      match (ffmt .fp4).decode x, (ffmt .fp4).decode y with
      | .fin n m e, .fin k p q => finInt (n != k) (m * p) (e + q) (-2)
      | _, _ => 0).sum : Int)
    (sums.zipIdx).foldl (fun acc (s, i) =>
      let ea := xa.getD i 0
      let eb := xb.getD i 0
      let r : FRes :=
        if ea = 255 ∨ eb = 255 then ((ffmt .f32).qnan, 0#8)
        else (ffmt .f32).round .rne false (decide (s < 0)) s.natAbs ((ea : Int) + eb - 256) false
      accAdd acc r) ((z, 0#8) : FRes)

end Sys2Proof.Machine
end

