-- ==== Sys2Proof/Machine/Matrix.lean ====
section
/-! DEFINITION. Tile descriptors, commit of the matrix instructions into the matrix command queue, and the matrix stream
(17 R358 to R370, 08 R190 to R194, 11 R253, R254). -/

namespace Sys2Proof.Machine

/-! ## Commit (17 R358, 11 R245) -/

/-- The double trap of a matrix instruction in the handler before `tsave` (11 R245). -/
def inHandlerTrap : Trap := { cause := Cause.matrixInHandler, addr := 0#64, info := 0#64 }

/-- A matrix, tile or `send` instruction of the execute hart. -/
def runMat (i : Instr) (f : State → Res) (s : State) : Out :=
  runExe i (fun s => if s.hs.handler && !s.hs.ts then .trap inHandlerTrap s else f s) s

/-- Descriptor t(8 + n). -/
def State.desc (s : State) (n : Idx3) : Desc := Sparse.get 0#128 s.ctx.m.desc n.toNat
def State.setDesc (s : State) (n : Idx3) (d : Desc) : State :=
  s.setCtx { s.ctx with m := { s.ctx.m with desc := Sparse.set 0#128 s.ctx.m.desc n.toNat d } }

/-- The latched format of a bank as the execute hart tracks it (17 R360). -/
def Mat.cfmt (m : Mat) (bank : Bool) : Option WFmt := if bank then m.cfmt1 else m.cfmt0
def Mat.setCfmt (m : Mat) (bank : Bool) (f : WFmt) : Mat :=
  if bank then { m with cfmt1 := some f } else { m with cfmt0 := some f }

/-- What the execute hart tracks of the banks, after an operation commits. -/
def Mat.track (m : Mat) : MOp → Mat
  | .load bank d kp => if kp = 0 then m.setCfmt bank (weightFmt d) else m
  | .swap => { m with cact := !m.cact }
  | .mul _ _ _ _ _ _ _ | .read _ _ _ _ | .write _ _ _ _ | .tld _ _ | .tst _ _ _ | .tcvt _ _ | .zeroAcc _ | .zeroTile _
  | .add _ _ _ _ _ => m

/-- What takes effect at commit waits until no earlier entry of the vector stream can trap (08 R190, 17 R358). -/
def State.atCommit (s : State) (f : State → Res) : Res := if s.ctx.v.vq ≠ [] then .stall .other s else f s

/-- Operations enter the matrix command queue; the last one holds the leave. -/
def State.enterMat (s : State) (leave : Option Nat) : List MOp → State
  | [] => s
  | op :: t =>
    let e : MEntry :=
      { op := op, spz := s.ctx.sr.spz, pc := s.pc, next := 0, leave := if t.isEmpty then leave else none, strip := s.ctx.strip.isSome }
    (s.setCtx { s.ctx with m := { s.ctx.m.track op with mq := s.ctx.m.mq ++ [e] } }).enterMat leave t

/-- Commit into the queue once no earlier entry can trap and there is room; a heavy operation asks leave first (08 R190, 10 R222). -/
def State.commitMat (s : State) (ops : List MOp) (cost : Option Nat) : Res :=
  if s.ctx.v.vq ≠ [] then .stall .other s
  else if Config.mqDepth < s.ctx.m.mq.length + ops.length then .stall .other s
  else
    match cost with
    | none => .ok (s.enterMat none ops).advance
    | some c => s.askLeave c true fun id s => .ok (s.enterMat (some id) ops).advance

/-- Checks, then commit. -/
def commitIf (i : Instr) (ok : State → Bool) (op : State → MOp) (s : State) : Out :=
  runMat i (fun s => if ok s then s.commitMat [op s] none else .trap (illegalTrap i) s) s

/-! ## Checks of the instructions (17 R363 to R369) -/

/-- `mwld` may load the tile into the bank (R363). -/
def Mat.loadOk (m : Mat) (bank : Bool) (d : Desc) (kp : Nat) : Bool :=
  let f := weightFmt d
  descOk d && (decide (dClass d = 0) || decide (dClass d = 1) || decide (dClass d = 3) || decide (dClass d = 4)) &&
  decide (128 * kp < f.cap) && decide (dRows d ≤ f.columns) && (decide (kp = 0) || decide (m.cfmt bank = some f))

/-- The format against which a stream of a type runs in the active bank, as tracked. DESIGN CHOICE: a bank with no latched format has the CAP
and the cost of the activation's own type (17 R365 and 10 R221 do not say; notes/assumptions 31). -/
def Mat.against (m : Mat) (f : MmTy) : WFmt := (m.cfmt m.cact).getD (.fmt f)

/-- `mmul` and `mmulx` may stream the tile (R359, R360, R365). -/
def Mat.streamOk (m : Mat) (f : MmTy) (d : Desc) (kp : Nat) : Bool :=
  descOk d && actFits f d && pairs f (m.cfmt m.cact) && decide (128 * kp < (m.against f).cap)

/-- A stream of 32 or more rows is heavy (10 R221). -/
def burst (rows : Nat) (w : WFmt) : Option Nat := if 32 ≤ rows then some w.cost else none

/-- `tld` reads the tile; `tst` writes it (R367). -/
def tldOk (d : Desc) : Bool := descOk d && !dX64 d && (decide (dClass d = 0) || decide (dClass d = 1) || decide (dClass d = 3) || decide (dClass d = 4))
def tstOk (d : Desc) : Bool := descOk d && !dX64 d && (decide (dClass d = 0) || decide (dClass d = 3))

/-- The pairs of `tcvt`: from m to n (R368). -/
def tcvtOk (n m : Desc) : Bool :=
  descOk n && descOk m && decide (dRows n = dRows m) && decide (dCols n = dCols m) &&
  (match dClass m, dClass n with
   | 0, 1 | 1, 0 => decide (dFmt m = dFmt n) && decide (dX64 m = dX64 n)
   | 0, 4 => decide (dFmt m = 2)
   | 4, 0 => decide (dFmt n = 2)
   | _, _ => false)

/-- `tzero` of a tile (R369). -/
def tzeroOk (d : Desc) : Bool := descOk d && decide (dClass d ≤ 4)

/-! ## The instructions (17 R361 to R369) -/

def execTdesc (n : Idx3) (a b : Reg) (s : State) : Out :=
  runMat (.tdesc n a b) (fun s => s.whenReady [a, b] [] fun s =>
    let d : Desc := s.x b ++ s.x a
    if descOk d then s.atCommit fun s => .ok (s.setDesc n d).advance else .trap (illegalTrap (.tdesc n a b)) s) s

def execTclsSet (n : Idx3) (c : BitVec 3) (s : State) : Out :=
  runMat (.tclsSet n c) (fun s =>
    let d := dSetClass (s.desc n) c.toNat
    if descOk d then s.atCommit fun s => .ok (s.setDesc n d).advance else .trap (illegalTrap (.tclsSet n c)) s) s

def execTclsRd (d : Reg) (n : Idx3) (h : Bool) (s : State) : Out :=
  runMat (.tclsRd d n h) (fun s =>
    if dRows (s.desc n) ≠ 0 ∧ descOk (s.desc n) = false then .trap (illegalTrap (.tclsRd d n h)) s
    else s.whenReady [] [d] fun s => s.atCommit fun s => s.finX d ((s.desc n).extractLsb' (if h then 64 else 0) 64)) s

def execMwld (b : Bool) (n : Idx3) (kp : BitVec 3) (s : State) : Out :=
  commitIf (.mwld b n kp) (fun s => s.ctx.m.loadOk b (s.desc n) kp.toNat) (fun s => .load b (s.desc n) kp.toNat) s

def execMswap (s : State) : Out := commitIf .mswap (fun _ => true) (fun _ => .swap) s

def execMmul (set : Bool) (f : MmTy) (t n : Idx3) (kp : BitVec 3) (s : State) : Out :=
  runMat (.mmul set f t n kp) (fun s =>
    let d := s.desc n
    if s.ctx.m.streamOk f d kp.toNat then
      s.commitMat [.mul set f t d kp.toNat (dRows d) none] (burst (dRows d) (s.ctx.m.against f))
    else .trap (illegalTrap (.mmul set f t n kp)) s) s

def execMmulx (set : Bool) (f : MmTy) (t n : Idx3) (b c : Reg) (kp : BitVec 3) (s : State) : Out :=
  runMat (.mmulx set f t n b c kp) (fun s => s.whenReady [b, c] [] fun s =>
    let d := s.desc n
    let m := (s.x c).toNat
    let list := (s.x b).toNat
    if !s.ctx.m.streamOk f d kp.toNat ∨ m = 0 ∨ 128 < m then .trap (illegalTrap (.mmulx set f t n b c kp)) s
    else if Config.spadBytes < list + m then .trap (spadTrap s.ctx.asid .read list) s
    else s.commitMat [.mul set f t d kp.toNat m (some list)] (burst m (s.ctx.m.against f))) s

def execMrd (d : Reg) (t : Idx3) (row : BitVec 7) (s : State) : Out :=
  commitIf (.mrd d t row) (fun s => decide (row.toNat + s.ctx.v.rc ≤ 128)) (fun s => .read d t row.toNat s.ctx.v.rc) s

def execMwr (t : Idx3) (v : Reg) (row : BitVec 7) (s : State) : Out :=
  commitIf (.mwr t v row) (fun s => decide (row.toNat + s.ctx.v.rc ≤ 128)) (fun s => .write t v row.toNat s.ctx.v.rc) s

def execTld (t n : Idx3) (s : State) : Out :=
  commitIf (.tld t n) (fun s => tldOk (s.desc n)) (fun s => .tld t (s.desc n)) s

def execTst (sat : Bool) (n t : Idx3) (s : State) : Out :=
  commitIf (.tst sat n t) (fun s => tstOk (s.desc n)) (fun s => .tst sat (s.desc n) t) s

def execTcvt (n m : Idx3) (s : State) : Out :=
  commitIf (.tcvt n m) (fun s => tcvtOk (s.desc n) (s.desc m)) (fun s => .tcvt (s.desc n) (s.desc m)) s

/-- What `tzero` does to what a tile register names, if that is allowed. -/
def zeroOp (t : TReg) (d : Desc) : Option MOp :=
  if t.toNat < 8 then some (.zeroAcc (t.extractLsb' 0 3)) else if tzeroOk d then some (.zeroTile d) else none

def execTzero (t : TReg) (s : State) : Out :=
  runMat (.tzero t) (fun s =>
    match zeroOp t (s.desc (t.extractLsb' 0 3)) with
    | some op => s.commitMat [op] none
    | none => .trap (illegalTrap (.tzero t)) s) s

/-! ## Accumulator rows and tile bytes as the stream reaches them -/

/-- The key of an accumulator row. -/
def accKey (t : Idx3) (row : Nat) : Nat := 128 * t.toNat + row

/-- An accumulator row. -/
def Mat.row (m : Mat) (k : Nat) : Row := Sparse.get 0#4096 m.acc k
/-- Write an accumulator row, clean or poisoned. -/
def Mat.setRow (m : Mat) (k : Nat) (x : Row) (bad : Bool) : Mat :=
  let rest := m.accPoison.filter (· != k)
  { m with acc := Sparse.set 0#4096 m.acc k x, accPoison := if bad then k :: rest else rest }

/-- A row of elements at a width. -/
def rowOf (w : Nat) (l : List Nat) : Row := BitVec.ofNat 4096 (l.foldr (fun x acc => x % 2 ^ w + 2 ^ w * acc) 0)

/-- A row already injected that has not yet been written (08 R193). -/
def Mat.busy (m : Mat) (k : Nat) : Bool := m.pend.any fun p => decide (p.row = k)
def Mat.busyAcc (m : Mat) (t : Idx3) : Bool := m.pend.any fun p => decide (p.row / 128 = t.toNat)

/-- A byte of the scratchpad at a logical offset as an entry reads it (17 R370): no held store is visible to the matrix stream
(02 R70). -/
def State.tileByte (s : State) (spz : Word) (a : Nat) : Byte := s.ctx.spad.byte (swizzle spz a)

/-- The first poisoned byte of some. -/
def State.tileBad (s : State) (spz : Word) (l : List Nat) : Option Nat :=
  l.find? fun a => s.ctx.spad.poison.contains (swizzle spz a / 8)

/-- Write bytes to the scratchpad at logical offsets: they perform now, as stores in the execute hart's program order. A word that they
fill is no longer poisoned. -/
def State.matWrite (s : State) (spz : Word) (l : List (Nat × Byte)) : State :=
  let ps := l.map fun (a, b) => (swizzle spz a, b)
  let places := ps.map (·.1)
  let c := (memRuns ps).foldl (fun c (a, bs) => c.putSpad (c.hartKey .exe) a bs []) s.ctx
  s.setCtx { c with spad := { c.spad with
    poison := c.spad.poison.filter fun w => !((List.range 8).all fun i => places.contains (8 * w + i)) } }

/-- OR flags into the copy of the streams (06 R141). -/
def State.matFlags (s : State) (f : BitVec 8) : State :=
  s.setCtx { s.ctx with v := { s.ctx.v with lfstat := s.ctx.v.lfstat ||| f } }

def State.setMat (s : State) (m : Mat) : State := s.setCtx { s.ctx with m := m }

/-! ## The stream -/

/-- What an entry comes to at a step: finished, one row injected with rows left, not yet able to go on, or poison read, at an
address and with TINFO. -/
inductive MRan
  | done (s : State) | more (s : State) | wait | poison (addr info : Word)

/-- Poison read from the scratchpad or from an accumulator row. -/
def spadPoison (a : Nat) : MRan := .poison (BitVec.ofNat 64 a) (checkInfo 0 3)
def accPoisoned : MRan := .poison 0#64 (checkInfo 0 4)

/-- Load a weight tile (R363). -/
def State.loadWeights (s : State) (rd : Nat → Byte) (bank : Bool) (d : Desc) (kp : Nat) : State :=
  let b := if bank then 1 else 0
  let m := s.ctx.m
  let m := if kp ≠ 0 then m
    else
      let m := { m with wts := m.wts.filter (fun c => c.1 / 131072 != b), wscale := m.wscale.filter (fun c => c.1 / 4096 != b) }
      if bank then { m with wfmt1 := some (weightFmt d) } else { m with wfmt0 := some (weightFmt d) }
  let wts := (List.range (dRows d)).reverse.foldl (fun w j => (List.range (dCols d)).reverse.foldl (fun w k =>
    Sparse.set 0 w (131072 * b + 1024 * j + 128 * kp + k) (tileCode rd d j k)) w) m.wts
  let wscale := if dClass d ≠ 3 then m.wscale
    else (List.range (dRows d)).foldl (fun w j => (List.range ((dCols d + 31) / 32)).foldl (fun w g =>
      Sparse.set 127#8 w (4096 * b + 32 * j + 4 * kp + g) (BitVec.ofNat 8 (tileScale rd d j (32 * g)))) w) m.wscale
  s.setMat { m with wts := wts, wscale := wscale }

/-- The result of one activation row against the active bank (R365): the row and its flags. K of 06 R150 is the tile's columns: beyond
them every product of a group is an exact zero. -/
def Mat.streamRow (m : Mat) (rd : Nat → Byte) (set : Bool) (f : MmTy) (d : Desc) (kp r key : Nat) : Row × BitVec 8 :=
  let b := if m.act then 1 else 0
  let g := if m.act then m.wfmt1 else m.wfmt0
  let w := if f = .f64 then 64 else 32
  let a := (List.range 128).map fun k => if k < dCols d then tileCode rd d r k else 0
  let xa := (List.range 4).map fun k => if f = .fp4 ∧ 32 * k < dCols d then tileScale rd d r (32 * k) else 127
  let z := m.row key
  let rs := (List.range (MmTy.columns f)).map fun j =>
    let bs := (List.range 128).map fun k => Sparse.get 0 m.wts (131072 * b + 1024 * j + 128 * kp + k)
    let xb := (List.range 4).map fun k => (Sparse.get 127#8 m.wscale (4096 * b + 32 * j + 4 * kp + k)).toNat
    dotAccumulate f g (if set then 0 else rowElem w z j) (dCols d) a bs xa xb
  (rowOf w (rs.map (·.1)), rs.foldl (fun fl x => fl ||| x.2) 0#8)

/-- A stream injects its next row, or passes over an index beyond the tile (R365). -/
def State.injectRow (s : State) (e : MEntry) (set : Bool) (f : MmTy) (t : Idx3) (d : Desc) (kp n : Nat) (list : Option Nat) : MRan :=
  let rd := s.tileByte e.spz
  let key := accKey t e.next
  let m := s.ctx.m
  let go (s : State) : MRan := if e.next + 1 < n then .more s else .done s
  match list.bind fun o => s.tileBad e.spz [o + e.next] with
  | some a => spadPoison a
  | none =>
    let r := match list with
      | some o => (rd (o + e.next)).toNat
      | none => e.next
    if dRows d ≤ r then go s
    else if m.busy key then .wait
    else
      match s.tileBad e.spz (tileBytes rd d [r]) with
      | some a => spadPoison a
      | none =>
        if !set && m.accPoison.contains key then accPoisoned
        else
          let (x, fl) := m.streamRow rd set f d kp r key
          let p : PendRow := { row := key, val := x, flags := fl, bank := m.act, failed := false, leave := e.leave }
          go (s.setMat { m with pend := m.pend ++ [p] })

/-- The FP32 or int32 value of an element for `tld` (R367). -/
def tldElem (rd : Nat → Byte) (d : Desc) (i j : Nat) : FRes :=
  let c := tileCode rd d i j
  if dClass d = 4 ∨ dFmt d = 2 then (ofSigned 32 (toSigned 8 c), 0#8)
  else if dClass d = 3 then
    let x := tileScale rd d i j
    if x = 255 then (ffmt .f32).giveNan true
    else (ffmt .f32).give .rne false (((ffmt .fp4).decode c).scaled ((x : Int) - 127))
  else if dFmt d = 7 then (c, 0#8)
  else (ffmt .f32).give .rne false ((ffmt (dTy d)).decode c)

/-- The bytes of one row of packed codes of w bits at an offset; a nibble left over keeps its byte's other half. -/
def packRow (rd : Nat → Byte) (w base : Nat) (l : List Nat) : List (Nat × Byte) :=
  if w = 4 then
    (List.range ((l.length + 1) / 2)).map fun i =>
      (base + i, BitVec.ofNat 8 (l.getD (2 * i) 0 + 16 * l.getD (2 * i + 1) ((rd (base + i)).toNat / 16)))
  else (l.zipIdx).flatMap fun (x, j) => ((toBytes (w / 8) x).zipIdx).map fun (b, i) => (base + j * w / 8 + i, b)

/-- One row of `tst`: the bytes written and the flags (R367). DESIGN CHOICE: a NaN for a DENSE FP32 tile becomes the canonical NaN, with NV
where it signals, as rounding to FMT gives it, though 06 R137 lets stores keep every bit (notes/assumptions 81). -/
def tstRow (rd : Nat → Byte) (sat : Bool) (d : Desc) (x : Row) (i : Nat) : List (Nat × Byte) × BitVec 8 :=
  let es := (List.range (dCols d)).map fun j => rowElem 32 x j
  let base := dBase d + i * dLdim d
  if dClass d = 3 then
    let scales := (List.range ((dCols d + 31) / 32)).map fun g => sclOf 3 (((es.drop (32 * g)).take 32).map (ffmt .f32).decode)
    let rs := (es.zipIdx).map fun (e, j) => qnt1 .fp4 .f32 .rne sat e (scales.getD (j / 32) 0)
    (packRow rd 4 base (rs.map (·.1)) ++ (scales.zipIdx).map fun (c, g) => (dAux d + 4 * i + g, BitVec.ofNat 8 c),
      rs.foldl (fun fl r => fl ||| r.2) 0#8)
  else
    let rs : List FRes := es.map fun e =>
      if dFmt d = 2 then
        let v := toSigned 32 e
        let c := max (-128) (min 127 v)
        (ofSigned 8 c, if c = v then 0#8 else Flag.sat)
      else (ffmt (dTy d)).give .rne (sat && decide (dFmt d ≤ 1)) ((ffmt .f32).decode e)
    (packRow rd (dW d) base (rs.map (·.1)), rs.foldl (fun fl r => fl ||| r.2) 0#8)

/-- The codes of row i of a tile. -/
def tileRow (rd : Nat → Byte) (d : Desc) (i : Nat) : List Nat := (List.range (dCols d)).map (tileCode rd d i)

/-- The bitmap of a tile's blocks that hold a nonzero bit pattern (R368). -/
def bitmapOf (rd : Nat → Byte) (d : Desc) : Nat :=
  ((List.range ((dRows d + 15) / 16)).flatMap fun bi => (List.range ((dCols d + 15) / 16)).map fun bj =>
    let any := (List.range 16).any fun i => (List.range 16).any fun j =>
      decide (16 * bi + i < dRows d) && decide (16 * bj + j < dCols d) && decide (tileCode rd d (16 * bi + i) (16 * bj + j) ≠ 0)
    if any then 2 ^ (8 * bi + bj) else 0).sum

/-- The blocks of R154 of a tile of INT8 codes in element order. -/
def planeBlocks (base : Nat) (codes : List Nat) : List (Nat × Byte) :=
  (List.range ((codes.length + 255) / 256)).flatMap fun b => (List.range 8).flatMap fun p => (List.range 32).map fun i =>
    (base + 256 * b + 32 * p + i, BitVec.ofNat 8 ((List.range 8).map fun k =>
      if (codes.getD (256 * b + 8 * i + k) 0).testBit (7 - p) then 2 ^ k else 0).sum)

/-- The bytes that `tcvt` writes (R368). -/
def tcvtBytes (rd : Nat → Byte) (n m : Desc) : List (Nat × Byte) :=
  let rows := List.range (dRows m)
  if dClass n = 1 then
    let map := bitmapOf rd m
    (rows.flatMap fun i => (List.range (dCols m)).flatMap fun j =>
      if map.testBit (8 * (i / 16) + j / 16) then
        ((toBytes (dW m / 8) (tileCode rd m i j)).zipIdx).map fun (b, k) => (cellAt n i j + k, b)
      else []) ++ ((toBytes 8 map).zipIdx).map fun (b, k) => (dAux n + k, b)
  else if dClass n = 4 then planeBlocks (dBase n) (rows.flatMap (tileRow rd m))
  else rows.flatMap fun i => packRow rd (dW n) (dBase n + i * dLdim n) (tileRow rd m i)

/-- The bytes that `tzero` writes (R369). DESIGN CHOICE: of MX4 the scale bytes are one for each 32 columns that the tile has (06 R156), and
not all four of a row (17 R357; notes/assumptions 82). -/
def tzeroBytes (rd : Nat → Byte) (d : Desc) : List (Nat × Byte) :=
  let rows := List.range (dRows d)
  let zeros (l : List Nat) : List (Nat × Byte) := l.map fun a => (a, 0#8)
  match dClass d with
  | 1 =>
    zeros ((rows.flatMap fun i => (List.range (dCols d)).flatMap fun j =>
      if present rd d i j then (List.range (dW d / 8)).map (cellAt d i j + ·) else []) ++ (List.range 8).map (dAux d + ·))
  | 2 => zeros (rows.flatMap fun i => (List.range (dRank d * dW d / 8)).map (dBase d + i * dLdim d + ·))
  | 3 =>
    zeros (rows.flatMap fun i => (List.range (dRb d)).map (dBase d + i * dLdim d + ·)) ++
    rows.flatMap fun i => (List.range ((dCols d + 31) / 32)).map fun g => (dAux d + 4 * i + g, 0x7F#8)
  | 4 => zeros ((List.range (256 * ((dRows d * dCols d + 255) / 256))).map (dBase d + ·))
  | _ => zeros (rows.flatMap fun i => (List.range (dRb d)).map (dBase d + i * dLdim d + ·))

/-- An operand of ADD: the value of element (i, j) (R375). -/
def addElem (m : Mat) (rd : Nat → Byte) (x : Idx3 ⊕ Desc) (i j : Nat) : Num :=
  match x with
  | .inl t => (ffmt .f32).decode (rowElem 32 (m.row (accKey t i)) j)
  | .inr d => (ffmt (dTy d)).decode (tileCode rd d i j)

/-- The accumulator rows and the tile bytes that operands of ADD read. -/
def addAccs (rows : Nat) : List (Idx3 ⊕ Desc) → List Nat
  | [] => []
  | .inl t :: l => (List.range rows).map (accKey t) ++ addAccs rows l
  | .inr _ :: l => addAccs rows l
def addBytes (rd : Nat → Byte) : List (Idx3 ⊕ Desc) → List Nat
  | [] => []
  | .inl _ :: l => addBytes rd l
  | .inr d :: l => tileBytes rd d (List.range (dRows d)) ++ addBytes rd l

/-- ADD (R375): elements within the shape, the others unchanged. -/
def State.addTiles (s : State) (rd : Nat → Byte) (t : Idx3) (a b : Idx3 ⊕ Desc) (rows cols : Nat) : State :=
  let m := s.ctx.m
  let out := (List.range rows).map fun i =>
    let rs := (List.range cols).map fun j => (ffmt .f32).finish .rne false ((addElem m rd a i j).add .rne (addElem m rd b i j))
    let old := m.row (accKey t i)
    let keep := (List.range (128 - cols)).map fun j => rowElem 32 old (cols + j)
    (i, rowOf 32 (rs.map (·.1) ++ keep), rs.foldl (fun fl r => fl ||| r.2) 0#8)
  let s := s.setMat (out.foldl (fun m (i, x, _) => m.setRow (accKey t i) x (decide (cols < 128) && m.accPoison.contains (accKey t i))) m)
  s.matFlags (out.foldl (fun fl (_, _, f) => fl ||| f) 0#8)

/-- The vector register of `mrd` or `mwr` is free: no pending token names it (08 R181). No virtual processor runs: `mrd` writes whole rows,
the elements of any one with them (08 R186). -/
def Context.vregFree (c : Context) (r : Reg) : Bool :=
  !(c.cmds.any fun k => decide (k.hart = .exe) && decide (k.tok = r))
def Context.lanesIdle (c : Context) : Bool := !(c.vps.any fun p => decide (p.st = .running))

/-- When no poisoned byte is read, go on. -/
def State.cleanBytes (s : State) (spz : Word) (l : List Nat) (f : MRan) : MRan :=
  match s.tileBad spz l with
  | some a => spadPoison a
  | none => f
/-- When no poisoned accumulator row is read, go on. -/
def Mat.cleanRows (m : Mat) (l : List Nat) (f : MRan) : MRan := if l.any m.accPoison.contains then accPoisoned else f

/-- The oldest entry of the matrix command queue. -/
def State.runMatrix (s : State) (e : MEntry) : MRan :=
  let rd := s.tileByte e.spz
  let m := s.ctx.m
  let all (d : Desc) : List Nat := tileBytes rd d (List.range (dRows d))
  match e.op with
  | .load bank d kp =>
    if m.pend.any (fun p => decide (p.bank = bank)) then .wait
    else s.cleanBytes e.spz (all d) (.done (s.loadWeights rd bank d kp))
  | .swap => .done (s.setMat { m with act := !m.act })
  | .mul set f t d kp n list => s.injectRow e set f t d kp n list
  | .read d t row rc =>
    let keys := (List.range rc).map fun r => accKey t (row + r)
    if keys.any m.busy || !s.ctx.vregFree d || !s.ctx.lanesIdle then .wait
    else m.cleanRows keys (.done (s.setCtx { s.ctx with
      v := (keys.zipIdx).foldl (fun v (k, r) => v.setRow d.toNat r (m.row k)) s.ctx.v }))
  | .write t v row rc =>
    let keys := (List.range rc).map fun r => accKey t (row + r)
    if keys.any m.busy || !s.ctx.vregFree v then .wait
    else .done (s.setMat ((keys.zipIdx).foldl (fun m (k, r) => m.setRow k (s.ctx.v.row v.toNat r) false) m))
  | .tld t d =>
    if m.busyAcc t then .wait
    else s.cleanBytes e.spz (all d)
      (let out := (List.range (dRows d)).map fun i => (List.range (dCols d)).map fun j => tldElem rd d i j
       let m := (List.range 128).foldl (fun m i => m.setRow (accKey t i) (rowOf 32 ((out.getD i []).map (·.1))) false) m
       .done ((s.setMat m).matFlags (out.foldl (fun fl l => l.foldl (fun fl r => fl ||| r.2) fl) 0#8)))
  | .tst sat d t =>
    let keys := (List.range (dRows d)).map (accKey t)
    if m.busyAcc t then .wait
    else m.cleanRows keys
      (let out := (List.range (dRows d)).map fun i => tstRow rd sat d (m.row (accKey t i)) i
       .done ((s.matWrite e.spz (out.flatMap (·.1))).matFlags (out.foldl (fun fl r => fl ||| r.2) 0#8)))
  | .tcvt n d => s.cleanBytes e.spz (all d) (.done (s.matWrite e.spz (tcvtBytes rd n d)))
  | .zeroAcc t =>
    if m.busyAcc t then .wait
    else .done (s.setMat ((List.range 128).foldl (fun m i => m.setRow (accKey t i) 0#4096 false) m))
  | .zeroTile d =>
    s.cleanBytes e.spz (if dClass d = 1 then (List.range 8).map (dAux d + ·) else []) (.done (s.matWrite e.spz (tzeroBytes rd d)))
  | .add t a b rows cols =>
    if m.busyAcc t || (addAccs rows [a, b]).any m.busy then .wait
    else m.cleanRows (addAccs rows [a, b]) (s.cleanBytes e.spz (addBytes rd [a, b]) (.done (s.addTiles rd t a b rows cols)))

/-- The oldest entry leaves the queue. -/
def State.dropMat (s : State) : State := s.setMat { s.ctx.m with mq := s.ctx.m.mq.drop 1 }

/-- The scratchpad bytes that the next step of an entry reads, those that it writes, and both, by logical offset. -/
def State.matReads (s : State) (e : MEntry) : List Nat :=
  let rd := s.tileByte e.spz
  let all (d : Desc) : List Nat := tileBytes rd d (List.range (dRows d))
  match e.op with
  | .load _ d _ | .tld _ d => all d
  | .mul _ _ _ d _ _ list =>
    match list with
    | some o => (o + e.next) :: tileBytes rd d [(rd (o + e.next)).toNat]
    | none => tileBytes rd d [e.next]
  | .tcvt _ d => all d
  | .zeroTile d => if dClass d = 1 then (List.range 8).map (dAux d + ·) else []
  | .add _ a b _ _ => addBytes rd [a, b]
  | .tst _ _ _ | .swap | .read _ _ _ _ | .write _ _ _ _ | .zeroAcc _ => []
def State.matWrites (s : State) (e : MEntry) : List Nat :=
  let rd := s.tileByte e.spz
  match e.op with
  | .tst sat d t => (List.range (dRows d)).flatMap fun i => (tstRow rd sat d (s.ctx.m.row (accKey t i)) i).1.map (·.1)
  | .tcvt n d => (tcvtBytes rd n d).map (·.1)
  | .zeroTile d => (tzeroBytes rd d).map (·.1)
  | .load _ _ _ | .tld _ _ | .mul _ _ _ _ _ _ _ | .add _ _ _ _ _ | .swap | .read _ _ _ _ | .write _ _ _ _ | .zeroAcc _ => []
def State.matTouches (s : State) (e : MEntry) : List Nat := s.matReads e ++ s.matWrites e

/-- The stream has read the bytes of an entry's step: the execute hart has acquired the stores it reads (04 R107). -/
def State.matSeen (s : State) (e : MEntry) : State := s.readSpad (s.ctx.hartKey .exe) none ((s.matReads e).map (swizzle e.spz))

/-- Where an entry would meet a store that the strip holds, the strip becomes irrevocable first. DESIGN CHOICE: 04 R103 lets the entry
see the store and 02 R70 hides it while it is held (notes/assumptions 57). -/
def State.beforeMat (s : State) (e : MEntry) : State :=
  match s.ctx.strip with
  | none => s
  | some p =>
    if p.held.any (·.spad) && (s.matTouches e).any fun a => (s.ctx.heldByte true (swizzle e.spz a)).isSome then s.irrevocable else s

/-- ES and FMR name where an entry that is saved for replay resumes. -/
def Resume.keep (r : Resume) (sr : SRegs) : SRegs :=
  match r with
  | .fresh => sr
  | .elem row k => { sr with es := esOf row k }
  | .mask m => { sr with fmr := m }

/-- The entry at the head of the queue has trapped. -/
def State.tellMat (s : State) : State := s.setMat { s.ctx.m with mq := List.modifyAt s.ctx.m.mq 0 fun e => { e with told := true } }

/-- A machine check of the matrix stream on the execute hart; in the handler it is a double trap (11 R244). The entry stays in its queue
and executes after `tret`. Vector entries that wait for the entry are saved, with VS = 1; any other completes first (11 R239, R240;
notes/assumptions 66). -/
def State.matTrap (s : State) (e : MEntry) (t : Trap) : State :=
  if s.ctx.xh.handler then s.takeTrap .exe t e.pc s.ctx.xh.pc false
  else
    match s.ctx.v.vq with
    | [] => (s.tellMat.interrupt .exe).takeTrap .exe t e.pc s.ctx.xh.pc false
    | h :: _ =>
      if s.ctx.matHolds h then
        let s := s.tellMat.interrupt .exe
        let c := s.ctx
        (s.setCtx { c with v := { c.v with vq := [], saved := c.v.vq },
                           sr := { h.resume.keep c.sr with tqp := BitVec.ofNat 64 (2 ^ 63 + c.v.vq.length % 64 * 256 + h.pos) } }).takeTrap
          .exe t e.pc c.xh.pc true
      else s

/-- An entry that reads poison: the strip rewinds and, if it issued the entry, issues it again; or the execute hart takes a machine check
(11 R251, R255). -/
def State.matPoison (s : State) (e : MEntry) (addr info : Word) : State :=
  match s.consume true addr info with
  | .rewind t | .ok t | .stall _ t => if e.strip then t.dropMat else t
  | .trap t u => u.matTrap e t

/-- MATRIX_ENTRY_EXECUTE. An entry that has trapped and would trap again waits for the handler's end (notes/assumptions 66). -/
def execMatrixEntryExecute (s : State) : Out :=
  match s.ctx.m.mq with
  | [] => .next s
  | e :: _ =>
    if s.ctx.place ≠ .active then .next s
    else
      let s := s.beforeMat e
      match (s.matSeen e).runMatrix e with
      | .done t => .next t.dropMat
      | .more t => .next (t.setMat { t.ctx.m with mq := List.modifyAt t.ctx.m.mq 0 fun e => { e with next := e.next + 1 } })
      | .wait => .next s
      | .poison a i => .next (if e.told && s.ctx.xh.handler then s else s.matPoison e a i)

/-! ## Rows complete (08 R193, 11 R253, R254) -/

/-- A computed row is written, and its chaining bit is released. -/
def State.writeRow (s : State) (p : PendRow) (bad : Bool) : State :=
  let m := s.ctx.m
  let x := if bad then m.row p.row else p.val
  (s.setMat ({ m with pend := m.pend.filter fun q => decide (q.row ≠ p.row) }.setRow p.row x bad)).matFlags (if bad then 0#8 else p.flags)

/-- ACCUMULATOR_ROW_COMPLETE: the oldest row whose check is outstanding passes or fails it. -/
def execAccumulatorRowComplete (pass : Bool) (s : State) : Out :=
  match s.ctx.m.pend.find? fun p => !p.failed with
  | none => .next s
  | some p =>
    if s.ctx.place = .empty then .next s
    else if pass then .next (s.writeRow p false)
    else
      let m := s.ctx.m
      .next (s.setMat { m with pend := m.pend.map fun q => if q.row = p.row then { q with failed := true } else q })

/-- ROW_RECOMPUTE: a row that failed its check is computed once again from the same operands; it is written clean and the failure
counted, or written poisoned. -/
def execRowRecompute (pass : Bool) (s : State) : Out :=
  match s.ctx.m.pend.find? fun p => p.failed with
  | none => .next s
  | some p =>
    if s.ctx.place = .empty then .next s
    else if pass then
      let t := s.writeRow p false
      .next { t with notices := t.notices ++ [Notice.rowFailure s.ctx.core p.row] }
    else .next (s.writeRow p true)

end Sys2Proof.Machine
end

