-- ==== Sys2Proof/Machine/Send.lean ====
section
/-! DEFINITION. Method tables, `send` and the routines it enters (17 R371 to R379), and the matrix state in the trap handler
(11 R245). -/

namespace Sys2Proof.Machine

/-! ## Methods (17 R371 to R374) -/

/-- Fields of a method table entry. -/
def mSel (m : Method) : Nat := bits m.toNat 0 8
def mCa (m : Method) : Nat := bits m.toNat 16 4
def mCb (m : Method) : Nat := bits m.toNat 20 4
def mRoutine (m : Method) : Bool := m.getLsbD 24
def mOvr (m : Method) : Bool := m.getLsbD 25
def mFcls (m : Method) : Nat := bits m.toNat 26 3
def mRule (m : Method) : Nat := bits m.toNat 29 3
def mBop (m : Method) : Nat := bits m.toNat 40 8
def mAddr (m : Method) : Word := m.extractLsb' 64 64

/-- Two entries have the same key. -/
def sameKey (a b : Method) : Bool := decide (mSel a = mSel b) && decide (mCa a = mCa b) && decide (mCb a = mCb b)

/-- The lowest REASON for which an entry is malformed, after the entries before it (R372). -/
def methodReason (before : List Method) (m : Method) : Option Nat :=
  let n := m.toNat
  let a := mAddr m
  if bits n 48 16 ≠ 0 ∨ bits n 32 8 ≠ 0 ∨ bits n 8 8 ≠ 0 then some 1
  else if 8 < mCa m ∨ 8 < mCb m then some 2
  else if 4 < mRule m ∨ (mFcls m ≠ 0 ∧ mRule m ≠ 4) then some 3
  else if mBop m ≠ 0 ∧ (mRoutine m ∨ 4 < mBop m) then some 4
  else if 6 ≤ mSel m ∧ mSel m ≤ 15 then some 5
  else if before.any (sameKey m) then some 6
  else if (if mRoutine m then !canonical a || decide (a.toNat % 8 ≠ 0) else decide (a ≠ 0#64)) then some 7
  else none

/-- The first malformed entry of a table: its index and REASON. -/
def tableReason : Nat → List Method → List Method → Option (Nat × Nat)
  | _, _, [] => none
  | i, before, m :: t =>
    match methodReason before m with
    | some r => some (i, r)
    | none => tableReason (i + 1) (before ++ [m]) t

/-- The entries that bytes hold. -/
def methodsOf (n : Nat) (bs : List Byte) : List Method :=
  (List.range n).map fun i => BitVec.ofNat 128 (ofBytes ((bs.drop (16 * i)).take 16))

/-- A method found: whether it is a built-in binding, LEVEL, the entry's index and bits. -/
structure Found' where
  layer : Bool
  level : Nat
  index : Nat
  m : Method
  deriving DecidableEq, Repr

/-- A built-in binding as an entry: BOP and RULE. -/
def builtin (bop rule : Nat) : Method := BitVec.ofNat 128 (bop * 2 ^ 40 + rule * 2 ^ 29)

/-- The built-in binding of a selector and classes (R373). -/
def binding (sel ca cb : Nat) : Option Method :=
  let plain (c : Nat) : Bool := decide (c = 0) || decide (c = 1) || decide (c = 3)
  match sel with
  | 0 => if plain ca && (plain cb || decide (cb = 4)) then some (builtin 0 1) else none
  | 1 => if plain ca && (plain cb || decide (cb = 4)) then some (builtin 1 1) else none
  | 2 => if ca = 0 ∧ cb = 0 then some (builtin 2 1) else none
  | 3 => if plain ca || decide (ca = 4) then some (builtin 3 0) else none
  | 4 => some (builtin 4 0)
  | _ => none

/-- The entry of the store with a key. -/
def storeHas (l : List Method) (sel ca cb : Nat) : Option (Nat × Method) :=
  (l.zipIdx.find? fun (m, _) => decide (mSel m = sel) && decide (mCa m = ca) && decide (mCb m = cb)).map fun (m, i) => (i, m)

/-- Lookup (R374): an exact entry; else the first wildcard entry that stands, when there is no binding or it has OVR; else the
binding. -/
def lookup (l : List Method) (sel ca cb : Nat) : Option Found' :=
  let bi := binding sel ca cb
  let layer := bi.map fun m => { layer := true, level := 0, index := 0, m := m : Found' }
  match storeHas l sel ca cb with
  | some (i, m) => some { layer := false, level := 0, index := i, m := m }
  | none =>
    let wild (x y lv : Nat) : Option Found' :=
      (storeHas l sel x y).map fun (i, m) => { layer := false, level := lv, index := i, m := m }
    match (wild ca 8 1).or ((wild 8 cb 2).or (wild 8 8 3)) with
    | some e => if bi.isNone || mOvr e.m then some e else layer
    | none => layer

/-! ## Operands of `send` -/

/-- The class of what a tile register names; an accumulator counts as DENSE (R354). -/
def State.classOf (s : State) (t : TReg) : Nat := if t.toNat < 8 then 0 else dClass (s.desc (t.extractLsb' 0 3))

/-- The accumulator or the descriptor that a tile register names. -/
def State.operand (s : State) (t : TReg) : Idx3 ⊕ Desc :=
  if t.toNat < 8 then .inl (t.extractLsb' 0 3) else .inr (s.desc (t.extractLsb' 0 3))

/-- SENDARG.DEPTH (R376). -/
def State.depth (s : State) : Nat := bits s.ctx.sr.sendarg.toNat 20 4

/-- MISSING_METHOD (R379). -/
def State.missing (s : State) (kind index sel ca cb reason : Nat) : Trap :=
  { cause := Cause.missingMethod, addr := 0#64,
    info := BitVec.ofNat 64 (kind * 2 ^ 32 + index * 2 ^ 24 + sel * 2 ^ 16 + s.depth * 2 ^ 12 + cb * 2 ^ 8 + ca * 2 ^ 4 + reason) }

/-- The class that a method's rule gives (R375). -/
def ruleClass (m : Method) (own ca cb : Nat) : Nat :=
  match mRule m with
  | 0 => own
  | 1 => 0
  | 2 => ca
  | 3 => cb
  | _ => mFcls m

/-- The rows and columns of an operand of ADD, when ADD accepts it. -/
def addShape : Idx3 ⊕ Desc → Option (Nat × Nat)
  | .inl _ => some (128, 128)
  | .inr d => if descOk d && decide (dClass d = 0) && decide (dFmt d ≠ 2) then some (dRows d, dCols d) else none

/-- The activation type of a tile, when it may be streamed. -/
def actType (d : Desc) : Option MmTy :=
  match weightFmt d with
  | .fmt f => if actFits f d then some f else none
  | .bp _ => none

/-- The steps of a built-in operation and the cost of its burst, when its operands are right (R375). -/
def State.builtinSteps (s : State) (bop : Nat) (td : TReg) (d a b : Idx3 ⊕ Desc) : Option (List MOp × Option Nat) :=
  let m := s.ctx.m
  match bop with
  | 0 | 1 =>
    match d, a, b with
    | .inl t, .inr ta, .inr tb =>
      match actType ta with
      | some f =>
        let bank := !m.cact
        if descOk ta && m.loadOk bank tb 0 && decide (dRows tb ≤ MmTy.columns f) && decide (dCols tb = dCols ta) &&
            pairs f (some (weightFmt tb)) then
          some ([.load bank tb 0, .swap, .mul (decide (bop = 1)) f t ta 0 (dRows ta) none], burst (dRows ta) (weightFmt tb))
        else none
      | none => none
    | _, _, _ => none
  | 2 =>
    match d, addShape a, addShape b with
    | .inl t, some x, some y => if x = y then some ([.add t a b x.1 x.2], none) else none
    | _, _, _ => none
  | 3 =>
    match d, a with
    | .inl t, .inr ta => if tldOk ta then some ([.tld t ta], none) else none
    | .inr n, .inl t => if tstOk n then some ([.tst false n t], none) else none
    | .inr n, .inr ta => if tcvtOk n ta then some ([.tcvt n ta], none) else none
    | .inl _, .inl _ => none
  | _ =>
    match d with
    | .inl t => some ([.zeroAcc t], none)
    | .inr n => (zeroOp td n).map fun op => ([op], none)

/-- A descriptor that a routine's `send` names is valid (R357). -/
def operandOk : Idx3 ⊕ Desc → Bool
  | .inl _ => true
  | .inr d => descOk d

/-- `send` (R374, R375, R376). -/
def execSend (sel : BitVec 8) (td ta tb : TReg) (s : State) : Out :=
  runMat (.send sel td ta tb) (fun s =>
    let ca := s.classOf ta
    let cb := s.classOf tb
    match lookup s.ctx.m.methods sel.toNat ca cb with
    | none => .trap (s.missing 0 0 sel.toNat ca cb 0) s
    | some e =>
      let cls := ruleClass e.m (s.classOf td) ca cb
      if td.toNat < 8 ∧ cls ≠ 0 then .trap (s.missing 2 e.index sel.toNat ca cb 0) s
      else
        let n := td.extractLsb' 0 3
        let t := if td.toNat < 8 then s else s.setDesc n (dSetClass (s.desc n) cls)
        if mRoutine e.m then
          if !operandOk (s.operand ta) || !operandOk (s.operand tb) then .trap (illegalTrap (.send sel td ta tb)) s
          else if s.depth = 8 then .trap (s.missing 1 e.index sel.toNat ca cb 0) s
          else
            s.whenReady [] [31#5] fun s => s.atCommit fun s =>
              let arg := (s.depth + 1) * 2 ^ 20 + sel.toNat * 2 ^ 12 + td.toNat * 2 ^ 8 + ta.toNat * 2 ^ 4 + tb.toNat
              let c := t.ctx
              let u := t.setCtx { c with m := { c.m with sendstk := c.sr.sendarg :: c.m.sendstk },
                                         sr := { c.sr with sendarg := BitVec.ofNat 64 arg } }
              .ok ((u.setX 31#5 (s.pc + 8#64)).setPc (mAddr e.m))
        else
          match t.builtinSteps (mBop e.m) td (t.operand td) (t.operand ta) (t.operand tb) with
          | none => .trap (illegalTrap (.send sel td ta tb)) s
          | some (ops, cost) =>
            match t.commitMat ops cost with
            | .ok u => .ok u
            | .stall w u => .stall w (u.setCtx { u.ctx with m := s.ctx.m })
            | r => r) s

/-- `mtld` (R372). DESIGN CHOICE: SEL, CA and CB of TINFO, and INDEX where the table has no bad entry, are 0 for KIND 3 (17 R379 does not say;
notes/assumptions 32). -/
def execMtld (a b : Reg) (s : State) : Out :=
  runMat (.mtld a b) (fun s => s.whenReady [a, b] [] fun s => s.memOrder false false fun s => s.atCommit fun s =>
    let n := (s.x b).toNat
    let put (s : State) (l : List Method) : Res := .ok (s.setMat { s.ctx.m with methods := l }).advance
    if 256 < n then .trap (s.missing 3 0 0 0 0 8) s
    else if (s.x a).toNat % 16 ≠ 0 then .trap (s.missing 3 0 0 0 0 9) s
    else if n = 0 then put s []
    else s.loadV .plain (s.x a) (16 * n) .rlx fun bs s =>
      let l := methodsOf n bs
      match tableReason 0 [] l with
      | some (i, r) => .trap (s.missing 3 i 0 0 0 r) s
      | none => put s l) s

/-- `mtq` (R378). DESIGN CHOICE: a null or invalid descriptor answers by its class, without a trap, as R378 says of every answer, though R357
makes ILLEGAL of an instruction that names one (notes/assumptions 86). -/
def execMtq (d : Reg) (sel : BitVec 8) (ta tb : TReg) (s : State) : Out :=
  runMat (.mtq d sel ta tb) (fun s => s.whenReady [] [d] fun s => s.atCommit fun s =>
    s.finX d (match lookup s.ctx.m.methods sel.toNat (s.classOf ta) (s.classOf tb) with
      | none => 0#64
      | some e =>
        BitVec.ofNat 64 (2 ^ 63 + (if e.layer then 2 ^ 62 else 0) + e.level * 2 ^ 60 + (if mRoutine e.m then 2 ^ 59 else 0) +
          mRule e.m * 2 ^ 56 + mFcls e.m * 2 ^ 53 + (if mRoutine e.m then 0 else mBop e.m * 2 ^ 40) + e.index * 2 ^ 32))) s

/-- `sdret` (R377). -/
def execSdret (s : State) : Out :=
  runMat .sdret (fun s => s.whenReady [31#5] [] fun s =>
    match s.ctx.m.sendstk with
    | [] => .trap (illegalTrap .sdret) s
    | arg :: t =>
      if (s.x 31#5).toNat % 8 ≠ 0 then s.jump (s.x 31#5) false
      else s.atCommit fun s =>
      let c := s.ctx
      (s.setCtx { c with m := { c.m with sendstk := t }, sr := { c.sr with sendarg := arg } }).jump (s.x 31#5) false) s

/-! ## Matrix state in the handler (11 R245) -/

/-- Bytes of the frame, and of its rows of tiles. -/
def frameBytes : Nat := 0xA4000
def frameRows : Nat := 0x80000

/-- The frame address is 4 KiB aligned and the frame lies wholly in the handler window. -/
def State.frameOk (s : State) (a : Word) : Bool :=
  let hw := s.ctx.sr.hwin
  decide (a.toNat % 4096 = 0) && decide ((a - hwinBase hw).toNat + frameBytes ≤ hwinSize hw)

/-- The words of a frame that the spec leaves to the device (log 15). -/
def frameRest (mark : Nat) : List Byte :=
  (List.range ((frameBytes - frameRows) / 8)).flatMap fun i => toBytes 8 (Config.controlBlock (32768 * mark + i)).toNat

/-- HSTAT.TS. -/
def State.setTs (s : State) (b : Bool) : State :=
  let h := s.hs.t.hstat
  s.setHs { s.hs with t := { s.hs.t with hstat := if b then h ||| 2#64 else h &&& ~~~2#64 } }

/-- The physical piece of an accumulator row in a frame, whose pages are of 4 KiB. -/
def frameRow (ps : List (Nat × Nat)) (k : Nat) : Option (Nat × Nat) := (ps[k / 8]?).map fun p => (p.1 + 512 * (k % 8), 512)

/-- `tsave`: rows already injected complete first; what is saved leaves the array in its start state, and a poisoned row is written as
poisoned (11 R255). -/
def execTsave (a : Reg) (s : State) : Out :=
  runExe (.tsave a) (fun s => s.whenReady [a] [] fun s =>
    let va := s.x a
    if !s.hs.handler || s.hs.ts then .trap (illegalTrap (.tsave a)) s
    else if !s.frameOk va then .trap (alignTrap va 4096) s
    else if s.ctx.v.vq ≠ [] ∨ s.ctx.m.pend ≠ [] then .stall .other s
    else
      let m := s.ctx.m
      let (mark, s) := s.draw
      let rows := (List.range 1024).flatMap fun k => toBytes 512 (m.row k).toNat
      s.reach (s.req .write) va frameBytes fun ps s =>
        let bad : List Held := m.accPoison.filterMap fun k => (frameRow ps k).map fun p =>
          { spad := false, addr := p.1, bytes := toBytes 512 (m.row k).toNat, bad := true }
        let s := s.emitAll s.isExe [] (pieceStores ps (rows ++ frameRest mark) ++ bad)
        let f : TFrame :=
          { mark := mark, mq := m.mq, desc := m.desc, wts := m.wts, wscale := m.wscale, wfmt0 := m.wfmt0, wfmt1 := m.wfmt1,
            act := m.act, cfmt0 := m.cfmt0, cfmt1 := m.cfmt1, cact := m.cact, poisoned := m.accPoison }
        .ok ((s.setMat { Mat.start with frame := some f, methods := m.methods, sendstk := m.sendstk }).setTs true).advance) s

/-- `tload`: the rows come from the frame, and its device words must be those that `tsave` wrote. A row saved as poisoned that still is
comes back poisoned; other poison is consumed (11 R245, R255; notes/assumptions 67). -/
def execTload (a : Reg) (s : State) : Out :=
  runExe (.tload a) (fun s => s.whenReady [a] [] fun s =>
    let va := s.x a
    if !s.hs.handler || !s.hs.ts then .trap (illegalTrap (.tload a)) s
    else if !s.frameOk va then .trap (alignTrap va 4096) s
    else if !s.drained then .stall .other s
    else s.reach (s.req .read) va frameBytes fun ps s =>
      match s.ctx.m.frame with
      | some f =>
        let bad := f.poisoned.filter fun k => ((frameRow ps k).bind fun p => s.badPiece [p]).isSome
        let other := (List.range 1024).filterMap fun k => if bad.contains k then none else frameRow ps k
        let bs := s.ctxBytes ps
        match s.badPiece (other ++ ps.drop (frameRows / 4096)) with
        | some pa => s.consume s.isExe va (poisonInfo pa)
        | none =>
        let s := s.readPieces .rlx ps
        if bs.drop frameRows ≠ frameRest f.mark then .trap { cause := Cause.machineCheck, addr := va, info := 0#64 } s
        else
          let acc := (List.range 1024).reverse.foldl (fun l k =>
            Sparse.set 0#4096 l k (BitVec.ofNat 4096 (ofBytes ((bs.drop (512 * k)).take 512)))) []
          let m : Mat := { s.ctx.m with
            mq := f.mq, acc := acc, accPoison := bad, desc := f.desc, wts := f.wts, wscale := f.wscale, wfmt0 := f.wfmt0,
            wfmt1 := f.wfmt1, act := f.act, cfmt0 := f.cfmt0, cfmt1 := f.cfmt1, cact := f.cact, frame := none }
          .ok ((s.setMat m).setTs false).advance
      | none => .trap { cause := Cause.machineCheck, addr := va, info := 0#64 } s) s

end Sys2Proof.Machine
end

