-- ==== Sys2Proof/Machine/Launch.lean ====
section
/-! DEFINITION. Launch records, their checks, the dealing of items over dies, and submission (10 R207 to R211, R427). -/

namespace Sys2Proof.Machine

/-! ## The record (10 R207, 08 R188) -/

abbrev LRec := BitVec 2048

def lXentry (r : LRec) : Word := r.extractLsb' 0 64
def lAentry (r : LRec) : Word := r.extractLsb' 64 64
def lCtl (r : LRec) : Word := r.extractLsb' 128 64
def lMtab (r : LRec) : Word := r.extractLsb' 192 64
def lCw (r : LRec) : Word := r.extractLsb' 256 64
def lLevel (r : LRec) (i : Nat) : Nat := bits r.toNat (384 + 64 * i) 64
def lWindow (r : LRec) (i : Nat) : BitVec 128 := r.extractLsb' (896 + 128 * i) 128
def lAsid (r : LRec) : BitVec 12 := (lCtl r).extractLsb' 52 12
def lMtn (r : LRec) : Nat := bits (lCtl r).toNat 40 9
def lNlev (r : LRec) : Nat := bits (lCtl r).toNat 32 4
def lPrio (r : LRec) : Nat := bits (lCtl r).toNat 0 3

/-- A level: its domain, scope and extent. -/
structure Level where
  dom : Nat
  scope : Nat
  ext : Nat
  deriving DecidableEq, Repr

/-- The levels in use, outermost first, and those that are scheduled (08 R189). -/
def lLevels (r : LRec) : List Level :=
  (List.range (min (lNlev r) 8)).map fun i =>
    let n := lLevel r i
    { dom := bits n 32 3, scope := bits n 36 3, ext := bits n 0 32 }
def lSched (r : LRec) : List Level := (lLevels r).filter fun l => l.dom ≠ 0

/-- The least scope of a domain. -/
def leastScope (dom : Nat) : Nat := if dom ≤ 2 then 0 else dom - 2

/-- Domains do not widen inward. -/
def narrowing : List Level → Bool
  | a :: b :: t => decide (b.dom ≤ a.dom) && narrowing (b :: t)
  | _ => true

/-- The levels keep 08 R188, with a valid scope and extent. -/
def levelsOk (ls : List Level) : Bool :=
  narrowing ls && ls.all fun l => decide (l.dom ≤ 5) && decide (l.scope ≤ 4) && decide (l.ext ≠ 0) && decide (leastScope l.dom ≤ l.scope)

/-- A reserved field of the record is nonzero. -/
def reservedSet (r : LRec) : Bool :=
  let n := r.toNat
  let c := (lCtl r).toNat
  decide (bits n 1920 128 ≠ 0) || decide (bits n 320 64 ≠ 0) || decide (bits c 49 3 ≠ 0) || decide (bits c 36 4 ≠ 0) ||
  decide (bits c 16 16 ≠ 0) || decide (bits c 3 9 ≠ 0) ||
  (List.range 8).any (fun i => decide (bits (lWindow r i).toNat 96 32 ≠ 0)) ||
  (List.range (min (lNlev r) 8)).any fun i => decide (bits (lLevel r i) 39 25 ≠ 0) || decide (bits (lLevel r i) 35 1 ≠ 0)

/-- CWADDR leaves a word to write. -/
def cwOk (r : LRec) : Bool := canonical (lCw r) && decide ((lCw r).toNat % 8 = 0)

/-! ## Residence and readiness (10 R225, R427) -/

/-- A die is ready. -/
def State.dieReady (s : State) (d : Nat) : Bool := decide (bits (Sparse.get 0#64 s.dev.rdydie d).toNat 0 6 = 63)
def State.readyDies (s : State) : List Nat := (List.range 8).filter s.dieReady

/-- A launch is resident; some launch is. -/
def Launch.resident (l : Launch) : Bool := !l.written
def State.anyResident (s : State) : Bool := s.launches.any (·.resident)

/-! ## The checks (10 R208) -/

/-- The ASID's entry of the ASID table is enabled. -/
def State.asidOn (s : State) (asid : BitVec 12) : Bool :=
  let at_ := bits s.dev.xatb.toNat 15 37 * 32768 + 8 * asid.toNat
  s.dev.xatb.getLsbD 0 && s.backed at_ && (s.num .walk at_ 8).testBit 63

/-- What the checks come to: passed, with the method table; failed at a check; or waiting on a page with HOLD. -/
inductive Checked
  | pass (l : List Method) (s : State) | fail (n : Nat) (s : State) | wait (va : Word) (pages : Nat)

/-- The method table of a record, as `mtld` would load it (17 R372). -/
def State.readTable (s : State) (home : Nat) (r : LRec) : Checked :=
  let n := lMtn r
  if 256 < n then .fail 7 s
  else if n = 0 then .pass [] s
  else if (lMtab r).toNat % 16 ≠ 0 then .fail 7 s
  else
    match s.xlAll { core := Config.coresPerDie * home, asid := lAsid r, k := .read } (lMtab r) (16 * n) with
    | (.ok ps, t) =>
      let l := methodsOf n (ps.flatMap fun (a, k) => t.bytes .sys a k)
      if (tableReason 0 [] l).isSome || (t.engBad ps).isSome then .fail 7 t else .pass l t
    | (.fault _ _ _, t) => .fail 7 t
    | (.hold va _ pages, _) => .wait va pages

/-- The checks of R208 in order; `parent` is the ASID that a spawned launch must have. -/
def State.checkLaunch (s : State) (home : Nat) (parent : Option (BitVec 12)) (r : LRec) : Checked :=
  let target (a : Word) : Bool := canonical a && decide (a.toNat % 8 = 0)
  if reservedSet r then .fail 1 s
  else if lNlev r = 0 ∨ 8 < lNlev r then .fail 2 s
  else if !levelsOk (lLevels r) then .fail 3 s
  else if !target (lAentry r) || !target (lXentry r) then .fail 4 s
  else if !s.asidOn (lAsid r) then .fail 5 s
  else if (List.range 8).any fun i =>
      decide (bits (lWindow r i).toNat 64 32 ≠ 0) && !canonical ((lWindow r i).extractLsb' 0 64) then .fail 6 s
  else
    match s.readTable home r with
    | .fail n t => .fail n t
    | .wait va pages => .wait va pages
    | .pass l t =>
      if t.launches.any fun x => x.resident && decide (lCw x.rcd = lCw r) then .fail 8 t
      else if (parent.map fun a => decide (a ≠ lAsid r)).getD false then .fail 9 t
      else .pass l t

/-! ## Items and dealing (08 R189, 10 R210) -/

/-- The product of extents: the leaf items below. -/
def leaves (ls : List Level) : Nat := (ls.map (·.ext)).prod
def Launch.total (l : Launch) : Nat := leaves (lSched l.rcd)

/-- The level deals its items round-robin over the ready dies: a die level whose scope is wider than one die. -/
def Level.deals (l : Level) : Bool := decide (l.dom = 4) && decide (2 < l.scope)

/-- The die of child k of an item at a die. -/
def childDie (dies : List Nat) (home : Nat) (l : Level) (die k : Nat) : Nat :=
  if l.dom = 5 then home
  else if l.deals then dies.getD ((dies.idxOf die + k) % dies.length) home
  else die

/-- The die of a leaf item below an item at a die. -/
def leafDie (dies : List Nat) (home : Nat) : List Level → Nat → Nat → Nat
  | [], die, _ => die
  | l :: t, die, i => leafDie dies home t (childDie dies home l die (i / leaves t % l.ext)) (i % leaves t)

/-- The leaf items at a die below an item at another. -/
def leafCount (dies : List Nat) (home target : Nat) : List Level → Nat → Nat
  | [], die => if die = target then 1 else 0
  | l :: t, die =>
    if l.dom = 5 then l.ext * leafCount dies home target t home
    else if l.deals then
      let n := dies.length
      ((List.range n).map fun o =>
        (l.ext + (n - 1 - o)) / n * leafCount dies home target t (dies.getD ((dies.idxOf die + o) % n) home)).sum
    else l.ext * leafCount dies home target t die

/-- The k-th leaf item at a die, in item order. -/
def leafNth (dies : List Nat) (home target : Nat) : List Level → Nat → Nat → Option Nat
  | [], die, k => if die = target ∧ k = 0 then some 0 else none
  | l :: t, die, k =>
    let pick (c d r : Nat) : Option Nat :=
      if c < l.ext then (leafNth dies home target t d r).map fun i => c * leaves t + i else none
    if l.deals then
      let n := dies.length
      let cs := (List.range n).map fun o =>
        let d := dies.getD ((dies.idxOf die + o) % n) home
        (d, leafCount dies home target t d)
      let per := (cs.map (·.2)).sum
      if per = 0 then none
      else
        let r := k % per
        (cs.zipIdx).findSome? fun ((d, c), o) =>
          let before := ((cs.take o).map (·.2)).sum
          if before ≤ r ∧ r < before + c then pick (k / per * n + o) d (r - before) else none
    else
      let d := if l.dom = 5 then home else die
      let c := leafCount dies home target t d
      if c = 0 then none else pick (k / c) d (k % c)

/-- The die of an item; the items of a die; the first one not yet placed. -/
def Launch.dieOfItem (l : Launch) (item : Nat) : Nat := leafDie l.dies l.home (lSched l.rcd) l.home item
def Launch.share (l : Launch) (die : Nat) : Nat := leafCount l.dies l.home die (lSched l.rcd) l.home
def Launch.hasPlaced (l : Launch) (item : Nat) : Bool := l.placed.any fun p => decide (p.1 = item)
def Launch.placedAt (l : Launch) (die : Nat) : Nat := (l.placed.filter fun p => decide (dieOf p.2 = die)).length
def Launch.nextAt (l : Launch) (die : Nat) : Option Nat :=
  (List.range (l.placedAt die + 1)).findSome? fun k =>
    match leafNth l.dies l.home die (lSched l.rcd) l.home k with
    | some i => if l.hasPlaced i then none else some i
    | none => none

/-! ## Queues (10 R211) -/

def State.dieQueue (s : State) (die ep : Nat) : List Nat := Sparse.get [] s.queues (8 * die + ep)
def State.setQueueOf (s : State) (die ep : Nat) (l : List Nat) : State := { s with queues := Sparse.set [] s.queues (8 * die + ep) l }

/-- The dies to whose queues a launch is dealt. -/
def Launch.dealt (l : Launch) : List Nat := l.dies.filter fun d => l.share d ≠ 0

/-- Every queue that the launch needs has room. -/
def State.roomFor (s : State) (l : Launch) : Bool := l.dealt.all fun d => decide ((s.dieQueue d l.ep).length < 128)

/-- A launch as accepted. -/
def State.newLaunch (s : State) (r : LRec) (home : Nat) (viaHost : Bool) (parent : Option Nat) : Launch :=
  { id := s.nextId, rcd := r, home := home, dies := s.readyDies, viaHost := viaHost, parent := parent, ep := lPrio r, methods := [],
    placed := [], gangs := [], ended := [], placedSinceTick := false, faulted := none, killed := false, aborted := none,
    flags := 0#8, written := false, status := 0 }

/-- What a submission whose record was read comes to. -/
inductive Taken
  | ok (id : Nat) (s : State) | full (s : State) | wait (va : Word) (pages : Nat)

/-- Check a record and accept it, whole or to be completed with STATUS 3, unless a queue it needs is full. -/
def State.takeLaunch (s : State) (r : LRec) (home : Nat) (viaHost : Bool) (parent : Option (Nat × BitVec 12)) : Taken :=
  match s.checkLaunch home (parent.map Prod.snd) r with
  | .wait va pages => .wait va pages
  | .fail n t =>
    let l : Launch := { (t.newLaunch r home viaHost (parent.map Prod.fst)) with aborted := some n }
    .ok l.id { t with nextId := t.nextId + 1, launches := t.launches ++ [l] }
  | .pass ms t =>
    let l : Launch := { (t.newLaunch r home viaHost (parent.map Prod.fst)) with methods := ms }
    if t.roomFor l then
      let t := l.dealt.foldl (fun t d => t.setQueueOf d l.ep (t.dieQueue d l.ep ++ [l.id])) t
      .ok l.id { t with nextId := t.nextId + 1, launches := t.launches ++ [l] }
    else .full t

/-! ## LSUB (10 R209) -/

/-- LSUB of a die after a submission: its address, ERR and ECODE. -/
def State.setLsub (s : State) (die : Nat) (addr : BitVec 44) (ecode : Nat) : State :=
  let w := BitVec.ofNat 64 ((if ecode = 0 then 0 else 2 ^ 62 + ecode * 2 ^ 58) + addr.toNat * 256)
  { s with dev := { s.dev with lsub := Sparse.set 0#64 s.dev.lsub die w } }

/-- A submission of a die stands with GO = 1: the address, and whether it came over the host port. -/
def State.pendingLsub (s : State) (die : Nat) : Option (BitVec 44 × Bool) :=
  let w := Sparse.get 0#64 s.dev.lsub die
  if w.getLsbD 63 then some (w.extractLsb' 8 44, s.dev.lsubHost.contains die) else none

/-- LSUB of a die keeps GO until the record is read: its method table stands on a page with HOLD (01 R31), or a restore runs (02 R76). -/
def State.holdLsub (s : State) (die : Nat) (addr : BitVec 44) (host : Bool) : State :=
  { s with dev := { s.dev with
      lsub := Sparse.set 0#64 s.dev.lsub die (BitVec.ofNat 64 (2 ^ 63 + addr.toNat * 256)),
      lsubHost := if host then addKey die s.dev.lsubHost else s.dev.lsubHost.filter (· ≠ die) } }

/-- LSUB_SUBMIT: nothing while the scheduler's readiness bit is 0, or for a submission of the host while the host port's is (10 R225); else the causes of refusal in their order, then the checks,
then the queues. A write while GO = 1 is ignored; the event then goes on with the submission that stands. -/
def execLsubSubmit (die : Idx3) (addr : BitVec 44) (host : Bool) (s : State) : Out :=
  let d := die.toNat
  let (addr, host) := (s.pendingLsub d).getD (addr, host)
  let a := addr.toNat * 256
  let s' := s.pkgEvent
  if !(Sparse.get 0#64 s.dev.rdydie d).getLsbD 5 then .next s
  else if (s.pendingLsub d).isNone && (if host then !s.dev.rdyhub.getLsbD 1 else s.dev.bootstat.getLsbD 62) then .next s
  else if s.dev.ckpt.restoring then .next (s.holdLsub d addr host)
  else if !s.dieReady d then .next (s'.setLsub d addr 4)
  else if !s.backed a then .next (s'.setLsub d addr 3)
  else
    let r : LRec := BitVec.ofNat 2048 (s.num .sys a 256)
    if !cwOk r then .next (s'.setLsub d addr 2)
    else
      match s'.takeLaunch r d host none with
      | .ok _ t => .next (t.setLsub d addr 0)
      | .full t => .next (t.setLsub d addr 1)
      | .wait _ _ => .next (s.holdLsub d addr host)

end Sys2Proof.Machine
end

