-- ==== Sys2Proof/Machine/StateRegs.lean ====
section
/-! DEFINITION. The state registers (14 R306, R307, 13 R279) and the rules of 06 R140, R141, R146, 08 R174, R177, R189, 09 R204,
11 R236, R237, R243, R249, 03 R82. -/

namespace Sys2Proof.Machine

/-- The writer slot of a hart in a bank of a core, as the key of its MCC (03 R82). -/
def slotOf (core bank : Nat) (h : HartId) : Nat := 4 * core + 2 * bank + (match h with | .acc => 0 | .exe => 1)

/-- Read a state register as the hart in focus sees it. -/
def State.readReg (s : State) (r : Srn) : Word :=
  let c := s.ctx
  match r with
  | .fctl => c.sr.fctl
  | .fstat => c.fstat.zeroExtend 64
  | .vtype => c.v.vtype.zeroExtend 64
  | .vl => BitVec.ofNat 64 c.v.vl
  | .rc => BitVec.ofNat 64 c.v.rc
  | .spz => c.sr.spz
  | .qdir => c.sr.qdir.zeroExtend 64
  | .mcc => (Sparse.get 0#24 s.dev.mcc (slotOf c.core c.bank s.hart)).zeroExtend 64
  | .hwin => c.sr.hwin
  | .pto => c.sr.pto
  | .sendarg => c.sr.sendarg
  | .tcause => s.hs.t.tcause
  | .taddr => s.hs.t.taddr
  | .tpc => s.hs.t.tpc
  | .tnpc => s.hs.t.tnpc
  | .tinfo => s.hs.t.tinfo
  | .tsp => s.hs.t.tsp
  | .hstat => s.hs.t.hstat
  | .es => c.sr.es
  | .ftr => c.sr.ftr
  | .tqp => c.sr.tqp
  | .fmr i => c.sr.fmr.extractLsb' (64 * i.toNat) 64
  | .wix i => Sparse.get 0#64 c.sr.wix i.toNat
  | .wext i => Sparse.get 1#64 c.sr.wext i.toNat
  | .rfrb => c.sr.rfrb
  | .rdrb => c.sr.rdrb
  | .rib i => Sparse.get 0#64 c.sr.rib i.toNat

/-- A write is refused for the hart, the mode or the field's access: PRIV. -/
def State.writePriv (s : State) (r : Srn) : Bool :=
  match r with
  | .fctl | .fstat | .vtype | .vl | .rc => decide (s.hart = .acc)
  | .spz | .qdir | .pto | .ftr | .rfrb | .rdrb | .rib _ => false
  | .hwin => s.hs.handler
  | .mcc | .sendarg | .tcause | .taddr | .tpc | .tinfo | .hstat | .tqp | .wix _ | .wext _ => true
  | .tnpc | .tsp | .es | .fmr _ => !s.hs.handler

/-- HWIN may hold the value (11 R243). -/
def hwinOk (w : Word) : Bool :=
  let first := hwinBase w
  let last := first.toNat + hwinSize w - 1
  decide (bits w.toNat 57 6 = 0) && decide (bits w.toNat 4 17 = 0) && decide (last < 2 ^ 64) &&
  decide (bits last 56 1 = bits first.toNat 56 1)

/-- A ring register may hold the value (09 R204). -/
def ringOk (w : Word) : Bool := decide (bits w.toNat 57 6 = 0) && decide (bits w.toNat 0 7 = 0)

/-- The register may hold the value. -/
def State.writeOk (s : State) (r : Srn) (w : Word) : Bool :=
  let n := w.toNat
  match r with
  | .fctl => decide (n / 2 ^ 14 = 0) && decide (bits n 3 5 = 0) && decide (bits n 0 3 ≤ 4)
  | .fstat => decide (n < 2 ^ 8)
  | .vtype => decide (n < 2 ^ 8) && vtOk (BitVec.ofNat 8 n)
  | .vl => decide (n ≤ vtMax s.ctx.v.vtype)
  | .rc => decide (1 ≤ n) && decide (n ≤ 16)
  | .spz => (List.range 16).all fun i => decide (bits n (4 * i) 4 ≤ 4)
  | .qdir => decide (n < 2 ^ 8) && s.ctx.q.isEmpty
  | .hwin => hwinOk w
  | .pto => decide (n < 2 ^ 32)
  | .es => decide (n < 2 ^ 15)
  | .ftr => decide (bits n 11 52 = 0)
  | .rfrb | .rdrb | .rib _ => ringOk w
  | .mcc | .sendarg | .tcause | .taddr | .tpc | .tnpc | .tinfo | .tsp | .hstat | .tqp | .fmr _ | .wix _ | .wext _ => true

/-- The trap of a refused write, PRIV before a refused value; `i` is the instruction. -/
def State.writeTrap (s : State) (i : Instr) (r : Srn) (w : Word) : Option Trap :=
  if s.writePriv r then some (privTrap i)
  else if s.writeOk r w then none
  else
    match r with
    | .qdir => some { cause := Cause.queueIllegal, addr := 0#64, info := 0x100#64 }
    | _ => some (illegalTrap i)

/-- Write a state register. -/
def State.writeReg (s : State) (r : Srn) (w : Word) : State :=
  let c := s.ctx
  let sr (f : SRegs) : State := s.setCtx { c with sr := f }
  let trap (f : TrapRegs) : State := s.setHs { s.hs with t := f }
  match r with
  | .fctl => sr { c.sr with fctl := w }
  | .fstat =>
    let f := w.extractLsb' 0 8
    s.setCtx { c with ah := { c.ah with fstat := f }, xh := { c.xh with fstat := f }, v := { c.v with lfstat := f } }
  | .vtype => s.setCtx { c with v := c.v.setVtype (w.extractLsb' 0 8) }
  | .vl => s.setCtx { c with v := { c.v with vl := w.toNat } }
  | .rc => s.setCtx { c with v := { c.v with rc := w.toNat } }
  | .spz => sr { c.sr with spz := w }
  | .qdir => sr { c.sr with qdir := w.extractLsb' 0 8 }
  | .hwin => sr { c.sr with hwin := w }
  | .pto => sr { c.sr with pto := w }
  | .tnpc => trap { s.hs.t with tnpc := w }
  | .tsp => trap { s.hs.t with tsp := w }
  | .es => sr { c.sr with es := w }
  | .ftr => sr { c.sr with ftr := w }
  | .fmr i => sr { c.sr with fmr := BitVec.ofNat 512 (setBits c.sr.fmr.toNat (64 * i.toNat) 64 w.toNat) }
  | .rfrb => sr { c.sr with rfrb := w }
  | .rdrb => sr { c.sr with rdrb := w }
  | .rib i => sr { c.sr with rib := Sparse.set 0#64 c.sr.rib i.toNat w }
  | .mcc | .sendarg | .tcause | .taddr | .tpc | .tinfo | .hstat | .tqp | .wix _ | .wext _ => s

/-- A read or write of FSTAT waits for every entry issued earlier (08 R181, 14 R306). -/
def State.afterEntries (s : State) (r : Srn) (f : State → Res) : Res :=
  match r with
  | .fstat => if s.drained then f s else .stall .other s
  | _ => f s

/-- `sget`. -/
def execSget (d : Reg) (r : Srn) (s : State) : Out :=
  runBoth (fun s => s.whenReady [] [d] fun s => s.afterEntries r fun s => s.finX d (s.readReg r)) s

/-- PRIV is found before an operand is waited for (13 R285). -/
def State.unlessPriv (s : State) (i : Instr) (r : Srn) (f : State → Res) : Res :=
  if s.writePriv r then .trap (privTrap i) s else f s

/-- `sset`. -/
def execSset (r : Srn) (a : Reg) (s : State) : Out :=
  runBoth (fun s => s.unlessPriv (.sset r a) r fun s => s.whenReady [a] [] fun s =>
    match s.writeTrap (.sset r a) r (s.x a) with
    | some t => .trap t s
    | none => s.afterEntries r fun s => .ok (s.writeReg r (s.x a)).advance) s

/-- `sxchg`: the write check comes first, then the read. -/
def execSxchg (d : Reg) (r : Srn) (a : Reg) (s : State) : Out :=
  runBoth (fun s => s.unlessPriv (.sxchg d r a) r fun s => s.whenReady [a] [d] fun s =>
    match s.writeTrap (.sxchg d r a) r (s.x a) with
    | some t => .trap t s
    | none => s.afterEntries r fun s => ((s.writeReg r (s.x a))).finX d (s.readReg r)) s

end Sys2Proof.Machine
end

