-- ==== Sys2Proof/Machine/Majority.lean ====
section
/-! DEFINITION. Majority cells (03 R77 to R94, 16 R347): the store and load protocols, the replicas' writes and answers, and the
MCC of a writer slot. -/

namespace Sys2Proof.Machine

/-! ## Tags and results (03 R79, R82, R85) -/

/-- The counter of a tag. -/
def tagCount (t : Word) : Nat := bits t.toNat 40 24

/-- The writer field of a slot, in place. -/
def writerField (core bank : Nat) (h : HartId) : Nat :=
  core * 2 ^ 28 + (match h with | .acc => 0 | .exe => 2 ^ 27) + bank * 2 ^ 24

/-- The result word. -/
def resultWord (tag : Word) (wb deg : Bool) (status : Nat) : Word :=
  BitVec.ofNat 64 (bits tag.toNat 24 40 * 2 ^ 24 + (if wb then 8 else 0) + (if deg then 4 else 0) + status)

/-- The MCC of a slot, and its change. -/
def State.mccOf (s : State) (k : Nat) : Nat := (Sparse.get 0#24 s.dev.mcc k).toNat
def State.setMcc (s : State) (k n : Nat) : State := { s with dev := { s.dev with mcc := Sparse.set 0#24 s.dev.mcc k (BitVec.ofNat 24 n) } }

/-- A stack marked lost in MCLOST (03 R89). -/
def State.stackLost (s : State) (stk : Nat) : Bool := s.dev.mclost.getLsbD stk

/-- The replicas of a set: number and stack. -/
def State.replicas (s : State) (i : Nat) : List (Nat × Nat) := ((msetStacks (s.mset i)).zipIdx).map fun (k, j) => (j, k)

/-- The majority of a set of n replicas. -/
def majorityOf (n : Nat) : Nat := (n + 1) / 2

/-- The physical address of the replica in a stack. -/
def replicaAddr (stk pa : Nat) : Nat := stk * Config.stackBytes + pa % Config.stackBytes

/-! ## The replicas (03 R86, R90) -/

/-- A tagged write that a replica applies at its sector (03 R86). -/
def State.replicaWrite (s : State) (pa : Nat) (data : List Byte) (tag : Word) : Answer × State :=
  let sec := pa / 64
  let now := Sparse.get 0#64 s.sideband sec
  let was := s.poison.contains sec
  if was || decide (now.toNat < tag.toNat) then
    let s := (s.perform (pa / Config.stackBytes) .sys pa data).setPoison pa 64 false
    (.accept was, { s with sideband := Sparse.set 0#64 s.sideband sec tag })
  else (.reject now, s)

/-- The value of a replica. -/
def State.replicaRead (s : State) (pa : Nat) : Answer :=
  if s.poisoned pa 64 then .poisoned else .value (s.bytes .sys pa 64) (Sparse.get 0#64 s.sideband (pa / 64))

/-! ## Operations in flight -/

/-- Replace the operation of an id; one that no hart waits for is gone once it has its result. -/
def State.putOp (s : State) (m : MajOp) : State :=
  if m.orphan && m.result.isSome then { s with maj := s.maj.filter fun x => x.id ≠ m.id }
  else { s with maj := s.maj.map fun x => if x.id = m.id then m else x }

/-- An operation is of the hart in focus, as it is now or as an item before it left it behind. -/
def State.ofSlot (s : State) (m : MajOp) : Bool :=
  decide (m.core = s.ctx.core) && decide (m.bank = s.ctx.bank) && decide (m.hart = s.hart)

/-- The operation that the hart in focus has in flight. -/
def State.ownOp (s : State) : Option MajOp :=
  s.maj.find? fun m => s.ofSlot m && !m.orphan

/-- Size and majority of an operation's set. -/
def State.opN (s : State) (m : MajOp) : Nat := msetN (s.mset m.mset.toNat)
def MajOp.slot (m : MajOp) : Nat := slotOf m.core m.bank m.hart

/-- A store ends (03 R87). -/
def State.storeEnd (s : State) (m : MajOp) : State :=
  let n := s.opN m
  let deg := m.deg || decide (0 < m.lost)
  if majorityOf n ≤ m.acc then
    (s.setMcc m.slot (tagCount m.tag)).putOp { m with result := some (some ([], resultWord m.tag false deg 0)) }
  else if n - majorityOf n < m.rej + m.lost then
    let s := s.setMcc m.slot (max (tagCount m.tag) (tagCount m.newest))
    s.putOp { m with result := some (if m.rej = 0 then none else some ([], resultWord m.newest false deg 1)) }
  else s.putOp m

/-- A load returns (03 R88): the counter, the value of replica k, the result word. -/
def State.loadEnd (s : State) (m : MajOp) : State :=
  let u := m.newest
  let s := s.setMcc m.slot (max (s.mccOf m.slot) (tagCount u))
  let bytes := match m.good.find? fun g => g.2.2 = u with
    | some g => if u = 0#64 then List.replicate 64 0#8 else g.2.1
    | none => List.replicate 64 0#8
  let deg := !(m.bad.isEmpty && m.badLost.isEmpty)
  s.putOp { m with result := some (some (bytes, resultWord u m.wrote deg 0)) }

/-- The majority of a load has answered: the newest tag, the write-backs, and the wait for the stale members. -/
def State.loadMajority (s : State) (m : MajOp) : State :=
  let u : Word := m.good.foldl (fun u g => if u.toNat < g.2.2.toNat then g.2.2 else u) 0#64
  let sorted := m.good.filter fun g => g.2.2 = u
  let k := sorted.foldl (fun b g => if g.1 < b.1 then g else b) (sorted.headD (0, [], 0#64))
  let stale := (m.good.filter fun g => decide (g.2.2.toNat < u.toNat)).map (·.1)
  let stk (j : Nat) : Nat := msetStack (s.mset m.mset.toNat) j
  let send (op : Option Nat) (j : Nat) : RepWrite :=
    { op := op, replica := j, stk := stk j, pa := replicaAddr (stk j) m.pa, bytes := k.2.1, tag := u }
  let poisoned := m.bad.filter fun j => !s.stackLost (stk j)
  let s := { s with repWrites := s.repWrites ++ stale.map (send (some m.id)) ++ poisoned.map (send none) }
  let m := { m with newest := u, good := [k], stale := stale, wrote := !(stale.isEmpty && poisoned.isEmpty) }
  if stale.isEmpty then s.loadEnd m else s.putOp m

/-- An answer reaches an operation. -/
def State.deliver_ (s : State) (id replica : Nat) (ans : Answer) : State :=
  match s.maj.find? fun m => m.id = id with
  | none => s
  | some m =>
    if m.result.isSome then s
    else
      let n := s.opN m
      if m.store then
        match ans with
        | .accept was => s.storeEnd { m with acc := m.acc + 1, deg := m.deg || was }
        | .reject u => s.storeEnd { m with rej := m.rej + 1, newest := if m.newest.toNat < u.toNat then u else m.newest }
        | .lost | .poisoned | .value _ _ => s.storeEnd { m with lost := m.lost + 1 }
      else if m.stale.isEmpty then
        let bad (m : MajOp) : State :=
          if n - majorityOf n < m.bad.length + m.badLost.length then s.putOp { m with result := some none } else s.putOp m
        match ans with
        | .value bs t =>
          let m := { m with good := m.good ++ [(replica, bs, t)] }
          if majorityOf n ≤ m.good.length then s.loadMajority m else s.putOp m
        | .poisoned => bad { m with bad := m.bad ++ [replica] }
        | .lost => bad { m with badLost := m.badLost ++ [replica] }
        | .accept _ | .reject _ => s
      else
        let left := m.stale.filter (· ≠ replica)
        match ans with
        | .accept _ | .reject _ =>
          if m.stale.contains replica then
            if left.isEmpty then s.loadEnd { m with stale := [] } else s.putOp { m with stale := left }
          else s
        | .lost =>
          if m.stale.contains replica then
            let m := { m with badLost := m.badLost ++ [replica] }
            if left.isEmpty then s.loadEnd { m with stale := [] } else s.putOp { m with stale := left }
          else s
        | .value _ _ | .poisoned => s

/-- REPLICA_WRITE: the tagged write at a place of the list of those in flight reaches its replica. -/
def execReplicaWrite (k : Nat) (s : State) : Out :=
  match s.repWrites[k]? with
  | none => .next s
  | some w =>
    let s := { s with repWrites := s.repWrites.eraseIdx k }
    let (ans, s) := if s.stackLost w.stk then (Answer.lost, s) else s.replicaWrite w.pa w.bytes w.tag
    match w.op with
    | none => .next s
    | some id =>
      .next { s with repAnswers := s.repAnswers ++ [{ op := id, replica := w.replica, stk := w.stk, pa := w.pa, ans := some ans }] }

/-- MAJORITY_ANSWER: the request or answer at a place of the list arrives: a request reads the replica and turns into its answer,
and an answer reaches its operation. A stack lost meanwhile answers as lost. -/
def execMajorityAnswer (k : Nat) (s : State) : Out :=
  match s.repAnswers[k]? with
  | none => .next s
  | some r =>
    let s := { s with repAnswers := s.repAnswers.eraseIdx k }
    match r.ans with
    | none =>
      let ans := if s.stackLost r.stk then Answer.lost else s.replicaRead r.pa
      .next { s with repAnswers := s.repAnswers ++ [{ r with ans := some ans }] }
    | some a => .next (s.deliver_ r.op r.replica (if s.stackLost r.stk then .lost else a))

/-! ## The instructions (16 R347) -/

/-- MACHINE_CHECK of the protocols. DESIGN CHOICE: UNIT is 0, which 11 R255 gives no meaning with SRC 7 (notes/assumptions 55). -/
def majTrap (a : Word) : Trap := { cause := Cause.machineCheck, addr := a, info := checkInfo 0 7 }

/-- What the store of a tag carries, kept while some party may still acquire by it (04 R108, R111). -/
def State.keepRel (s : State) (pa : Nat) (tag : Word) (sync : List Sync) : State :=
  if sync = [] then s
  else
    let live := s.liveKeys
    { s with majRel := { pa := pa, tag := tag, sync := sync } :: s.majRel.filter fun r => r.sync.any fun y => live.contains y.key }

/-- An operation with an acquire has read a tag: its party acquires what the store of that tag to the cell carries, whichever replica's
address its page names (04 R106, R111, 01 R30). -/
def State.majAcquire (s : State) (pa : Nat) (ar : AcqRel) (w : Word) : State :=
  match ar.acqScope with
  | none => s
  | some sc =>
    let mine := s.majRel.filter fun r => decide (r.pa % Config.stackBytes = pa % Config.stackBytes) && decide (r.tag = w &&& 0xFFFFFFFFFF000000#64)
    s.acquireSyncs s.ctx.core s.party sc (mine.flatMap (·.sync))

/-- Begin the operation of an instruction: alignment, the page, MCBASE, the lost stacks; then send the requests and wait. `strip` makes an
open strip irrevocable (02 R71). -/
def State.majStart (s : State) (i : Instr) (store strip : Bool) (a : Word) (ar : AcqRel) (data : List Byte) (exhausted : Bool → State → Res) : Res :=
  if a.toNat % 64 ≠ 0 then .trap (alignTrap a 64) s
  else if !s.drained || s.maj.any s.ofSlot then .stall .other s
  else s.reach (s.req (if store then .majWrite else .majRead)) a 64 fun ps s =>
    if store && s.sysWait ar then .stall .other s.irrevocable else
    let pa := (ps.headD (0, 0)).1
    match s.cached s.ctx.core s.ctx.asid a.toNat with
    | none => .trap (majTrap a) s
    | some t =>
      let set := pteMSET t.pte.toNat
      let reps := s.replicas set
      let n := reps.length
      let lost := reps.filter fun r => s.stackLost r.2
      let live := reps.filter fun r => !s.stackLost r.2
      if !s.dev.mcbase.getLsbD 63 || decide (n - majorityOf n < lost.length) then .trap (majTrap a) s
      else
        let slot := slotOf s.ctx.core s.ctx.bank s.hart
        let s := if strip then s.irrevocable else s
        let (sync, s) := if store then s.releaseFor ar else ([], s)
        if store && decide (s.mccOf slot = 0xFFFFFF) then exhausted (!lost.isEmpty) s
        else
          let tag := BitVec.ofNat 64 ((s.mccOf slot + 1) * 2 ^ 40 + writerField s.ctx.core s.ctx.bank s.hart)
          let id := s.nextId
          let m : MajOp :=
            { id := id, instr := i, launch := s.ctx.launch, asid := s.ctx.asid, orphan := false, deg := false, core := s.ctx.core, bank := s.ctx.bank, hart := s.hart, store := store, addr := a, pa := pa,
              mset := BitVec.ofNat 4 set, tag := tag, acc := 0, rej := 0, lost := if store then lost.length else 0, newest := tag,
              good := [], bad := [], badLost := if store then [] else lost.map (·.1), stale := [], wrote := false, result := none }
          let s := { s with nextId := id + 1, maj := s.maj ++ [m] }
          let s := if store then
              { (s.keepRel pa tag sync) with repWrites := s.repWrites ++ live.map fun (j, k) =>
                  { op := some id, replica := j, stk := k, pa := replicaAddr k pa, bytes := data, tag := tag } }
            else
              { s with repAnswers := s.repAnswers ++ live.map fun (j, k) =>
                  { op := id, replica := j, stk := k, pa := replicaAddr k pa, ans := none } }
          .stall .majority s

/-- An instruction waits for the operation that it began, and goes on with its result once its destinations may be written; or it begins
one by `start`. An operation that the hart has left, to a trap or to another instruction, goes on without it (03 R87, R88). -/
def State.majRun (s : State) (i : Instr) (ws : List Reg) (ar : AcqRel) (start : State → Res) (f : List Byte → Word → State → Res) : Res :=
  match s.ownOp with
  | none => start s
  | some m =>
    if s.hs.wait ≠ .majority ∨ m.instr ≠ i then start (s.orphanOps s.hart)
    else
      match m.result with
      | none => .stall .majority s
      | some none => .trap (majTrap m.addr) { s with maj := s.maj.filter fun x => x.id ≠ m.id }
      | some (some (bs, w)) =>
        if s.ready [] ws then f bs w ({ s with maj := s.maj.filter fun x => x.id ≠ m.id }.majAcquire m.pa ar w)
        else .stall .majority s

/-- The instruction whose majority operation the hart in focus waits for: it goes on with the word and the operands that it began with,
which are not fetched or read again (03 R87, R88). -/
def State.midOp (s : State) : Option Instr := if s.hs.wait = .majority then s.ownOp.map (·.instr) else none

/-- Bytes 0 to 63 of row 0 of a register, and their replacement. -/
def Vec.cell (v : Vec) (d : Reg) : List Byte := toBytes 64 (v.row d.toNat 0).toNat
def Vec.setCell (v : Vec) (d : Reg) (bs : List Byte) : Vec :=
  let v := v.revive d.toNat 0
  v.setRaw d.toNat 0 (BitVec.ofNat 4096 (setBits (v.raw d.toNat 0).toNat 0 512 (ofBytes bs)))

/-- `mcld`. -/
def execMcld (d a b : Reg) (ar : AcqRel) (s : State) : Out :=
  let i : Instr := .mcld d a b ar
  runExe i (fun s => s.majRun i [d, b] ar
    (fun s => s.whenReady [a] [d, b] fun s => s.majStart i false true (s.x a) ar [] fun _ s => s.fin)
    fun bs w s => (s.setCtx { s.ctx with v := s.ctx.v.setCell d bs }).finX b w) s

/-- `mcst`. -/
def execMcst (d a b : Reg) (ar : AcqRel) (s : State) : Out :=
  let i : Instr := .mcst d a b ar
  runExe i (fun s => s.majRun i [b] ar
    (fun s => s.whenReady [a, d] [b] fun s =>
      s.majStart i true true (s.x a) ar (s.ctx.v.cell d) fun deg s => s.finX b (resultWord 0#64 false deg 2))
    fun _ w s => s.finX b w) s

/-- `mctag`. -/
def execMctag (a b : Reg) (ar : AcqRel) (s : State) : Out :=
  let i : Instr := .mctag a b ar
  runExe i (fun s => s.majRun i [b] ar
    (fun s => s.whenReady [a] [b] fun s => s.majStart i false false (s.x a) ar [] fun _ s => s.fin)
    fun _ w s => s.finX b w) s

end Sys2Proof.Machine
end

