-- ==== Sys2Proof/Machine/Ckpt.lean ====
section
/-! DEFINITION. The checkpoint engine (02 R72 to R76), and the registers of the majority cells with the scrubber and the failure of a
stack (03 R82 to R84, R89 to R92). -/

namespace Sys2Proof.Machine

/-! ## The checkpoint engine -/

/-- The stacks a command selects. -/
def selected (stks : Nat) : List Nat := (List.range Config.hbmStacks).filter stks.testBit

/-- Granules of one stack. -/
def stackGranules : Nat := Config.stackBytes / granule

/-- Every port is populated up to OFFSET + 216 GiB; every port is trained in full (02 R72, R73). -/
def State.imageFits (s : State) : Bool :=
  (List.range 8).all fun p => s.dev.rdyhub.getLsbD (6 + p) && decide (bits s.dev.ckpt.dst.toNat 30 12 + 216 ≤ Sparse.get 0 s.dev.cxlGib p)
def portsTrained : Bool := (List.range 8).all Config.cxlTrained

/-- CKSTAT. -/
def ckStat (busy err ecode done elapsed : Nat) : Word :=
  BitVec.ofNat 64 (busy * 2 ^ 63 + err * 2 ^ 62 + ecode * 2 ^ 58 + done * 2 ^ 32 + elapsed)

/-- Start a command: refused with a code, or running. -/
def State.startCkpt (s : State) (kind : Nat) (stks : BitVec 24) : State :=
  let k := s.dev.ckpt
  if !s.dev.rdyhub.getLsbD 14 || k.stat.getLsbD 63 then s
  else
    let ctl (go : Nat) : Word := BitVec.ofNat 64 (go * 2 ^ 63 + kind * 2 ^ 60 + stks.toNat)
    let fail (c : Nat) : State := { s with dev := { s.dev with ckpt := { k with ctl := ctl 0, stat := ckStat 0 1 c 0 0 } } }
    if 2 ≤ kind then fail 1
    else if !s.imageFits then fail 2
    else if !portsTrained then fail 3
    else if kind = 1 ∧ s.anyResident then fail 5
    else
      let s := if kind = 1 then s.raise (fun _ => true) .sys else s
      { s with dev := { s.dev with ckpt := { k with ctl := ctl 1, stat := ckStat 1 0 0 0 0, cur := ctl 0, curDst := k.dst, copied := [], bad := false } } }.pkgEvent

/-- CHECKPOINT_SAVE and CHECKPOINT_RESTORE: the start events of the command. -/
def execCheckpointSave (stks : BitVec 24) (s : State) : Out := .next (s.startCkpt 0 stks)
def execCheckpointRestore (stks : BitVec 24) (s : State) : Out := .next (s.startCkpt 1 stks)

/-- A restore copies one granule back: data, sideband words, poison (02 R76). DESIGN CHOICE: a poisoned sector of the image that holds
sideband words gives the words that stand there, and marks nothing (notes/assumptions 79). -/
def State.restoreGranule (s : State) (g : Nat) : State :=
  let lo := g * granule
  let stk := lo / Config.stackBytes
  let off := lo % Config.stackBytes
  let base := imageBase s.dev.ckpt.curDst stk
  let secs := granule / 64
  let m := s.sysMem
  let data := Sparse.copyRange 0#8 s.mem lo granule m (base + off)
  let tag (i : Nat) : Word :=
    BitVec.ofNat 64 (ofBytes ((List.range 8).map fun j => memGet m (base + Config.stackBytes + 8 * (off / 64 + i) + j)))
  let side := (List.range secs).foldl (fun w i => Sparse.set 0#64 w (lo / 64 + i) (tag i)) s.sideband
  let src := (base + off) / 64
  let bad := (s.poison.filter fun p => decide (src ≤ p) && decide (p < src + secs)).map fun p => lo / 64 + (p - src)
  let keep := s.poison.filter fun p => !(decide (lo / 64 ≤ p) && decide (p < lo / 64 + secs))
  let k := s.dev.ckpt
  { (s.clipStores lo granule) with
    mem := data, sideband := side, poison := bad ++ keep,
    dev := { s.dev with ckpt := { k with copied := g :: k.copied, bad := k.bad || !bad.isEmpty } } }

/-- Stacks whose granules are all copied. -/
def State.stacksDone (s : State) : Nat :=
  ((selected (bits s.dev.ckpt.cur.toNat 0 24)).filter fun k =>
    stackGranules ≤ (s.dev.ckpt.copied.filter fun g => g / stackGranules = k).length).length

/-- Record the stacks completed in CKSTAT.DONE. -/
def State.countDone (s : State) : State :=
  let k := s.dev.ckpt
  { s with dev := { s.dev with ckpt := { k with stat := BitVec.ofNat 64 (setBits k.stat.toNat 32 5 s.stacksDone) } } }

/-- CHECKPOINT_GRANULE_COPY: the engine copies a granule of a selected stack that it has not copied. -/
def execCheckpointGranuleCopy (g : Nat) (s : State) : Out :=
  let k := s.dev.ckpt
  if !k.stat.getLsbD 63 || !(selected (bits k.cur.toNat 0 24)).contains (g / stackGranules) || k.copied.contains g then .next s
  else if k.saving then .next (s.copyGranule g).countDone
  else .next (s.restoreGranule g).countDone

/-- Set every MCC by a function of its value. -/
def State.mapMcc (s : State) (f : Nat → Nat) : State :=
  { s with dev := { s.dev with mcc := (List.range (4 * Config.cores)).filterMap fun k =>
      let c := BitVec.ofNat 24 (f (s.mccOf k))
      if c = 0#24 then none else some (k, c) } }

/-- A floor for every MCC, with VAL (03 R83). -/
def State.mccFloor (s : State) (val : Bool) (count : Nat) : State :=
  let s := { s with dev := { s.dev with mcbase := BitVec.ofNat 64 ((if val then 2 ^ 63 else 0) + count) } }
  s.mapMcc (max · count)

/-- The greatest counter among the sideband words of stacks. -/
def State.topCount (s : State) (stks : List Nat) : Nat :=
  s.sideband.foldl (fun n c => if stks.contains (64 * c.1 / Config.stackBytes) then max n (tagCount c.2) else n) 0

/-- CHECKPOINT_COMPLETE: every granule is copied; a restore also sets MCBASE (03 R83). -/
def execCheckpointComplete (elapsed : BitVec 32) (s : State) : Out :=
  let k := s.dev.ckpt
  let stks := selected (bits k.cur.toNat 0 24)
  if !k.stat.getLsbD 63 || k.copied.length < stks.length * stackGranules then .next s
  else
    let err := if k.bad then 1 else 0
    let t := { s with dev := { s.dev with ckpt :=
      { k with ctl := BitVec.ofNat 64 (k.ctl.toNat % 2 ^ 63), stat := ckStat 0 err (4 * err) stks.length elapsed.toNat, copied := [] } } }
    if bits k.cur.toNat 60 3 = 1 ∧ stks ≠ [] then
      .next (t.mccFloor true (max (bits t.dev.mcbase.toNat 0 24) (t.topCount stks)))
    else .next t

/-! ## MCBASE, renewal, the scrubber -/

/-- MCBASE_FLOOR: a write with SETALL = 0. -/
def execMcbaseFloor (val : Bool) (count : BitVec 24) (s : State) : Out := .next (s.mccFloor val count.toNat)

/-- MCBASE_SETALL: ignored whole while a launch is resident. -/
def State.mccSetAll (s : State) (val : Bool) (count : Nat) : State :=
  if s.anyResident then s
  else
    ({ s with dev := { s.dev with mcbase := BitVec.ofNat 64 ((if val then 2 ^ 63 else 0) + count) } }).mapMcc fun _ => count
def execMcbaseSetall (val : Bool) (count : BitVec 24) (s : State) : Out := .next (s.mccSetAll val count.toNat)

/-- MCRENEW and MCSCRUB after a command. -/
def pageReg (err : Bool) (mset : BitVec 4) (ppn : BitVec 40) : Word :=
  BitVec.ofNat 64 ((if err then 2 ^ 62 else 0) + mset.toNat * 2 ^ 58 + ppn.toNat * 4096)

/-- The replicas of a set that stand on no lost stack. -/
def State.liveReplicas (s : State) (mset : BitVec 4) : List (Nat × Nat) :=
  (s.replicas mset.toNat).filter fun r => !s.stackLost r.2

/-- Renew one replica's page: zero data, zero tags, no poison. -/
def State.renewPage (s : State) (pa : Nat) : State :=
  let s := (s.perform (pa / Config.stackBytes) .sys pa (List.replicate 4096 0#8)).setPoison pa 4096 false
  { s with sideband := s.sideband.filter fun c => !(decide (pa / 64 ≤ c.1) && decide (c.1 < pa / 64 + 64)) }

/-- MCRENEW. -/
def State.renew (s : State) (mset : BitVec 4) (ppn : BitVec 40) : State :=
  let err := !msetValid (s.mset mset.toNat) || s.anyResident
  let s := { s with dev := { s.dev with mcrenew := pageReg err mset ppn } }
  if err then s else (s.liveReplicas mset).foldl (fun s r => s.renewPage (replicaAddr r.2 (ppn.toNat * 4096))) s
def execMcrenew (mset : BitVec 4) (ppn : BitVec 40) (s : State) : Out := .next (s.renew mset ppn)

/-- Scrub one cell: every replica that answers below the greatest tag, or is poisoned, is written with its bytes (03 R91). DESIGN CHOICE:
where replicas hold that tag with different bytes, those of the lowest-numbered are written (notes/assumptions 56). -/
def State.scrubCell (s : State) (mset : BitVec 4) (pa : Nat) : State :=
  let reps := s.liveReplicas mset
  let vals := reps.filterMap fun (_, k) =>
    match s.replicaRead (replicaAddr k pa) with
    | .value bs t => some (bs, t)
    | .accept _ | .reject _ | .poisoned | .lost => none
  match vals.foldl (fun (best : Option (List Byte × Word)) v =>
      match best with
      | none => some v
      | some b => if b.2.toNat < v.2.toNat then some v else some b) none with
  | none => s
  | some (bs, u) => reps.foldl (fun s r => (s.replicaWrite (replicaAddr r.2 pa) bs u).2) s

/-- MCSCRUB. -/
def State.scrub (s : State) (mset : BitVec 4) (ppn : BitVec 40) : State :=
  let err := !msetValid (s.mset mset.toNat)
  let s := { s with dev := { s.dev with mcscrub := pageReg err mset ppn } }
  if err then s else (List.range 64).foldl (fun s i => s.scrubCell mset (ppn.toNat * 4096 + 64 * i)) s
def execMcscrub (mset : BitVec 4) (ppn : BitVec 40) (s : State) : Out := .next (s.scrub mset ppn)

/-- A store that has performed, wherever it is visible, still stands before memory in a sector. -/
def State.storeIn (s : State) (sector : Nat) : Bool :=
  s.stores.any fun w => decide (w.addr < 64 * sector + 64) && decide (64 * sector < w.addr + w.bytes.length)

/-- SCRUB_CORRECTION: the corrected sector is written only where the stored bits, sideband included, are still those that the
scrubber read; a write that came between, of any party at any scope, has made the error good (03 R92). -/
def execScrubCorrection (sector : Nat) (seen : BitVec 512) (seenTag : Word) (s : State) : Out :=
  if !s.correctable.contains sector then .next s
  else
    let t := { s with correctable := s.correctable.filter (· ≠ sector) }
    if !s.storeIn sector ∧ s.num .sys (64 * sector) 64 = seen.toNat ∧ Sparse.get 0#64 s.sideband sector = seenTag then
      .next { t with mem := memPut t.mem (64 * sector) (toBytes 64 seen.toNat) }
    else .next t

/-- STACK_FAILURE. -/
def execStackFailure (k : BitVec 5) (s : State) : Out :=
  if k.toNat < Config.hbmStacks then
    .next { s with dev := { s.dev with mclost := s.dev.mclost ||| BitVec.ofNat 64 (2 ^ k.toNat) } }
  else .next s

end Sys2Proof.Machine
end

