-- ==== Sys2Proof/Machine/Fetch.lean ====
section
/-! DEFINITION. Fetching instruction words (13 R286, R288): the words fetched ahead, the fetch of a hart's next word, and the
loading of one word where a hart fetches next. -/

namespace Sys2Proof.Machine

/-- The word of the hart in focus at an address: one fetched ahead, or read now with EX permission. A fault is FETCH_XLATE at
the word, a poisoned word is a machine check at it. -/
def State.fetchWord (s : State) (a : Word) (f : Word → State → Res) : Res :=
  let ahead := s.hs.ibuf.any fun c => decide (c.1 = a.toNat)
  if ahead then f (Sparse.get 0#64 s.hs.ibuf a.toNat) s
  else
    s.reach (s.req .fetch) a 8 fun ps t =>
      match t.badPiece ps with
      | some pa => .trap { cause := Cause.machineCheck, addr := a, info := fetchInfo pa } t
      | none => f (BitVec.ofNat 64 (ofBytes (t.ctxBytes ps))) t

/-- Replace the words fetched ahead of the hart in focus. A word of zeros is a word too, so the list is kept by key. -/
def keepWord (l : Sparse Word) (a : Nat) (w : Word) : Sparse Word :=
  (Sparse.insert (l.filter fun c => c.1 != a) a w)

/-- FETCH: the hart in focus fetches a word ahead of program order (13 R288). A fetch that faults ahead leaves nothing behind;
the hart meets the fault when it executes the word. -/
def execFetch (a : Word) (s : State) : Out :=
  if s.hs.run ≠ .running ∨ a.toNat % 8 ≠ 0 then .next s
  else
    match ({ s with ctx := s.ctx.setHs s.hart { s.hs with ibuf := s.hs.ibuf.filter fun c => c.1 != a.toNat } }).fetchWord a
      (fun w t => .ok (t.setHs { t.hs with ibuf := keepWord t.hs.ibuf a.toNat w })) with
    | .ok t => .next t
    | .trap _ _ => .next s
    | .stall _ _ | .rewind _ => .next s

/-- What the fetch of a hart's next instruction comes to: a word, or a trap or stall at it. -/
inductive Fetched
  | word (w : Word) (s : State)
  | stop (o : Out)

/-- Fetch the next word of the hart in focus (13 R286). -/
def State.nextWord (s : State) : Fetched :=
  match s.fetchWord s.pc (fun w t => .ok (t.setHs { t.hs with ibuf := keepWord t.hs.ibuf s.pc.toNat w })) with
  | .ok t => .word (Sparse.get 0#64 t.hs.ibuf s.pc.toNat) (t.setHs { t.hs with ibuf := s.hs.ibuf })
  | .trap t u => .stop (conclude s (.trap t u))
  | .stall w u => .stop (conclude s (.stall w u))
  | .rewind u => .stop (.next u)

/-- The hart in focus issues: its context is the active bank, it runs, and it does not wait for an event of its own (08 R170,
R173, 01 R31, 16 R353, 18 R407). -/
def State.issues (s : State) : Bool :=
  decide (s.ctx.place = .active) && decide (s.hs.run = .running) &&
  (match s.hs.wait with
   | .none | .other | .queue _ _ | .leave _ | .majority | .ending => true
   | .barw _ _ _ _ | .idle _ | .hold _ _ => false)

/-- A float slot of the P form. -/
def slotIsFloat : Slot → Bool
  | .flt _ _ _ _ => true
  | _ => false

/-- The cause of a word with mispaired slots: ILLEGAL goes first where a slot is not for the hart (13 R285). -/
def pairingCause (h : HartId) (w : Word) : Nat :=
  match parseP w with
  | some (.pFormPair a b) => if (slotIsFloat a || slotIsFloat b) && decide (h = .acc) then Cause.illegal else Cause.pairing
  | _ => Cause.pairing

/-- The trap of a word that the decoder rejects (13 R284, R285). -/
def rejected (s : State) (cause : Nat) (w : Word) : Out := conclude s (.trap (wordTrap cause w) s)

/-! ## Requests that a dead port has lost (11 R257) -/

/-- A request that the hart in focus made was in flight over a port that went down, and no other leads there: its number and the port.
A hart in a majority operation is at no boundary (03 R87). -/
def State.lostRequest (s : State) : Option (Nat × Nat) :=
  (s.remote.zipIdx).findSome? fun (r, i) =>
    match r.way with
    | .lost p =>
      if r.by_ = { core := s.ctx.core, bank := s.ctx.bank, hart := s.hart, cmd := none } ∧ s.ctx.place = .active ∧ s.hs.run = .running ∧
          s.hs.wait ≠ .majority
      then some (i, p) else none
    | .over _ | .arrived => none

/-- The requester takes its machine check at its next boundary (notes/assumptions 69). -/
def State.takeLost (s : State) (i port : Nat) : State :=
  if s.hart = .exe ∧ s.ctx.v.vq ≠ [] then s
  else
    (({ s with remote := s.remote.eraseIdx i } : State).interrupt s.hart).takeTrap s.hart
      { cause := Cause.machineCheck, addr := 0#64, info := checkInfo port 8 } s.pc s.pc false

/-! ## A program from outside -/

/-- The instructions of the access hart alone (08 R172). -/
def accOnly : Instr → Bool
  | .cpy _ | .cpy2 _ | .cpyr _ | .cpys _ | .cpyk _ | .gdg _ _ _ _ _ _ | .gda _ _ _ _ _ | .dsp _ _ | .cmb _ _
  | .rtlay _ _ | .rtprog _ _ _ | .rtin _ _ | .rtout _ | .rtacc _ _ _ => true
  | _ => false

/-- The hart that `loaded` runs a word on. -/
def hartFor : Option Instr → HartId
  | some i => if accOnly i then .acc else .exe
  | none => .exe

/-- The virtual and physical address at which `loadWord` puts a word. -/
def loadBase : Nat := 0x10000

/-- Memory with an ASID table at 0 whose entry 0 is enabled, page tables at 0x8000 and 0x9000, a leaf at 0xA000 that maps the
first GiB with RD, WR and EX, A and D set, and the word at 0x10000 (01 R17, R18, R23). -/
def loadMem (m : Sparse Byte) (w : Nat) : Sparse Byte :=
  memPut (memPut (memPut (memPut (memPut m 0 (toBytes 8 (2 ^ 63 + 0x8000))) 0x8000 (toBytes 8 (0x9000 + 1)))
    0x9000 (toBytes 8 (0xA000 + 1))) 0xA000 (toBytes 8 0xCF)) loadBase (toBytes 8 w)

/-- The context in focus is made an active context of its bank in address space 0 whose harts run from the loaded word. -/
def loadHart (x : HartSt) : HartSt := { x with pc := BitVec.ofNat 64 loadBase, run := .running, wait := .none, ibuf := [] }

/-- The ray that runs a micro-op word: a fresh record whose microprogram counter is 0 (09 R198, R203). -/
def loadRay (k : Nat) : Ray :=
  { id := k, rcd := 0#1024, work := 0#1024, held := [], reread := false, c := false, nb := [], pb := none, cand := none, mask := [],
    lstart := 0, count := 0, suspend := false, phase := .run }

/-- The instruction word is stored where the hart in focus fetches next, and that hart is the next to move; a micro-op word is
stored at the start of the traversal store, with a ray in flight that runs it (notes/assumptions 1). -/
def State.loadWord (s : State) (nbits w : Nat) : State :=
  let v := w % 2 ^ nbits
  let word := BitVec.ofNat 64 v
  let c := { s.ctx with place := .active, asid := 0#12, ah := loadHart s.ctx.ah, xh := loadHart s.ctx.xh }
  let hart := match decode word with
    | .ok i => hartFor (some i)
    | .illegal | .pairing => .exe
  let isMicro := match decode word with
    | .ok _ => false
    | .illegal | .pairing => (decodeMicro word).isSome
  if isMicro then
    let c := { c with ray := { c.ray with ustore := Sparse.set 0#64 c.ray.ustore 0 word, rays := [loadRay 0], focus := 0 } }
    { s with ctx := c, hart := hart, agenda := { core := c.core, bank := c.bank, hart := hart, act := .micro 0 } :: s.agenda }
  else
    { s with ctx := c, hart := hart, agenda := { core := c.core, bank := c.bank, hart := hart, act := .instr } :: s.agenda,
             mem := loadMem s.mem v, stores := [], tlb := [], poison := [],
             dev := { s.dev with xatb := 1#64, rdydie := Sparse.set 0#64 s.dev.rdydie 0 (Sparse.get 0#64 s.dev.rdydie 0 ||| 64#64) } }

end Sys2Proof.Machine
end

