-- ==== Sys2Proof/Machine/Ray.lean ====
section
/-! DEFINITION. The ray traversal engine (09 R195 to R204, 18 R398 to R400): the ray-state record, injection, the micro-ops and
the ring producers. -/

namespace Sys2Proof.Machine

/-! ## The record and the layout (09 R195, R196, R198) -/

/-- A field of a record. -/
def rget (r : BitVec 1024) (lo len : Nat) : Nat := bits r.toNat lo len
def rset (r : BitVec 1024) (lo len v : Nat) : BitVec 1024 := BitVec.ofNat 1024 (setBits r.toNat lo len v)

def rTmin (r : BitVec 1024) : Nat := rget r 96 32
def rTmax (r : BitVec 1024) : Nat := rget r 224 32
def rStk (r : BitVec 1024) (i : Nat) : Nat := rget r (256 + 64 * i) 64
def rSpill (r : BitVec 1024) : Nat := rget r 768 64
def rCur (r : BitVec 1024) : Nat := rget r 832 64
def rHitT (r : BitVec 1024) : Nat := rget r 896 32
def rHitPrim (r : BitVec 1024) : Nat := rget r 928 32
def rState (r : BitVec 1024) : Nat := rget r 967 3
def rHit (r : BitVec 1024) : Nat := rget r 970 1
def rMpc (r : BitVec 1024) : Nat := rget r 971 9
def rIsp (r : BitVec 1024) : Nat := rget r 980 4
def rLeafi (r : BitVec 1024) : Nat := rget r 984 8
def rSdepth (r : BitVec 1024) : Nat := rget r 992 16
def rsStk (r : BitVec 1024) (i v : Nat) : BitVec 1024 := rset r (256 + 64 * i) 64 v
def rsCur (r : BitVec 1024) (v : Nat) : BitVec 1024 := rset r 832 64 v
def rsMpc (r : BitVec 1024) (v : Nat) : BitVec 1024 := rset r 971 9 v
def rsIsp (r : BitVec 1024) (v : Nat) : BitVec 1024 := rset r 980 4 v
def rsLeafi (r : BitVec 1024) (v : Nat) : BitVec 1024 := rset r 984 8 v
def rsSdepth (r : BitVec 1024) (v : Nat) : BitVec 1024 := rset r 992 16 v
/-- Set STATE and FCODE. -/
def rsEnd (r : BitVec 1024) (state fcode : Nat) : BitVec 1024 := rset (rset r 967 3 state) 960 4 fcode

/-- Fields of a layout descriptor (09 R196). -/
def lNsize (l : BitVec 256) : Nat := 16 * (bits l.toNat 0 4 + 1)
def lNch (l : BitVec 256) : Nat := bits l.toNat 4 4
def lChoff (l : BitVec 256) : Nat := bits l.toNat 8 8
def lBxoff (l : BitVec 256) : Nat := bits l.toNat 16 8
def lBxf (l : BitVec 256) : Bool := l.getLsbD 24
def lLfoff (l : BitVec 256) : Nat := bits l.toNat 32 8
def lLfbit (l : BitVec 256) : Nat := bits l.toNat 40 3
def lLsoff (l : BitVec 256) : Nat := bits l.toNat 48 8
def lLcoff (l : BitVec 256) : Nat := bits l.toNat 56 8
def lPrbase (l : BitVec 256) : Word := l.extractLsb' 64 64
def lIxbase (l : BitVec 256) : Word := l.extractLsb' 128 64
def lPrstride (l : BitVec 256) : Nat := bits l.toNat 192 16

/-- The checks of `rtlay` (09 R196). -/
def layoutOk (l : BitVec 256) : Bool :=
  let n := l.toNat
  decide (bits n 208 48 = 0) && decide (bits n 43 5 = 0) && decide (bits n 25 7 = 0) &&
  decide (1 ≤ lNch l) && decide (lNch l ≤ 8) &&
  decide (lChoff l + 8 * lNch l ≤ lNsize l) &&
  decide (lBxoff l + lNch l * (if lBxf l then 12 else 24) ≤ lNsize l) &&
  decide (lLfoff l < lNsize l) && decide (lLsoff l + 4 ≤ lNsize l) && decide (lLcoff l < lNsize l) &&
  decide (lChoff l % 8 = 0) && decide (lBxoff l % 4 = 0) && decide (lLsoff l % 4 = 0) &&
  decide (36 ≤ lPrstride l) && decide (lPrstride l % 4 = 0) &&
  canonical (lPrbase l) && canonical (lIxbase l) && decide ((lPrbase l).toNat % 4 = 0) && decide ((lIxbase l).toNat % 4 = 0)

/-- A malformed node reference, its owner and its address (09 R195). -/
def refBad (r : Nat) : Bool := decide (r = 0) || decide (bits r 57 4 ≠ 0) || decide (bits r 0 4 ≠ 0)
def refOwner (r : Nat) : Nat := bits r 61 3
def refAddr (r : Nat) : Word := sext64 57 (bits r 4 53 * 16)

/-- A little-endian number in a buffer of bytes. -/
def bufNum (b : List Byte) (off n : Nat) : Nat := ofBytes ((List.range n).map fun i => b.getD (off + i) 0#8)

/-- The node in the buffer is a leaf; its leaf start; its leaf count; the reference of child `c`. -/
def nodeLeaf (l : BitVec 256) (nb : List Byte) : Bool := (bufNum nb (lLfoff l) 1).testBit (lLfbit l)
def nodeStart (l : BitVec 256) (nb : List Byte) : Nat := bufNum nb (lLsoff l) 4
def nodeCount (l : BitVec 256) (nb : List Byte) : Nat := bufNum nb (lLcoff l) 1
def nodeChild (l : BitVec 256) (nb : List Byte) (c : Nat) : Nat := bufNum nb (lChoff l + 8 * c) 8

/-! ## Reads and writes of an engine -/

/-- What an engine's read of memory comes to. -/
inductive Got
  | ok (bs : List Byte) (ps : List (Nat × Nat)) (s : State)
  | fault (va info : Word) (s : State)
  | poison (va info : Word) (s : State)
  | hold (va : Word) (s : State)

/-- An engine command of the context in focus reads `n` bytes, as a party of its core (09 R206). `bound` treats a page with HOLD as a
fault of REASON 10 at the level of its leaf (01 R26, R31). -/
def State.engRead (s : State) (key : Nat) (touch : Touch) (bound : Bool) (va : Word) (n : Nat) : Got :=
  match s.xlAll (s.req .read touch) va n with
  | (.ok ps, t) =>
    match t.engBad ps with
    | some pa => .poison va (poisonInfo pa) t
    | none => .ok ((pieceBytes ps).map (t.engByte (.core t.ctx.core) key)) ps t
  | (.fault a reason level, t) => .fault a (xlInfo t.ctx.asid 0 false false level reason) t
  | (.hold a level _, t) => if bound then .fault a (xlInfo t.ctx.asid 0 false false level 10) t else .hold a t

/-- The physical pieces that an engine of the context in focus writes. -/
inductive GotPieces
  | ok (ps : List (Nat × Nat)) (s : State)
  | fault (va info : Word) (s : State)
  | hold (va : Word) (s : State)

def State.engPieces (s : State) (k : Acc) (touch : Touch) (bound : Bool) (va : Word) (n : Nat) : GotPieces :=
  match s.xlAll (s.req k touch) va n with
  | (.ok ps, t) => .ok ps t
  | (.fault a reason level, t) => .fault a (xlInfo t.ctx.asid 0 false false level reason) t
  | (.hold a level _, t) => if bound then .fault a (xlInfo t.ctx.asid 0 false false level 10) t else .hold a t

/-! ## Injection (09 R199) -/

/-- A float value of 32 bits. -/
def f32 (n : Nat) : Num := (ffmt .f32).decode n
def Num.isFin : Num → Bool
  | .fin _ _ _ => true
  | .nan _ | .inf _ => false

/-- A degenerate ray. -/
def degenerate (r : BitVec 1024) : Bool :=
  !((List.range 3).all fun i => (f32 (rget r (32 * i) 32)).isFin && (f32 (rget r (128 + 32 * i) 32)).isFin) ||
  (f32 (rTmin r)).isNan || (f32 (rTmax r)).isNan || (f32 (rTmax r)).lt (f32 (rTmin r))

/-- A rejected record. -/
def recordBad (r : BitVec 1024) : Bool :=
  decide (rget r 964 3 ≠ 0) || [2, 5, 6, 7].contains (rState r) || (decide (rState r ≠ 0) && decide (8 < rIsp r))

/-- A record with its working fields zero: HITT, HITPRIM, STK, SDEPTH, LEAFI, ISP, MPC, HIT, FCODE (09 R198). -/
def freshRecord (r : BitVec 1024) : BitVec 1024 :=
  let r := rset (rset r 896 64 0) 256 512 0
  rset (rset r 970 54 (bits r.toNat 1008 16 * 2 ^ 38)) 960 4 0

/-- A ray with the working state that injection leaves it: C, NB, PB, CAND, MASK and LSTART are free, since 09 R201 gives them no start value
(notes/assumptions 18). -/
def newRay (id : Nat) (r : BitVec 1024) (phase : RayPhase) (reread : Bool) : Ray :=
  { id := id, rcd := r, work := r, held := [], reread := reread, c := Config.startC,
    nb := (List.range 256).map Config.startNode, pb := Config.startTri,
    cand := Config.startCand.map fun p => (p.1.toNat, p.2.toNat), mask := Config.startMask,
    lstart := Config.startLeaf.toNat, count := 0, suspend := false, phase := phase }

/-- The record leaves for a ring. -/
def outTo (ring : Nat) (faddr finfo : Word) : RayPhase := .out ring none none faddr finfo

/-- The engine takes a record: rejected, degenerate, fresh or resumed. -/
def inject (id : Nat) (r : BitVec 1024) : Ray :=
  if recordBad r then newRay id (rsEnd r 6 12) (outTo 1 0#64 0#64) false
  else if degenerate r then newRay id (rset r 967 3 5) (outTo 1 0#64 0#64) false
  else if rState r = 0 then newRay id (freshRecord r) .run false
  else newRay id (rset r 960 4 0) .run true

/-! ## Steps (09 R200) -/

/-- The ray in focus, and its replacement. -/
def State.rayAt (s : State) (k : Nat) : Option Ray := s.ctx.ray.rays.find? (fun r => r.id = k)
def State.putRay (s : State) (r : Ray) : State :=
  s.setCtx { s.ctx with ray := { s.ctx.ray with rays := s.ctx.ray.rays.map fun x => if x.id = r.id then r else x } }

/-- What a micro-op comes to: the ray and the machine after it, a fault of the step, an abort, or a stall on a page with HOLD. -/
inductive Ran
  | ok (r : Ray) (s : State)
  | fault (fcode : Nat) (faddr finfo : Word) (r : Ray) (s : State)
  | abort (fcode : Nat) (r : Ray) (s : State)
  | hold

/-- The key of a ray as a party (04 R112): its `rtin` left it. -/
def Ray.key (r : Ray) : Nat := freshKey r.id

/-- The held spill writes perform, in push order. -/
def State.performSpill (s : State) (key : Nat) (held : List (Nat × Word)) : State :=
  held.reverse.foldl (fun s w => s.engPut key .core w.1 (toBytes 8 w.2.toNat)) s

/-- The step that runs commits its working copy (09 R200). -/
def State.commitStep (s : State) (r : Ray) : Ray × State :=
  ({ r with rcd := r.work, held := [] }, s.performSpill r.key r.held)

/-- End a step with the record as committed at its start. -/
def endStep (r : Ray) (state fcode ring : Nat) (faddr finfo : Word) : Ray :=
  { r with rcd := rsEnd r.rcd state fcode, work := rsEnd r.rcd state fcode, held := [], part := [], prim := none,
           phase := outTo ring faddr finfo }

/-- What a micro-op comes to, made the machine's next state. -/
def concludeRay (s : State) : Ran → State
  | .ok r t => t.putRay r
  | .fault fcode a info r t => t.putRay (endStep r 3 fcode 0 a info)
  | .abort fcode r t => t.putRay (endStep r 6 fcode 1 0#64 0#64)
  | .hold => s

/-- Go on to the next micro-op, counted. DESIGN CHOICE: after address 511 of the store comes address 0 (09 R201 does not say;
notes/assumptions 62). -/
def Ray.next (r : Ray) : Ray := { r with work := rsMpc r.work (rMpc r.work + 1), count := r.count + 1 }

/-- The next aligned word of an unfinished read of `n` bytes: each word is read at a step of its own, in the order of their addresses (09
R206; notes/assumptions 63). What comes back has the bytes before it too. -/
def State.engWord (s : State) (key : Nat) (bound : Bool) (va : Word) (n : Nat) (part : List Byte) : Got :=
  let a := va + BitVec.ofNat 64 part.length
  match s.engRead key .plain bound a (min (n - part.length) (8 - a.toNat % 8)) with
  | .ok bs ps t => .ok (part ++ bs) ps t
  | x => x

/-- Read node CUR into the node buffer, or one more word of it. -/
def State.readNode (s : State) (bound : Bool) (l : BitVec 256) (r : Ray) (f : Ray → State → Ran) : Ran :=
  let cur := rCur r.work
  if refBad cur then .abort 9 r s
  else
    match s.engWord r.key bound (refAddr cur) (lNsize l) r.part with
    | .ok bs _ t => if lNsize l ≤ bs.length then f { r with nb := bs, part := [] } t else .ok { r with part := bs } t
    | .fault a info t => .fault 1 a info r t
    | .poison a _ t => .fault 4 a 0#64 r t
    | .hold _ _ => .hold

/-- The re-read of a resumed ray (09 R199). -/
def State.rereadNode (s : State) (bound : Bool) (l : BitVec 256) (r : Ray) : Ran :=
  s.readNode bound l r fun r t =>
    .ok { r with reread := false, lstart := if nodeLeaf l r.nb then nodeStart l r.nb else r.lstart } t

/-! ## The micro-ops (09 R201 to R203, 18 R398 to R400) -/

/-- Node CUR, once it is whole, for `tv.fetch`. -/
def State.fetchNode (s : State) (bound : Bool) (l : BitVec 256) (r : Ray) : Ran :=
  s.readNode bound l r fun r t => .ok { r with c := nodeLeaf l r.nb, work := rsMpc r.work (rMpc r.work + 1) } t

/-- `tv.fetch`: a step head, and then the words of the node. -/
def State.tvFetch (s : State) (bound : Bool) (l : BitVec 256) (r : Ray) : Ran :=
  if !r.part.isEmpty then s.fetchNode bound l r else
  let (r, s) := s.commitStep r
  let r := { r with count := 0, cand := none }
  let cur := rCur r.work
  if refBad cur then .abort 9 r s
  else if refOwner cur ≠ dieOf s.ctx.core then
    if (Sparse.get 0#64 s.ctx.sr.rib (refOwner cur)).getLsbD 63 then
      let w := rset r.work 967 3 4
      .ok { r with rcd := w, work := w, phase := outTo (2 + refOwner cur) 0#64 0#64 } s
    else .fault 5 0#64 0#64 r s
  else s.fetchNode bound l r

/-- A primitive, once it is whole, for `tv.ld`. -/
def State.loadPrim (s : State) (bound : Bool) (l : BitVec 256) (r : Ray) (prim : Nat) : Ran :=
  match s.engWord r.key bound (lPrbase l + BitVec.ofNat 64 (prim * lPrstride l)) 36 r.part with
  | .ok bs _ t =>
    if 36 ≤ bs.length then
      .ok { r with pb := some ((List.range 9).map fun k => bufNum bs (4 * k) 4, prim), c := true, part := [], prim := none,
                   work := rsMpc r.work (rMpc r.work + 1) } t
    else .ok { r with part := bs, prim := some prim } t
  | .fault a info t => .fault 2 a info r t
  | .poison a _ t => .fault 4 a 0#64 r t
  | .hold _ _ => .hold

/-- `tv.ld`: a step head, then the index, if there is an index array, and the words of the primitive. DESIGN CHOICE: without one the
primitive is LSTART + i modulo 2^32 (09 R196 gives the sum no width; notes/assumptions 74). -/
def State.tvLd (s : State) (bound : Bool) (l : BitVec 256) (r : Ray) : Ran :=
  match r.prim with
  | some prim => s.loadPrim bound l r prim
  | none =>
  let (r, s) := s.commitStep r
  let r := { r with count := 0, cand := none }
  let i := rLeafi r.work
  if nodeCount l r.nb ≤ i then .ok { r with c := false, work := rsMpc r.work (rMpc r.work + 1) } s
  else if lIxbase l = 0#64 then s.loadPrim bound l r ((r.lstart + i) % 2 ^ 32)
  else
    match s.engRead r.key .plain bound (lIxbase l + BitVec.ofNat 64 (4 * (r.lstart + i))) 4 with
    | .ok bs _ t => .ok { r with prim := some (bufNum bs 0 4) } t
    | .fault a info t => .fault 2 a info r t
    | .poison a _ t => .fault 4 a 0#64 r t
    | .hold _ _ => .hold

/-- A quotient of exact values rounded to FP32; the divisor is not zero and finite, the dividend is not NaN (18 R399). -/
def quot (rm : Rm) (x d : Num) : Nat :=
  let f := ffmt .f32
  match x, d with
  | .fin n m e, .fin k b g =>
    let sh := 40 + b.log2
    (f.round rm false (n != k) (m * 2 ^ sh / b) (e - g - sh) (decide (m * 2 ^ sh % b ≠ 0))).1
  | .inf n, y => (f.giveInf false (n != y.isNeg)).1
  | x, _ => (f.give rm false x).1

/-- The greater and the lesser of two FP32 codes, compared as numbers. -/
def fmaxCode (a b : Nat) : Nat := if (f32 a).lt (f32 b) then b else a
def fminCode (a b : Nat) : Nat := if (f32 b).lt (f32 a) then b else a

/-- The slab of one axis: none where the ray misses it. Rounding is monotonic, so the least of the rounded quotients is the
rounded least. -/
def slab (o d lo hi : Num) : Option (Nat × Nat) :=
  if d.isZero then
    if lo.le o && o.le hi then some ((ffmt .f32).sign true 0x7F800000, 0x7F800000) else none
  else
    let a := (lo.add .rne o.neg).1
    let b := (hi.add .rne o.neg).1
    some (fminCode (quot .rdn a d) (quot .rdn b d), fmaxCode (quot .rup a d) (quot .rup b d))

/-- Bound `j` of child `c` as an exact value. -/
def childBound (l : BitVec 256) (nb : List Byte) (c j : Nat) : Num :=
  if lBxf l then (ffmt .f16).decode (bufNum nb (lBxoff l + 12 * c + 2 * j) 2)
  else f32 (bufNum nb (lBxoff l + 24 * c + 4 * j) 4)

/-- The entry distance of a child that the ray hits (18 R399). -/
def boxEntry (l : BitVec 256) (r : BitVec 1024) (nb : List Byte) (c : Nat) : Option Nat :=
  if (List.range 6).any fun j => (childBound l nb c j).isNan then none
  else
    let ax (a : Nat) : Option (Nat × Nat) :=
      slab (f32 (rget r (32 * a) 32)) (f32 (rget r (128 + 32 * a) 32)) (childBound l nb c a) (childBound l nb c (a + 3))
    match ax 0, ax 1, ax 2 with
    | some x, some y, some z =>
      let entry := fmaxCode (rTmin r) (fmaxCode x.1 (fmaxCode y.1 z.1))
      let exit_ := fminCode (rTmax r) (fminCode x.2 (fminCode y.2 z.2))
      if (f32 entry).le (f32 exit_) then some entry else none
    | _, _, _ => none

/-- `tv.box`. -/
def tvBox (l : BitVec 256) (r : Ray) : Ray :=
  { r with mask := (List.range (lNch l)).filterMap fun c =>
      if nodeChild l r.nb c = 0 then none else (boxEntry l r.work r.nb c).map fun e => (c, e) }

/-- A finite FP32 value as a count of 2^-149. -/
def f32Count (n : Nat) : Int :=
  match f32 n with
  | .fin s m e => finInt s m e (-149)
  | .nan _ | .inf _ => 0

/-- The determinant of three columns. -/
def det3 (a b c : Int × Int × Int) : Int :=
  a.1 * (b.2.1 * c.2.2 - b.2.2 * c.2.1) - a.2.1 * (b.1 * c.2.2 - b.2.2 * c.1) + a.2.2 * (b.1 * c.2.1 - b.2.1 * c.1)

/-- A quotient of integers rounded to FP32 under RNE; a zero is +0. -/
def ratioF32 (n d : Int) : Nat :=
  let sh := 40 + d.natAbs.log2
  let q := n.natAbs * 2 ^ sh
  ((ffmt .f32).round .rne false (decide (n ≠ 0) && (decide (n < 0) != decide (d < 0))) (q / d.natAbs) (-(sh : Int))
    (decide (q % d.natAbs ≠ 0))).1

/-- The candidate of `tv.tri` (18 R400): Cramer's rule over exact integers. -/
def triangle (r : BitVec 1024) (v : List Nat) (prim : Nat) : Option (Nat × Nat) :=
  if !((List.range 9).all fun i => (f32 (v.getD i 0)).isFin) then none
  else
    let p (i : Nat) : Int := f32Count (v.getD i 0)
    let o (i : Nat) : Int := f32Count (rget r (32 * i) 32)
    let d (i : Nat) : Int := f32Count (rget r (128 + 32 * i) 32)
    let e1 := (p 3 - p 0, p 4 - p 1, p 5 - p 2)
    let e2 := (p 6 - p 0, p 7 - p 1, p 8 - p 2)
    let w := (o 0 - p 0, o 1 - p 1, o 2 - p 2)
    let nd := (-d 0, -d 1, -d 2)
    let det := det3 e1 e2 nd
    let sg := if det < 0 then -1 else 1
    let u := sg * det3 w e2 nd
    let q := sg * det3 e1 w nd
    if det = 0 then none
    else if u < 0 ∨ q < 0 ∨ sg * det < u + q then none
    else some (ratioF32 (det3 e1 e2 w) det, prim)

/-- `tv.tri`. -/
def tvTri (r : Ray) : Ray :=
  { r with cand := match r.pb with
    | some (v, prim) => triangle r.work v prim
    | none => none }

/-- The tests of `tv.cmp`. -/
def tvCmp (k : TvCmp) (l : BitVec 256) (r : Ray) : Ray :=
  { r with c := match k with
    | .mask => r.mask.isEmpty
    | .stk => decide (rIsp r.work = 0) && decide (rSdepth r.work = 0)
    | .leaf => nodeLeaf l r.nb
    | .cand => r.cand.isSome }

/-- Push of 09 R201. -/
def State.pushRef (s : State) (bound : Bool) (r : Ray) (ref : Nat) (f : Ray → State → Ran) : Ran :=
  let w := r.work
  if ref = 0 then f r s
  else if rIsp w < 8 then f { r with work := rsIsp (rsStk w (rIsp w) ref) (rIsp w + 1) } s
  else if rSpill w = 0 ∨ rSpill w % 8 ≠ 0 ∨ rSdepth w = 65535 then .abort 8 r s
  else
    match s.engPieces .write .plain bound (BitVec.ofNat 64 (rSpill w + 8 * rSdepth w)) 8 with
    | .ok ps t =>
      let held := match ps with
        | (pa, _) :: _ => (pa, BitVec.ofNat 64 (rStk w 0)) :: r.held
        | [] => r.held
      let w := rsSdepth w (rSdepth w + 1)
      let w := (List.range 7).foldl (fun w i => rsStk w i (rStk w (i + 1))) w
      f { r with work := rsIsp (rsStk w 7 ref) 8, held := held } t
    | .fault a info t => .fault 3 a info r t
    | .hold _ _ => .hold

/-- Insert a child by entry distance, the farthest first and on equal distance the higher child first. -/
def byDistance (x : Nat × Nat) : List (Nat × Nat) → List (Nat × Nat)
  | [] => [x]
  | y :: t =>
    if (f32 y.2).lt (f32 x.2) || (!(f32 x.2).lt (f32 y.2) && decide (y.1 < x.1)) then x :: y :: t else y :: byDistance x t

/-- The children in MASK, the farthest first. -/
def farthest (m : List (Nat × Nat)) : List (Nat × Nat) := m.foldr byDistance []

/-- `tv.push`. -/
def State.pushAll (s : State) (bound : Bool) (l : BitVec 256) (r : Ray) : List (Nat × Nat) → Ran
  | [] => .ok r.next s
  | (c, _) :: t => s.pushRef bound r (nodeChild l r.nb c) fun r s => s.pushAll bound l r t

/-- `tv.pop`. -/
def State.tvPop (s : State) (bound : Bool) (r : Ray) : Ran :=
  let w := r.work
  let take (w : BitVec 1024) (cur : Nat) (t : State) : Ran :=
    if refBad cur then .abort 9 r t else .ok ({ r with work := rsCur w cur, c := true } : Ray).next t
  if 0 < rIsp w then take (rsIsp w (rIsp w - 1)) (rStk w (rIsp w - 1)) s
  else if rSdepth w = 0 then .ok ({ r with c := false } : Ray).next s
  else if rSpill w = 0 ∨ rSpill w % 8 ≠ 0 then .abort 8 r s
  else
    let va := BitVec.ofNat 64 (rSpill w + 8 * (rSdepth w - 1))
    let w := rsSdepth w (rSdepth w - 1)
    match s.engPieces .read .plain bound va 8 with
    | .ok ps t =>
      let pa := (ps.headD (0, 0)).1
      match r.held.find? (fun h => h.1 = pa) with
      | some h => take w h.2.toNat t
      | none =>
        if (t.engBad ps).isSome then .fault 4 va 0#64 r t
        else take w (ofBytes ((pieceBytes ps).map (t.engByte (.core t.ctx.core) r.key))) t
    | .fault a info t => .fault 3 a info r t
    | .hold _ _ => .hold

/-- `tv.leaf`. -/
def tvLeaf (l : BitVec 256) (r : Ray) : Ray := { r with work := rsLeafi r.work 0, lstart := nodeStart l r.nb }

/-- Accept of 09 R202 on a record. -/
def accept (r : BitVec 1024) (t prim : Nat) : Option (BitVec 1024) :=
  let x := f32 t
  if x.isNan || x.lt (f32 (rTmin r)) || (f32 (rTmax r)).lt x then none
  else if rHit r = 1 ∧ x.cmp (f32 (rHitT r)) = .eq ∧ !(f32 (rHitT r)).isNan ∧ rHitPrim r ≤ prim then none
  else some (rset (rset (rset (rset r 224 32 t) 896 32 t) 928 32 prim) 970 1 1)

/-- `tv.acc`. -/
def tvAcc (r : Ray) : Ray :=
  match r.cand with
  | some (t, prim) => { r with work := (accept r.work t prim).getD r.work }
  | none => r

/-- The sense of `tv.br` holds. -/
def brTaken (k : TvBr) (c : Bool) : Bool :=
  match k with
  | .f => !c
  | .t => c
  | .always => true

/-- `tv.br`. -/
def tvBr (k : TvBr) (target : BitVec 9) (r : Ray) : Ray :=
  if brTaken k r.c then { r with work := rsMpc r.work target.toNat, count := r.count + 1 } else r.next

/-- `tv.mov`: the nearest child is the last of the order in which they are pushed. -/
def tvMov (k : TvMov) (l : BitVec 256) (r : Ray) : Ray :=
  match k with
  | .leafi => { r with work := rsLeafi r.work (rLeafi r.work + 1), c := true }
  | .near =>
    match (farthest r.mask).getLast? with
    | some (c, e) => { r with work := rsCur r.work (nodeChild l r.nb c), mask := r.mask.filter fun x => x ≠ (c, e), c := true }
    | none => { r with c := false }

/-- `tv.end` (17 of 09 R201, 23 R425). -/
def State.tvEnd (s : State) (r : Ray) : Ran :=
  let r := { r with work := rsEnd r.work 2 0 }
  let (r, s) := s.commitStep r
  .ok { r with phase := outTo 1 0#64 0#64 } s

/-- The micro-op of an instruction, on a ray with a layout. -/
def microOp (bound : Bool) (l : BitVec 256) (r : Ray) (s : State) : Instr → Ran
  | .tvFetch => s.tvFetch bound l r
  | .tvLd => s.tvLd bound l r
  | .tvBox => .ok (tvBox l r).next s
  | .tvTri => .ok (tvTri r).next s
  | .tvCmp k => .ok (tvCmp k l r).next s
  | .tvPush => s.pushAll bound l r (farthest r.mask)
  | .tvPop => s.tvPop bound r
  | .tvLeaf => .ok (tvLeaf l r).next s
  | .tvAcc => .ok (tvAcc r).next s
  | .tvBr k target => .ok (tvBr k target r) s
  | .tvMov k => .ok (tvMov k l r).next s
  | .tvEnd => s.tvEnd r
  | _ => .abort 10 r s

/-- Run a micro-op on the ray in focus with the layout in force. With no ray that runs, nothing happens. -/
def runMicro (s : State) (f : BitVec 256 → Ray → Ran) : Out :=
  match s.rayAt s.ctx.ray.focus with
  | some r =>
    match r.phase with
    | .run => .next (concludeRay s (f (s.ctx.ray.layout.getD 0#256) r))
    | .out _ _ _ _ _ => .next s
  | none => .next s

def execTvFetch (s : State) : Out := runMicro s fun l r => s.tvFetch false l r
def execTvLd (s : State) : Out := runMicro s fun l r => s.tvLd false l r
def execTvBox (s : State) : Out := runMicro s fun l r => .ok (tvBox l r).next s
def execTvTri (s : State) : Out := runMicro s fun _ r => .ok (tvTri r).next s
def execTvCmp (k : TvCmp) (s : State) : Out := runMicro s fun l r => .ok (tvCmp k l r).next s
def execTvPush (s : State) : Out := runMicro s fun l r => s.pushAll false l r (farthest r.mask)
def execTvPop (s : State) : Out := runMicro s fun _ r => s.tvPop false r
def execTvLeaf (s : State) : Out := runMicro s fun l r => .ok (tvLeaf l r).next s
def execTvAcc (s : State) : Out := runMicro s fun _ r => .ok (tvAcc r).next s
def execTvBr (k : TvBr) (target : BitVec 9) (s : State) : Out := runMicro s fun _ r => .ok (tvBr k target r) s
def execTvMov (k : TvMov) (s : State) : Out := runMicro s fun l r => .ok (tvMov k l r).next s
def execTvEnd (s : State) : Out := runMicro s fun _ r => s.tvEnd r

/-! ## The engine's next step (09 R199 to R201, 18 R396) -/

/-- What the engine does next for a ray: it runs a micro-op, or it has done something else. -/
inductive MicroNext
  | op (i : Instr) (s : State)
  | stop (s : State)

/-- The micro-op is a step head. -/
def stepHead : Option Instr → Bool
  | some .tvFetch | some .tvLd => true
  | _ => false

/-- The micro-op at MPC of a ray. -/
def State.microAt (s : State) (r : Ray) : Option Instr := decodeMicro (Sparse.get 0#64 s.ctx.ray.ustore (rMpc r.work))

/-- The next step of a ray: the re-read of a resumed ray, an abort of a word that is no micro-op or of a step that does not end,
the suspension that `rtout` asks for, or the micro-op at MPC. DESIGN CHOICE: after 4096 micro-ops a word that is no micro-op still aborts
with FCODE 10 and any other, a step head too, with FCODE 11, and a step head is not counted (09 R198 does not say; notes/assumptions 76). -/
def State.nextMicro (s : State) (k : Nat) : MicroNext :=
  match s.rayAt k with
  | none => .stop s
  | some r =>
    match r.phase with
    | .out _ _ _ _ _ => .stop s
    | .run =>
      if !s.ctx.held then .stop s
      else
      let s := s.setCtx { s.ctx with ray := { s.ctx.ray with focus := k } }
      let op := s.microAt r
      if r.reread && decide (op ≠ some .tvFetch) then
        .stop (concludeRay s (s.rereadNode false (s.ctx.ray.layout.getD 0#256) r))
      else
        match op with
        | none => .stop (concludeRay s (.abort 10 r s))
        | some i =>
          if 4096 ≤ r.count then .stop (concludeRay s (.abort 11 r s))
          else if r.suspend && stepHead op && r.part.isEmpty && r.prim.isNone then
            let (r, t) := s.commitStep r
            let w := rset r.rcd 967 3 1
            .stop (t.putRay { r with rcd := w, work := w, phase := outTo 1 0#64 0#64 })
          else .op i (s.putRay { r with reread := false })

/-- A ray step that has stalled on a page with HOLD for PTO cycles is a translation fault with REASON 10 (01 R31, 09 R198). -/
def State.rayHoldBound (s : State) (k : Nat) : State :=
  match s.rayAt k with
  | none => s
  | some r =>
    match r.phase with
    | .out _ _ _ _ _ => s
    | .run =>
      let l := s.ctx.ray.layout.getD 0#256
      let op := s.microAt r
      let run (bound : Bool) : Ran :=
        if r.reread && decide (op ≠ some .tvFetch) then s.rereadNode bound l r
        else
          match op with
          | none => .abort 10 r s
          | some i => microOp bound l r s i
      match run false with
      | .hold => concludeRay s (run true)
      | .ok _ _ | .fault _ _ _ _ _ | .abort _ _ _ => s

end Sys2Proof.Machine
end

