-- ==== Sys2Proof/Machine/Engine.lean ====
section
/-! DEFINITION. Engine commands: issue, the byte locations an engine reaches, the copies, Nougat, cancelling, and the token
(18 R381 to R391, 02 R64 to R68, 04 R112 to R114). A chunk, row or window is done whole at one step (notes/assumptions 20). -/

namespace Sys2Proof.Machine

/-! ## The places of bytes (18 R383, R386, 01 R31) -/

/-- Where a byte of a command's extent lies: in memory, in a core's scratchpad, nowhere for an address and REASON, or on a page with
HOLD or in a context that is not filled. -/
inductive Loc
  | mem (pa : Nat) | spad (core off : Nat) | bad (addr : Word) (reason : Nat) | parked
  deriving DecidableEq, Repr

/-- The bytes of an extent of the virtual space, in pieces of one page. -/
def State.locV (s : State) (k : Acc) (touch : Touch) (bound : Bool) : List (Word × Nat) → List Loc × State
  | [] => ([], s)
  | (va, n) :: t =>
    let (x, s) := s.xl (s.req k touch) va
    let (l, s) := s.locV k touch bound t
    let bytes (f : Nat → Loc) : List Loc := (List.range n).map f
    (match x with
     | .ok pa => bytes (fun i => .mem (pa + i)) ++ l
     | .fault reason _ => bytes (fun i => .bad (va + BitVec.ofNat 64 i) reason) ++ l
     | .hold _ _ => bytes (fun i => if bound then .bad (va + BitVec.ofNat 64 i) 10 else .parked) ++ l, s)

/-- The bytes of an extent of the issuing core's scratchpad. The address of one past 2^64 − 1 is reported as 2^64 − 1 (notes/assumptions 83). -/
def State.locS (s : State) (spz : Word) (a n : Nat) : List Loc :=
  (List.range n).map fun i =>
    if a + i < Config.spadBytes then .spad s.ctx.core (swizzle spz (a + i)) else .bad (BitVec.ofNat 64 (min (a + i) (2 ^ 64 - 1))) 9

/-- The core that an aperture offset names (18 R383). -/
def apertureCore (base : Word) : Nat := bits base.toNat 22 9

/-- The bytes of an extent of a core's scratchpad in its physical layout: that of the issuing launch's context there. What lies
beyond the scratchpad of the core that the operand names faults with REASON 9 (18 R383, R386). -/
def State.locR (s : State) (core a n : Nat) : List Loc :=
  (List.range n).map fun i =>
    if Config.spadBytes ≤ a + i then .bad (BitVec.ofNat 64 (a + i)) 9
    else
      match s.peer core with
      | some c => if c.place = .active then .spad core (a + i) else .parked
      | none => .bad (BitVec.ofNat 64 (core * Config.spadBytes + a + i)) 6

/-- The bytes of an extent of a space, some bytes on from an operand's base. In the scratchpad nothing wraps (01 R11). -/
def State.loc (s : State) (k : Acc) (touch : Touch) (bound sp rsp : Bool) (spz base : Word) (d n : Nat) : List Loc × State :=
  if !sp then s.locV k touch bound (pagePieces (n / 4096 + 2) (base + BitVec.ofNat 64 d) n)
  else if rsp then (s.locR (apertureCore base) (base.toNat - apertureCore base * Config.spadBytes + d) n, s)
  else (s.locS spz (base.toNat + d) n, s)

/-- The scratchpad of the issuing launch on a core. -/
def State.spadOf (s : State) (core : Nat) : Spad := if core = s.ctx.core then s.ctx.spad else ((s.peer core).map (·.spad)).getD Spad.start

/-- A byte as a command of a key reads it, and whether it is poisoned. -/
def State.locByte (s : State) (v : View) (key : Nat) : Loc → Byte × Bool
  | .mem pa => (s.engByte v key pa, s.poison.contains (pa / 64))
  | .spad core off =>
    (if core = s.ctx.core then s.ctx.engSpad key off else (s.spadOf core).byte off, (s.spadOf core).poison.contains (off / 8))
  | .bad _ _ | .parked => (0#8, false)

/-- Units of `n` bytes after a write: one with a poisoned byte is poisoned, one written whole is clean (11 R255). -/
def poisonAfter (n : Nat) (old : List Nat) (l : List (Nat × Bool)) : List Nat :=
  let units := (l.map fun x => x.1 / n).dedup
  let bad := units.filter fun u => l.any fun x => x.2 && decide (x.1 / n = u)
  let whole := units.filter fun u => decide ((l.filter fun x => x.1 / n = u).length = n)
  bad ++ old.filter fun u => !bad.contains u && !whole.contains u

/-- A command of a key writes bytes with their poison; the stores to memory perform at a scope. A save copies a granule before poison in
it changes (02 R74). -/
def State.locPut (s : State) (key : Nat) (level : Scope) (l : List (Loc × Byte × Bool)) : State :=
  let mems := l.filterMap fun (x, b, p) => match x with
    | .mem pa => some (pa, b, p)
    | .spad _ _ | .bad _ _ | .parked => none
  let s := (memRuns (mems.map fun (a, b, _) => (a, b))).foldl (fun s (a, bs) =>
    (if s.poisoned a bs.length || mems.any (·.2.2) then s.protect a bs.length else s).engPut key level a bs) s
  let s := { s with poison := poisonAfter 64 s.poison (mems.map fun (a, _, p) => (a, p)) }
  let cores := (l.filterMap fun (x, _, _) => match x with
    | .spad c _ => some c
    | .mem _ | .bad _ _ | .parked => none).dedup
  cores.foldl (fun s c =>
    let here := l.filterMap fun (x, b, p) => match x with
      | .spad d off => if d = c then some (off, b, p) else none
      | .mem _ | .bad _ _ | .parked => none
    let put (q : Context) : Context :=
      let old := q.spad.poison
      let q := (memRuns (here.map fun (a, b, _) => (a, b))).foldl (fun q (a, bs) => q.putSpad s.ctx.engKey a bs []) q
      { q with spad := { q.spad with poison := poisonAfter 8 old (here.map fun (a, _, p) => (a, p)) } }
    if c = s.ctx.core then s.setCtx (put s.ctx) else s.mapPeer c put) s

/-! ## Commands -/

/-- The lower of two faults. -/
def minFault (f : Option (Word × Nat)) (x : Word × Nat) : Option (Word × Nat) :=
  match f with
  | none => some x
  | some y => if x.1.toNat < y.1.toNat then some x else some y

/-- A command takes over the faults of some bytes. -/
def Cmd.faults (k : Cmd) (l : List Loc) : Cmd :=
  { k with fault := l.foldl (fun f x => match x with
      | .bad a r => minFault f (a, r)
      | .mem _ | .spad _ _ | .parked => f) k.fault }
def locsBad (l : List Loc) : Bool := l.any fun x => match x with
  | .bad _ _ => true
  | .mem _ | .spad _ _ | .parked => false

/-- Fields of the operand pair of a row command. -/
def cTrows (k : Cmd) : Nat := bits k.c0.toNat 32 32
def cRowb (k : Cmd) : Nat := bits k.c0.toNat 0 32
def cM (k : Cmd) : Nat := bits k.c1.toNat 48 16
def cList (k : Cmd) : Nat := bits k.c1.toNat 0 22

/-- The command of an id, and its replacement. -/
def State.cmd (s : State) (id : Nat) : Option Cmd := s.ctx.cmds.find? fun k => k.id = id
def State.putCmd (s : State) (k : Cmd) : State := s.setCtx { s.ctx with cmds := s.ctx.cmds.map fun x => if x.id = k.id then k else x }

/-- The key of a command as a party: its issue leaves it, and its stores carry it (04 R112, R113). -/
def Cmd.key (k : Cmd) : Nat := freshKey k.id

/-- A chunk is done. -/
def Cmd.did (k : Cmd) (c : Nat) : Bool := decide (c < k.next) || k.doneCh.contains c
/-- Count a chunk done. -/
def Cmd.finish (k : Cmd) (c : Nat) : Cmd :=
  let done := c :: k.doneCh
  let next := ((List.range (done.length + 1)).find? fun i => !done.contains (k.next + i)).getD 0 + k.next
  { k with next := next, doneCh := done.filter fun x => decide (next ≤ x) }

/-- No more of the command will be done: the token may be written (18 R385, R389). -/
def Cmd.over_ (k : Cmd) : Bool := k.reject.isSome || k.link.isSome || k.cancel || decide (k.total ≤ k.next)

/-- OR bits into the chunk mask of a command: what reads it acquires the chunks done (04 R114; notes/assumptions 7). -/
def State.markChunks (s : State) (k : Cmd) (cs : List Nat) : State :=
  match k.mask with
  | none => s
  | some p =>
    if cs.isEmpty then s
    else
      let v := s.ctx.v
      let s := s.acquireKey k.key (s.ctx.hartKey .exe)
      s.setCtx ({ s.ctx with v := v.setPred p (v.pred p ||| BitVec.ofNat 512 (cs.map fun c => 2 ^ c).sum) } : Context).wake

/-- The home scope of a command (18 R385). -/
def Cmd.home (k : Cmd) : Scope :=
  match k.kind with
  | .cpy | .cpy2 | .cpyr | .cpys => if k.rsp then .pkg else .core
  | .gdg | .gda _ | .cmb => .die
  | .dsp => .sys
  | .rtlay | .rtprog | .rtin | .rtout | .rtacc => .core

/-! ## The copies (18 R387, R388) -/

/-- Move bytes for which both places are there, byte by byte. -/
def State.moveBytes (s : State) (k : Cmd) (src dst : List Loc) : State × Cmd :=
  let ps := (src.zip dst).filter fun (a, b) => !locsBad [a, b]
  let ws := ps.map fun (a, b) => let (x, p) := s.locByte (.core s.ctx.core) k.key a; (b, x, p)
  let k := (k.faults src).faults dst
  (s.locPut k.key k.home ws, { k with units := k.units + ws.length, psn := k.psn || ws.any fun w => w.2.2 })

/-- Move one row, or with no source a row of zeros; a row with a byte that faults is left unwritten. -/
def State.moveRow (s : State) (k : Cmd) (src : Option (List Loc)) (dst : List Loc) : State × Cmd :=
  let from_ := src.getD []
  if locsBad from_ || locsBad dst then (s, (k.faults from_).faults dst)
  else
    let ws := match src with
      | some l => (l.zip dst).map fun (a, b) => let (x, p) := s.locByte (.core s.ctx.core) k.key a; (b, x, p)
      | none => dst.map fun b => (b, 0#8, false)
    (s.locPut k.key k.home ws, { k with units := k.units + 1, psn := k.psn || ws.any fun w => w.2.2 })

/-- Entry i of the index list, or where it is missing (18 R388). -/
def State.listEntry (s : State) (k : Cmd) (i : Nat) : Except (List Loc) Nat :=
  let l := s.locS k.spz (cList k + 4 * i) 4
  if locsBad l then .error l else .ok (ofBytes (l.map fun x => (s.locByte (.core s.ctx.core) k.key x).1))

/-- One row of a row copy; none while it must wait. DESIGN CHOICE: only `cpy` is a streaming copy of 01 R41, and a row copy touches its
pages as any other access does (notes/assumptions 53). -/
def State.rowCopy (s : State) (k : Cmd) (bound : Bool) (i : Nat) : Option (State × Cmd) :=
  let go (src : Option Nat) (dst : Nat) (n : Nat) : Option (State × Cmd) :=
    let (ls, s) := match src with
      | some a => let (l, s) := s.loc .read .plain bound k.ss k.rsp k.spz k.src a n; (some l, s)
      | none => (none, s)
    let (ld, s) := s.loc .write .plain bound k.ds k.rsp k.spz k.dst dst n
    if (ls.getD []).contains .parked || ld.contains .parked then none else some (s.moveRow k ls ld)
  match k.kind with
  | .cpy2 =>
    go (some (i * bits k.c1.toNat 0 32)) (i * bits k.c1.toNat 32 32) (cRowb k)
  | .cpyr =>
    match s.listEntry k i with
    | .error l => some (s, k.faults l)
    | .ok j =>
      if cTrows k ≤ j then (go none (i * cRowb k) (cRowb k)).map fun (s, k) => (s, { k with bnd := true })
      else go (some (j * cRowb k)) (i * cRowb k) (cRowb k)
  | .cpys =>
    match s.listEntry k i with
    | .error l => some (s, k.faults l)
    | .ok j =>
      if cTrows k ≤ j then some (s, { k with bnd := true })
      else go (some (i * cRowb k)) (j * cRowb k) (cRowb k)
  | _ => none

/-- Rows of a chunk in turn. -/
def State.rowCopies (s : State) (k : Cmd) (bound : Bool) : List Nat → Option (State × Cmd)
  | [] => some (s, k)
  | i :: t => (s.rowCopy k bound i).bind fun (s, k) => s.rowCopies k bound t

/-- The rows of a row copy. -/
def Cmd.rows (k : Cmd) : Nat := if k.kind = .cpy2 then bits k.c0.toNat 32 32 else cM k

/-- Chunk c of a copy. -/
def State.copyChunk (s : State) (k : Cmd) (bound : Bool) (c : Nat) : Option (State × Cmd) :=
  match k.kind with
  | .cpy =>
    let size := 256 * 2 ^ k.ck
    let n := min size (bits k.c0.toNat 0 32 - c * size)
    let (ls, s) := s.loc .read .stream bound k.ss k.rsp k.spz k.src (c * size) n
    let (ld, s) := s.loc .write .stream bound k.ds k.rsp k.spz k.dst (c * size) n
    if ls.contains .parked || ld.contains .parked then none else some (s.moveBytes k ls ld)
  | _ =>
    let size := 2 ^ k.ck
    s.rowCopies k bound ((List.range (min size (k.rows - c * size))).map (c * size + ·))

/-- A chunk of a copy is done: its mask bit is set unless a part of it faulted. -/
def State.endChunk (s : State) (k : Cmd) (c : Nat) (ok : Bool) : State :=
  (s.putCmd (k.finish c)).markChunks k (if ok then [c] else [])

/-- Do chunk c of a copy and count it. -/
def State.runCopy (s : State) (k : Cmd) (bound : Bool) (c : Nat) : Option State :=
  (s.copyChunk { k with fault := none } bound c).map fun (t, k') =>
    let fault := match k'.fault with
      | some x => minFault k.fault x
      | none => k.fault
    t.endChunk { k' with fault := fault } c k'.fault.isNone

/-! ## Nougat (02 R64 to R68, 18 R390, R391) -/

/-- Translate the rows of distinct indices. -/
def State.nougatRows (s : State) (k : Cmd) (acc : Acc) (bound : Bool) (base : Word) : List Nat → List (Nat × List Loc) × State
  | [] => ([], s)
  | j :: t =>
    let (l, s) := s.loc acc .gather bound false false k.spz base (j * cRowb k) (cRowb k)
    let (r, s) := s.nougatRows k acc bound base t
    ((j, l) :: r, s)

/-- The row of an index. -/
def rowFor (rows : List (Nat × List Loc)) (j : Nat) : List Loc := ((rows.find? fun r => r.1 = j).map (·.2)).getD []

/-- Window w of a gather: the index list is read at its start, and each distinct index is read once and replayed to its positions, in
ascending order. -/
def State.gatherWindow (s : State) (k : Cmd) (bound : Bool) (w : Nat) : Option State :=
  let die : View := .die (dieOf s.ctx.core)
  let first := 4096 * w
  let stop := min (first + 4096) (cM k)
  let ps := (List.range (stop - first)).map (first + ·)
  let entries := ps.map fun i => (i, s.listEntry k i)
  let js := (entries.filterMap fun (_, e) => match e with
    | .ok j => if j < cTrows k then some j else none
    | .error _ => none).dedup
  let (rows, s) := s.nougatRows k .read bound k.src js
  if rows.any fun r => r.2.contains .parked then none
  else
    let data := rows.map fun (j, l) => (j, l.map (s.locByte die k.key))
    let size := 2 ^ k.ck
    let (s, k) := entries.foldl (fun (sk : State × Cmd) (i, e) =>
      let (s, k) := sk
      let lost (k : Cmd) : State × Cmd := (s, { k with badCh := i / size :: k.badCh })
      let dst := s.locS k.spz (k.dst.toNat + i * cRowb k) (cRowb k)
      match e with
      | .error l => lost (k.faults l)
      | .ok j =>
        let k := if cTrows k ≤ j then { k with bnd := true } else k
        let src := rowFor rows j
        if locsBad src || locsBad dst then lost ((k.faults src).faults dst)
        else
          let bs := if cTrows k ≤ j then dst.map fun _ => (0#8, false)
            else ((data.find? fun r => r.1 = j).map (·.2)).getD []
          (s.locPut k.key .core ((dst.zip bs).map fun (a, b, p) => (a, b, p)),
            { k with units := k.units + 1, psn := k.psn || bs.any (·.2) })) ((s, k) : State × Cmd)
    let ended := (List.range ((stop + size - 1) / size - first / size)).map (first / size + ·)
    let ended := ended.filter fun c => decide (min ((c + 1) * size) (cM k) ≤ stop) && !k.badCh.contains c
    some ((s.putCmd (k.finish w)).markChunks k ended)

/-- RoundAdd of R62 for a type of Nougat. -/
def addOf (t : Ty) (a b : Nat) : FRes :=
  if t.isInt then ((a + b) % 2 ^ t.width, 0#8) else (ffmt t).add .rne false a b

/-- The scatter-add: every row is translated before the first update, and one update is applied to each distinct element. -/
def State.scatterAdd (s : State) (k : Cmd) (t : Ty) (bound : Bool) : Option State :=
  let die := dieOf s.ctx.core
  let ps := List.range (cM k)
  let entries := ps.map fun i => (i, s.listEntry k i)
  let used := entries.filterMap fun (i, e) => match e with
    | .ok j => if j < cTrows k then some (i, j) else none
    | .error _ => none
  let src (i : Nat) : List Loc := s.locS k.spz (k.src.toNat + i * cRowb k) (cRowb k)
  let js := (used.map (·.2)).dedup
  let (rows, s) := s.nougatRows k .rmw bound k.dst js
  if rows.any fun r => r.2.contains .parked then none
  else
    let k := entries.foldl (fun k (_, e) => match e with
      | .error l => k.faults l
      | .ok j => if cTrows k ≤ j then { k with bnd := true } else k) k
    let k := used.foldl (fun k (i, _) => k.faults (src i)) k
    let k := rows.foldl (fun k r => k.faults r.2) k
    if k.fault.isSome then some (s.putCmd { k with next := 1 })
    else
      let w := t.width / 8
      let (s, k) := js.foldl (fun (sk : State × Cmd) j =>
        let at_ := (used.filter fun u => u.2 = j).map (·.1)
        (List.range (cRowb k / w)).foldl (fun (sk : State × Cmd) e =>
          let (s, k) := sk
          let take (l : List Loc) : List Loc := (l.drop (e * w)).take w
          let read (l : List Loc) : Nat × Bool :=
            let bs := l.map (s.locByte (.die die) k.key)
            (ofBytes (bs.map (·.1)), bs.any (·.2))
          let vals := at_.map fun i => read (take (src i))
          let dst := take (rowFor rows j)
          let s := match dst with
            | .mem pa :: _ => s.gatherStores (.die die) pa w
            | _ => s
          let bs := dst.map fun x => match x with
            | .mem pa => (s.byte (.die die) pa, s.poison.contains (pa / 64))
            | .spad _ _ | .bad _ _ | .parked => (0#8, false)
          let old := ofBytes (bs.map (·.1))
          match vals with
          | [] => (s, k)
          | v :: rest =>
            let (sum, fl) := rest.foldl (fun (acc : FRes) x => let (r, f) := addOf t acc.1 x.1; (r, acc.2 ||| f)) ((v.1, 0#8) : FRes)
            let (new, fl') := addOf t old sum
            let bad := bs.any (·.2) || vals.any (·.2)
            (s.locPut k.key .die ((dst.zip (toBytes w new)).map fun (a, b) => (a, b, bad)),
              { k with flags := k.flags ||| fl ||| fl', psn := k.psn || bad })) sk) ((s, k) : State × Cmd)
      some (s.putCmd { k with next := 1, units := used.length })

/-- Do window w of a Nougat command. -/
def State.runNougat (s : State) (k : Cmd) (bound : Bool) (w : Nat) : Option State :=
  match k.kind with
  | .gdg => s.gatherWindow k bound w
  | .gda t => s.scatterAdd k t bound
  | _ => none

/-- A command of Nougat. -/
def CmdKind.isNougat : CmdKind → Bool
  | .gdg | .gda _ => true
  | .cpy | .cpy2 | .cpyr | .cpys | .dsp | .cmb | .rtlay | .rtprog | .rtin | .rtout | .rtacc => false

/-- Nougat of the die serves a command when no earlier one of the die has work left (02 R64). -/
def State.nougatTurn (s : State) (k : Cmd) : Bool :=
  !(s.contexts.any fun c => decide (dieOf c.core = dieOf s.ctx.core) &&
    c.cmds.any fun x => x.kind.isNougat && !x.over_ && decide (x.id < k.id))

/-- Do window w of a Nougat command whose turn it is. -/
def State.nougatStep (s : State) (k : Cmd) (bound : Bool) (w : Nat) : Option State :=
  if s.nougatTurn k then s.runNougat k bound w else none

/-- NOUGAT_WINDOW: the next window of a Nougat command. -/
def execNougatWindow (id window : Nat) (s : State) : Out :=
  match s.cmd id with
  | none => .next s
  | some k => if k.over_ ∨ window ≠ k.next then .next s else .next ((s.nougatStep k false window).getD s)

/-! ## Tokens (18 R385, R389, 04 R113) -/

/-- The token word. -/
def Cmd.token (k : Cmd) : Word :=
  let flags := (if k.bnd then 2 ^ 59 else 0) + (if k.psn then 2 ^ 58 else 0)
  let st (n info : Nat) : Word := BitVec.ofNat 64 (n * 2 ^ 60 + flags + info)
  match k.reject, k.link, k.fault with
  | some code, _, _ => st 3 code
  | none, some port, _ => st 4 port
  | none, none, some (a, reason) => st 1 (bits a.toNat 12 45 * 2 ^ 12 + reason * 2 ^ 8)
  | none, none, none => st (if k.cancel then 2 else 0) (k.units % 2 ^ 48)

/-- TOKEN_WRITE: a command that is over, and whose requests to other packages have arrived, writes its token; the item may end with it (11 R242). -/
def execTokenWrite (id : Nat) (s : State) : Out :=
  match s.cmd id with
  | none => .next s
  | some k =>
    let suspended := decide (k.kind = .rtout) && s.ctx.ray.rays.any fun r => decide (r.id < k.total)
    let sending := s.remote.any fun r => decide (r.by_.cmd = some id) && (match r.way with
      | .over _ => true
      | .arrived | .lost _ => false)
    if (k.kind = .rtout ∧ suspended) ∨ (k.kind ≠ .rtout ∧ !k.over_) ∨ sending then .next s
    else
      let s := s.acquireKey k.key (s.ctx.hartKey k.hart)
      let c := { s.ctx with cmds := s.ctx.cmds.filter fun x => x.id ≠ id, ah := { s.ctx.ah with fstat := s.ctx.ah.fstat ||| k.flags } }
      .next (s.setCtx (c.setX k.hart k.tok k.token).wake).countEnded

/-! ## Issue (18 R381 to R387) -/

/-- The hart that a token names. -/
def tokHart (t : Tok) : HartId := if t.et then .exe else .acc

/-- A command as issued, with nothing done. -/
def State.newCmd (s : State) (kind : CmdKind) (t : Tok) : Cmd :=
  { id := s.nextId, kind := kind, hart := tokHart t, tok := t.d, mask := none, ck := 0, rsp := false, ss := false, ds := false,
    dst := 0#64, src := 0#64, c0 := 0#64, c1 := 0#64, desc := 0#512, routes := [], spz := s.ctx.sr.spz, next := 0, total := 0,
    doneCh := [], badCh := [], units := 0, fault := none, bnd := false, psn := false, cancel := false, reject := none, link := none, port := none,
    flags := 0#8, leave := none }

/-- The commands of a core, of both contexts. -/
def State.coreCmds (s : State) : List Cmd := (s.contexts.filter fun c => c.core = s.ctx.core).flatMap (·.cmds)

/-- The engine of a command's kind has no room for another of the core. -/
def State.engineFull (s : State) (kind : CmdKind) : Bool :=
  let count (p : CmdKind → Bool) : Nat := (s.coreCmds.filter fun k => p k.kind).length
  match kind with
  | .cpy | .cpy2 | .cpyr | .cpys =>
    decide (48 ≤ count fun x => match x with
      | .cpy | .cpy2 | .cpyr | .cpys => true
      | _ => false)
  | .gdg | .gda _ =>
    decide (16 ≤ count fun x => match x with
      | .gdg | .gda _ => true
      | _ => false)
  | .dsp | .cmb =>
    decide (8 ≤ count fun x => match x with
      | .dsp | .cmb => true
      | _ => false)
  | .rtlay | .rtprog | .rtin | .rtout | .rtacc => false

/-- Issue a command whose checks have passed: stall on its token, its mask and its engine; ask leave; release, which at system scope waits
for what the hart knows on its way to another package; go on with the command that `build` makes of what the release has performed (R381,
R112, 02 R71). -/
def State.issueWith (s : State) (k : Cmd) (build : State → Cmd) (cost : Option Nat) : Res :=
  if s.ctx.tokBusy k.hart k.tok || s.ctx.cmds.any (fun x => k.mask.isSome && decide (x.mask = k.mask)) || s.engineFull k.kind then
    .stall .other s
  else if decide (k.home = .sys) && s.irrevocable.unsent s.party then .stall .other s.irrevocable
  else
    let go (leave : Option Nat) (s : State) : Res :=
      let s := (s.releaseBy k.home).acquireKey (s.ctx.hartKey .acc) (freshKey s.nextId)
      .ok ({ s with nextId := s.nextId + 1,
                    ctx := { s.ctx with cmds := s.ctx.cmds ++ [{ build s with id := s.nextId, leave := leave }] } }).advance
    match cost with
    | some c => s.askLeave c true fun id s => go (some id) s
    | none => go none s

/-- Issue a command whose operands are all in registers. -/
def State.issueCmd (s : State) (k : Cmd) (cost : Option Nat) : Res := s.issueWith k (fun _ => k) cost

/-- Two extents of one space share a byte. -/
def meet (a n b m : Nat) : Bool := decide (0 < n) && decide (0 < m) && decide (a < b + m) && decide (b < a + n)

/-- The destination and source of a copy share a byte: they lie in one space, with RSP = 1 in the scratchpad of one core. -/
def operandsMeet (o : CpyArgs) (dst : Word) (n : Nat) (src : Word) (m : Nat) : Bool :=
  decide (o.ss = o.ds) &&
    (if o.rsp && o.ds then
       decide (apertureCore dst = apertureCore src) && meet (bits dst.toNat 0 22) n (bits src.toNat 0 22) m
     else meet dst.toNat n src.toNat m)

/-- The copy of more than 1 MiB is heavy (10 R221). -/
def bigCopy (n : Nat) : Option Nat := if 0x100000 < n then some 2 else none

/-- A scratchpad operand with RSP = 1 has no bit above 30. -/
def apertureOk (o : CpyArgs) (dst src : Word) : Bool :=
  !o.rsp || ((!o.ds || decide (bits dst.toNat 31 33 = 0)) && (!o.ss || decide (bits src.toNat 31 33 = 0)))

/-- The chunk count fits the mask. -/
def chunksOk (mask : Option PReg) (chunks : Nat) : Bool := mask.isNone || decide (chunks ≤ 512)

/-- The command of a copy's operands. -/
def State.copyCmd (s : State) (kind : CmdKind) (o : CpyArgs) (c1 : Word) (total : Nat) : Cmd :=
  { s.newCmd kind o.tok with
    mask := o.mask, ck := o.ck.toNat, rsp := o.rsp, ss := o.ss, ds := o.ds, dst := s.x o.a, src := s.x o.b, c0 := s.x o.c, c1 := c1,
    total := total }

/-- A command whose extents overlap ends with code 2 and writes nothing. -/
def Cmd.overlapping (k : Cmd) (bad : Bool) : Cmd := if bad then { k with reject := some 2 } else k

/-- Pieces of `size` units. -/
def pieces (n size : Nat) : Nat := (n + size - 1) / size

/-- `cpy` (18 R387, R388). -/
def execCpy (o : CpyArgs) (s : State) : Out :=
  runAcc (.cpy o) (fun s => s.whenReady [o.a, o.b, o.c] [] fun s =>
    let n := (s.x o.c).toNat
    let dst := s.x o.a
    let src := s.x o.b
    let chunks := pieces n (256 * 2 ^ o.ck.toNat)
    if 0xFFFFFFFF < n ∨ !apertureOk o dst src ∨ !chunksOk o.mask chunks then .trap (illegalTrap (.cpy o)) s
    else
      let k := s.copyCmd .cpy o 0#64 chunks
      s.issueCmd (k.overlapping (operandsMeet o dst n src n)) (bigCopy n)) s

/-- `cpy2`. -/
def execCpy2 (o : CpyArgs) (s : State) : Out :=
  runAcc (.cpy2 o) (fun s => s.whenReady [o.a, o.b, o.c, o.c + 1#5] [] fun s =>
    let c1 := s.x (o.c + 1#5)
    let dst := s.x o.a
    let src := s.x o.b
    let nr := bits (s.x o.c).toNat 32 32
    let rb := bits (s.x o.c).toNat 0 32
    let chunks := pieces nr (2 ^ o.ck.toNat)
    if rb = 0 ∨ !apertureOk o dst src ∨ !chunksOk o.mask chunks then .trap (illegalTrap (.cpy2 o)) s
    else
      let extent (pitch : Nat) : Nat := if nr = 0 then 0 else (nr - 1) * pitch + rb
      let k := s.copyCmd .cpy2 o c1 chunks
      let bad := operandsMeet o dst (extent (bits c1.toNat 32 32)) src (extent (bits c1.toNat 0 32))
      s.issueCmd (k.overlapping bad) (bigCopy (nr * rb))) s

/-- The limits on the operand pair of a row command by an index list. -/
def listLimits (c0 c1 : Word) (maxM : Nat) : Bool :=
  let rowb := bits c0.toNat 0 32
  let m := bits c1.toNat 48 16
  decide (rowb % 8 = 0) && decide (8 ≤ rowb) && decide (rowb ≤ 16384) && decide (1 ≤ m) && decide (m ≤ maxM)

/-- The index list of a copy overlaps its destination of some length. -/
def State.listMeets (s : State) (o : CpyArgs) (c1 : Word) (n : Nat) : Bool :=
  let list := bits c1.toNat 0 22
  let len := 4 * bits c1.toNat 48 16
  let dst := (s.x o.a).toNat
  if !o.ds then false
  else if o.rsp then
    decide (apertureCore (s.x o.a) = s.ctx.core) && (spadPlaces s.ctx.sr.spz list len).any fun a => meet (bits dst 0 22) n a 1
  else meet dst n list len

/-- `cpyr` and `cpys`: `table` is the operand that is the table, and it is 8-aligned. -/
def issueRows (i : Instr) (kind : CmdKind) (o : CpyArgs) (dstTable : Bool) (s : State) : Out :=
  runAcc i (fun s => s.whenReady [o.a, o.b, o.c, o.c + 1#5] [] fun s =>
    let c0 := s.x o.c
    let c1 := s.x (o.c + 1#5)
    let dst := s.x o.a
    let src := s.x o.b
    let table := if dstTable then dst else src
    let list := bits c1.toNat 0 22
    let m := bits c1.toNat 48 16
    let rowb := bits c0.toNat 0 32
    let chunks := pieces m (2 ^ o.ck.toNat)
    if !listLimits c0 c1 4096 ∨ !apertureOk o dst src ∨ !chunksOk o.mask chunks then .trap (illegalTrap i) s
    else if list % 4 ≠ 0 then .trap (alignTrap (BitVec.ofNat 64 list) 4) s
    else if table.toNat % 8 ≠ 0 then .trap (alignTrap table 8) s
    else
      let whole := bits c0.toNat 32 32 * rowb
      let dstLen := if dstTable then whole else m * rowb
      let srcLen := if dstTable then m * rowb else whole
      let k := s.copyCmd kind o c1 chunks
      let bad := operandsMeet o dst dstLen src srcLen || s.listMeets o c1 dstLen
      s.issueCmd (k.overlapping bad) (bigCopy (m * rowb))) s

/-- `cpyr` and `cpys` (18 R387, R388). -/
def execCpyr (o : CpyArgs) (s : State) : Out := issueRows (.cpyr o) .cpyr o false s
def execCpys (o : CpyArgs) (s : State) : Out := issueRows (.cpys o) .cpys o true s

/-- `cpyk` (18 R389). -/
def execCpyk (t : Tok) (s : State) : Out :=
  runAcc (.cpyk t) (fun s =>
    let hit (k : Cmd) : Bool := decide (k.hart = tokHart t) && decide (k.tok = t.d)
    let stop (k : Cmd) : Cmd := match k.kind with
      | .cpy | .cpy2 | .cpyr | .cpys | .gdg | .dsp => { k with cancel := true }
      | .gda _ | .cmb => if k.next < k.total then { k with cancel := true } else k
      | .rtlay | .rtprog | .rtin | .rtout | .rtacc => k
    let s := s.releaseBy .core
    .ok (s.setCtx { s.ctx with cmds := s.ctx.cmds.map fun k => if hit k then stop k else k }).advance) s

/-- `gdg` (18 R390). -/
def execGdg (t : Tok) (a b c : Reg) (mask : Option PReg) (ck : BitVec 4) (s : State) : Out :=
  let i : Instr := .gdg t a b c mask ck
  runAcc i (fun s => s.whenReady [a, b, c, c + 1#5] [] fun s =>
    let c0 := s.x c
    let c1 := s.x (c + 1#5)
    let m := bits c1.toNat 48 16
    let list := bits c1.toNat 0 22
    if !listLimits c0 c1 65535 ∨ !chunksOk mask (pieces m (2 ^ ck.toNat)) then .trap (illegalTrap i) s
    else if list % 4 ≠ 0 then .trap (alignTrap (BitVec.ofNat 64 list) 4) s
    else if (s.x b).toNat % 8 ≠ 0 then .trap (alignTrap (s.x b) 8) s
    else
      let k := { s.newCmd .gdg t with
        mask := mask, ck := ck.toNat, ds := true, dst := s.x a, src := s.x b, c0 := c0, c1 := c1, total := pieces m 4096 }
      s.issueCmd k none) s

/-- `gda` (18 R391). -/
def execGda (t : Tok) (ty : Ty) (a b c : Reg) (s : State) : Out :=
  let i : Instr := .gda t ty a b c
  runAcc i (fun s => s.whenReady [a, b, c, c + 1#5] [] fun s =>
    let c0 := s.x c
    let c1 := s.x (c + 1#5)
    let m := bits c1.toNat 48 16
    let list := bits c1.toNat 0 22
    if !listLimits c0 c1 65535 ∨ bits c0.toNat 0 32 % (ty.width / 8) ≠ 0 then .trap (illegalTrap i) s
    else if list % 4 ≠ 0 then .trap (alignTrap (BitVec.ofNat 64 list) 4) s
    else if (s.x a).toNat % 8 ≠ 0 then .trap (alignTrap (s.x a) 8) s
    else
      let k := { s.newCmd (.gda ty) t with ss := true, dst := s.x a, src := s.x b, c0 := c0, c1 := c1, total := 1 }
      s.issueCmd (if 4096 < m then { k with reject := some 1 } else k) none) s

end Sys2Proof.Machine
end

