-- ==== Sys2Proof/Machine/Float.lean ====
section
/-! DEFINITION. Scalar floating point (14 R297 to R303), on the execute hart. -/

namespace Sys2Proof.Machine

/-- Deliver a result and its flags: an enabled flag traps and nothing else happens (14 R297, 06 R142). -/
def State.deliver (s : State) (d : Reg) (w : Word) (fl : BitVec 8) : Res :=
  if trapping s.ctx.sr.fctl fl then .trap (fpTrap fl) s
  else .ok ((s.orFlags fl).setX d w).advance

/-- An arithmetic member of one or two sources. -/
def scalarFlt (op : FFmt → Rm → Nat → Nat → FRes) (t : Ty) (rm : Rm) (d : Reg) (rs : List Reg) (a b : Reg) (s : State) : Res :=
  s.whenReady rs [d] fun s =>
    let (r, fl) := op (ffmt t) (resolveRm rm s.ctx.sr.fctl) (low t (s.x a)) (low t (s.x b))
    s.deliver d (ext t r) fl

def execFadd (o : FBinArgs) (s : State) : Out :=
  runExe (.fadd o) (scalarFlt (fun f rm a b => f.add rm o.sat a b) o.t o.rm o.d [o.a, o.b] o.a o.b) s
def execFsub (o : FBinArgs) (s : State) : Out :=
  runExe (.fsub o) (scalarFlt (fun f rm a b => f.sub rm o.sat a b) o.t o.rm o.d [o.a, o.b] o.a o.b) s
def execFmul (o : FBinArgs) (s : State) : Out :=
  runExe (.fmul o) (scalarFlt (fun f rm a b => f.mul rm o.sat a b) o.t o.rm o.d [o.a, o.b] o.a o.b) s
def execFdiv (o : FBinArgs) (s : State) : Out :=
  runExe (.fdiv o) (scalarFlt (fun f rm a b => f.div rm o.sat a b) o.t o.rm o.d [o.a, o.b] o.a o.b) s
def execFsqrt (t : Ty) (rm : Rm) (sat : Bool) (d a : Reg) (s : State) : Out :=
  runExe (.fsqrt t rm sat d a) (scalarFlt (fun f rm a _ => f.sqrt rm sat a) t rm d [a] a a) s
def execFfma (o : FBinArgs) (c : Reg) (s : State) : Out :=
  runExe (.ffma o c) (fun s => s.whenReady [o.a, o.b, c] [o.d] fun s =>
    let (r, fl) := (ffmt o.t).fma (resolveRm o.rm s.ctx.sr.fctl) o.sat (low o.t (s.x o.a)) (low o.t (s.x o.b)) (low o.t (s.x c))
    s.deliver o.d (ext o.t r) fl) s
def execFmin (o : FBinArgs) (s : State) : Out :=
  runExe (.fmin o) (scalarFlt (fun f _ a b => f.minmax false a b) o.t o.rm o.d [o.a, o.b] o.a o.b) s
def execFmax (o : FBinArgs) (s : State) : Out :=
  runExe (.fmax o) (scalarFlt (fun f _ a b => f.minmax true a b) o.t o.rm o.d [o.a, o.b] o.a o.b) s

/-- `fcmp` (14 R300). -/
def execFcmp (cc : Fcc) (t : Ty) (d a b : Reg) (s : State) : Out :=
  runExe (.fcmp cc t d a b) (fun s => s.whenReady [a, b] [d] fun s =>
    let (r, fl) := (ffmt t).compare cc (low t (s.x a)) (low t (s.x b))
    s.deliver d (flagWord r) fl) s

/-- `fcvt` (14 R301). -/
def execFcvt (dt st : Ty) (rm : Rm) (sat : Bool) (d a : Reg) (s : State) : Out :=
  runExe (.fcvt dt st rm sat d a) (fun s => s.whenReady [a] [d] fun s =>
    let (r, fl) := convert dt st (resolveRm rm s.ctx.sr.fctl) sat (low st (s.x a))
    s.deliver d (ext dt r) fl) s

/-- `fcls` (14 R302). -/
def execFcls (o : UnArgs) (s : State) : Out :=
  runExe (.fcls o) (fun s => s.whenReady [o.a] [o.d] fun s =>
    s.finX o.d (BitVec.ofNat 64 (2 ^ (ffmt o.t).cls (low o.t (s.x o.a))))) s

/-- `fsgn` (14 R303). -/
def execFsgn (op : SgnOp) (t : Ty) (d a b : Reg) (s : State) : Out :=
  runExe (.fsgn op t d a b) (fun s => s.whenReady [a, b] [d] fun s =>
    s.finX d (ext t ((ffmt t).fsgn op (low t (s.x a)) (low t (s.x b))))) s

end Sys2Proof.Machine
end

