-- ==== Sys2Proof/Machine/Scalar.lean ====
section
/-! DEFINITION. Scalar integer arithmetic, logic and constants (14 R291 to R296). -/

namespace Sys2Proof.Machine

/-- The registers that a second source reads. -/
def srcRegs : Src → List Reg
  | .reg r => [r]
  | .imm _ => []

/-- An integer instruction of two sources: xd := Ext(F(a, b) mod 2^w, T) (14 R291). -/
def scalarInt (op : IOp) (o : IntArgs) (s : State) : Res :=
  s.whenReady (o.a :: srcRegs o.b) [o.d] fun s => s.finX o.d (intResult op o.t (s.x o.a) (s.src o.b))

/-- An integer instruction of one source (14 R293). -/
def scalarUn (op : IUn) (o : UnArgs) (s : State) : Res :=
  s.whenReady [o.a] [o.d] fun s => s.finX o.d (unResult op o.t (s.x o.a))

def execAdd (o : IntArgs) (s : State) : Out := runBoth (scalarInt .add o) s
def execSub (o : IntArgs) (s : State) : Out := runBoth (scalarInt .sub o) s
def execMul (o : IntArgs) (s : State) : Out := runBoth (scalarInt .mul o) s
def execMulh (o : IntArgs) (s : State) : Out := runBoth (scalarInt .mulh o) s
def execMulhn (o : IntArgs) (s : State) : Out := runBoth (scalarInt .mulhn o) s
def execDiv (o : IntArgs) (s : State) : Out := runBoth (scalarInt .div o) s
def execDivn (o : IntArgs) (s : State) : Out := runBoth (scalarInt .divn o) s
def execRem (o : IntArgs) (s : State) : Out := runBoth (scalarInt .rem o) s
def execRemn (o : IntArgs) (s : State) : Out := runBoth (scalarInt .remn o) s
def execAnd (o : IntArgs) (s : State) : Out := runBoth (scalarInt .and o) s
def execOr (o : IntArgs) (s : State) : Out := runBoth (scalarInt .or o) s
def execXor (o : IntArgs) (s : State) : Out := runBoth (scalarInt .xor o) s
def execAndn (o : IntArgs) (s : State) : Out := runBoth (scalarInt .andn o) s
def execShl (o : IntArgs) (s : State) : Out := runBoth (scalarInt .shl o) s
def execShr (o : IntArgs) (s : State) : Out := runBoth (scalarInt .shr o) s
def execSra (o : IntArgs) (s : State) : Out := runBoth (scalarInt .sra o) s
def execRot (o : IntArgs) (s : State) : Out := runBoth (scalarInt .rot o) s
def execMin (o : IntArgs) (s : State) : Out := runBoth (scalarInt .min o) s
def execMax (o : IntArgs) (s : State) : Out := runBoth (scalarInt .max o) s
def execMinn (o : IntArgs) (s : State) : Out := runBoth (scalarInt .minn o) s
def execMaxn (o : IntArgs) (s : State) : Out := runBoth (scalarInt .maxn o) s
def execClz (o : UnArgs) (s : State) : Out := runBoth (scalarUn .clz o) s
def execCtz (o : UnArgs) (s : State) : Out := runBoth (scalarUn .ctz o) s
def execPop (o : UnArgs) (s : State) : Out := runBoth (scalarUn .pop o) s
def execBswap (o : UnArgs) (s : State) : Out := runBoth (scalarUn .bswap o) s

/-- `cmp` (14 R294). -/
def execCmp (cc : Icc) (o : IntArgs) (s : State) : Out :=
  runBoth (fun s => s.whenReady (o.a :: srcRegs o.b) [o.d] fun s =>
    s.finX o.d (flagWord (cmpHolds cc o.t (low o.t (s.x o.a)) (low o.t (s.src o.b))))) s

/-- `sel` (14 R295). -/
def execSel (t : Ty) (d a b c : Reg) (s : State) : Out :=
  runBoth (fun s => s.whenReady [a, b, c] [d] fun s =>
    s.finX d (ext t (low t (if s.x c ≠ 0#64 then s.x a else s.x b)))) s

/-- `li` (14 R296). -/
def execLi (d : Reg) (i : BitVec 48) (s : State) : Out :=
  runBoth (fun s => s.whenReady [] [d] fun s => s.finX d (i.signExtend 64)) s

/-- `lih` (14 R296). -/
def execLih (d : Reg) (i : BitVec 16) (s : State) : Out :=
  runBoth (fun s => s.whenReady [d] [d] fun s => s.finX d (i ++ (s.x d).extractLsb' 0 48)) s

/-- `lea` (14 R296). -/
def execLea (d : Reg) (i : BitVec 48) (s : State) : Out :=
  runBoth (fun s => s.whenReady [] [d] fun s => s.finX d (s.pc + i.signExtend 64)) s

end Sys2Proof.Machine
end

