-- ==== Sys2Proof/Machine/VIssue.lean ====
section
/-! DEFINITION. Issue of the vector, predicate, multivector and vector memory instructions into the vector command queue
(08 R179, 15 R311, R313 to R333, 16 R337 to R343), and `setvl`, `setrc`, `vlenq` (15 R309, R310). -/

namespace Sys2Proof.Machine

/-! ## Checks on the captured state (15 R311, 06 R147) -/

/-- A type agrees with the shape. -/
def Vec.fits (v : Vec) (t : Ty) : Bool :=
  match t with
  | .fp4 => vtNarrow v.vtype
  | .bp2 | .bp3 | .bp4 | .bp5 | .bp6 | .bp7 | .bp8 => decide (vtEw v.vtype = 8) && decide (v.vl ≤ 512)
  | _ => decide (t.width = vtEw v.vtype) && decide (v.vl ≤ 512)

/-- RC is 1. -/
def Vec.oneRow (v : Vec) : Bool := decide (v.rc = 1)

/-- The width that `vfcvt` compares with EW: .fp4 counts as 8 when FMTA = 3 and EW = 8 (15 R323). -/
def Vec.cvtWidth (v : Vec) (t : Ty) : Nat := if t = .fp4 then (if vtNarrow v.vtype then 8 else 0) else t.width
def Vec.cvtFits (v : Vec) (d s : Ty) : Bool :=
  (decide (v.cvtWidth d = vtEw v.vtype) || decide (v.cvtWidth s = vtEw v.vtype)) &&
  decide (v.vl * max d.width s.width ≤ 4096)

/-- The rules common to `vscl`, `vqnt` and `vdqn` (15 R325). -/
def Vec.scaleFits (v : Vec) (w : Ty) (i : Nat) : Bool :=
  decide (vtEw v.vtype = 8) && decide (vtBlock v.vtype ≠ 0) && decide (v.vl * w.width ≤ 4096) && decide (i < vtBlock v.vtype) &&
  (!vtNarrow v.vtype || decide (i < vtBlock v.vtype / 2))
/-- The narrow type agrees with the shape. -/
def Vec.narrowFits (v : Vec) (n : Ty) : Bool := decide (n ≠ .fp4) || vtNarrow v.vtype

/-! ## Issue -/

/-- What an entry captures (08 R179, 14 R307). -/
def State.capture (s : State) : Capture :=
  { vl := s.ctx.v.vl, rc := s.ctx.v.rc, vtype := s.ctx.v.vtype, fctl := s.ctx.sr.fctl, spz := s.ctx.sr.spz }

/-- Put an entry into the vector command queue. -/
def State.enqueue (s : State) (op : VOp) (pg : PReg) (leave : Option Nat) : State :=
  let v := s.ctx.v
  let e : VEntry := { op := op, pg := pg, cap := s.capture, pos := v.vpos, pc := s.pc, resume := .fresh, leave := leave }
  (s.setCtx { s.ctx with v := { v with vq := v.vq ++ [e], vpos := (v.vpos + 1) % 64 } }).advance

/-- Issue after the checks: the scalars named are read, and the queue has room. -/
def State.issueOp (s : State) (rs : List Reg) (pg : PReg) (op : State → VOp) : Res :=
  s.whenReady rs [] fun s =>
    if Config.vqDepth ≤ s.ctx.v.vq.length then .stall .other s else .ok (s.enqueue (op s) pg none)

/-- Issue an instruction of the execute hart: ILLEGAL where the captured state does not allow it. -/
def issue (i : Instr) (ok : Vec → Bool) (rs : List Reg) (pg : PReg) (op : State → VOp) (s : State) : Out :=
  runExe i (fun s => if ok s.ctx.v then s.issueOp rs pg op else .trap (illegalTrap i) s) s

/-- The scalar registers that a vector source captures, and the source captured. -/
def vsrcRegs : VSrc → List Reg
  | .vec _ => []
  | .scal r => [r]
def State.vsrc (s : State) : VSrc → ESrc
  | .vec r => .vec r
  | .scal r => .val (s.x r)

/-- An integer member (15 R317). -/
def issueInt (i : Instr) (op : VIntOp) (o : VArgs) (s : State) : Out :=
  issue i (fun v => v.fits o.t) (vsrcRegs o.b) o.pg (fun s => .int op o.t o.d o.a (s.vsrc o.b)) s

def execVadd (o : VArgs) (s : State) : Out := issueInt (.vadd o) .add o s
def execVsub (o : VArgs) (s : State) : Out := issueInt (.vsub o) .sub o s
def execVmul (o : VArgs) (s : State) : Out := issueInt (.vmul o) .mul o s
def execVmac (o : VArgs) (s : State) : Out := issueInt (.vmac o) .mac o s
def execVmin (o : VArgs) (s : State) : Out := issueInt (.vmin o) .min o s
def execVmax (o : VArgs) (s : State) : Out := issueInt (.vmax o) .max o s
def execVabs (t : Ty) (pg : PReg) (d a : Reg) (s : State) : Out :=
  issue (.vabs t pg d a) (fun v => v.fits t) [] pg (fun _ => .int .abs t d a (.vec a)) s
def execVand (o : VArgs) (s : State) : Out := issueInt (.vand o) .and o s
def execVor (o : VArgs) (s : State) : Out := issueInt (.vor o) .or o s
def execVxor (o : VArgs) (s : State) : Out := issueInt (.vxor o) .xor o s
def execVshl (o : VArgs) (s : State) : Out := issueInt (.vshl o) .shl o s
def execVshr (o : VArgs) (s : State) : Out := issueInt (.vshr o) .shr o s
def execVsra (o : VArgs) (s : State) : Out := issueInt (.vsra o) .sra o s

/-- `vcmp` (15 R318). -/
def execVcmp (cc : Icc) (t : Ty) (pg : PReg) (d : PReg) (a : Reg) (b : VSrc) (s : State) : Out :=
  issue (.vcmp cc t pg d a b) (fun v => v.fits t && v.oneRow) (vsrcRegs b) pg (fun s => .icmp cc t d a (s.vsrc b)) s

/-! ## Movement (15 R319, R320) -/

def execVsel (o : VArgs) (s : State) : Out :=
  issue (.vsel o) (fun v => v.fits o.t) (vsrcRegs o.b) o.pg (fun s => .sel o.t o.d o.a (s.vsrc o.b)) s
def execVbcast (t : Ty) (pg : PReg) (d : Reg) (s_ : Bcast) (s : State) : Out :=
  match s_ with
  | .elem a i =>
    issue (.vbcast t pg d s_) (fun v => v.fits t && decide (i.toNat < vtMax v.vtype)) [] pg (fun _ => .bcastElem t d a i.toNat) s
  | .scal r => issue (.vbcast t pg d s_) (fun v => v.fits t) [r] pg (fun s => .bcastVal t d (s.x r)) s
def execVidx (t : Ty) (pg : PReg) (d : Reg) (i : BitVec 14) (s : State) : Out :=
  issue (.vidx t pg d i) (fun v => v.fits t) [] pg (fun _ => .idx t d i.toInt) s
def execVperm (t : Ty) (pg : PReg) (d a b : Reg) (s : State) : Out :=
  issue (.vperm t pg d a b) (fun v => v.fits t) [] pg (fun _ => .perm t d a b) s
def execVslide (t : Ty) (pg : PReg) (d a : Reg) (s_ : Slide) (s : State) : Out :=
  match s_ with
  | .imm i => issue (.vslide t pg d a s_) (fun v => v.fits t) [] pg (fun _ => .slide t d a i.toInt) s
  | .scal r => issue (.vslide t pg d a s_) (fun v => v.fits t) [r] pg (fun s => .slide t d a (s.x r).toInt) s
def execVred (op : RedOp) (t : Ty) (pg : PReg) (d a : Reg) (s : State) : Out :=
  issue (.vred op t pg d a) (fun v => v.fits t) [] pg (fun _ => .red op t d a) s
def execVscan (op : RedOp) (t : Ty) (pg : PReg) (d a : Reg) (s : State) : Out :=
  issue (.vscan op t pg d a) (fun v => v.fits t) [] pg (fun _ => .scan op t d a) s

/-! ## Float, scales and planes (15 R321 to R328) -/

/-- A float member of two sources. -/
def issueFlt (i : Instr) (op : VFltOp) (o : VFArgs) (c : Reg) (s : State) : Out :=
  issue i (fun v => v.fits o.t) (vsrcRegs o.b) o.pg (fun s => .flt op o.t o.rm o.sat o.d o.a (s.vsrc o.b) c) s
/-- A float member of one source. -/
def issueFlt1 (i : Instr) (op : VFltOp) (o : VFUnArgs) (s : State) : Out :=
  issue i (fun v => v.fits o.t) [] o.pg (fun _ => .flt op o.t o.rm o.sat o.d o.a (.vec o.a) o.a) s

def execVfadd (o : VFArgs) (s : State) : Out := issueFlt (.vfadd o) .add o 0#5 s
def execVfsub (o : VFArgs) (s : State) : Out := issueFlt (.vfsub o) .sub o 0#5 s
def execVfmul (o : VFArgs) (s : State) : Out := issueFlt (.vfmul o) .mul o 0#5 s
def execVfma (o : VFArgs) (c : Reg) (s : State) : Out := issueFlt (.vfma o c) .fma o c s
def execVfmin (o : VFArgs) (s : State) : Out := issueFlt (.vfmin o) .min o 0#5 s
def execVfmax (o : VFArgs) (s : State) : Out := issueFlt (.vfmax o) .max o 0#5 s
def execVfdiv (o : VFArgs) (s : State) : Out := issueFlt (.vfdiv o) .div o 0#5 s
def execVfsqrt (o : VFUnArgs) (s : State) : Out := issueFlt1 (.vfsqrt o) .sqrt o s
def execVfrsq (o : VFUnArgs) (s : State) : Out := issueFlt1 (.vfrsq o) .rsq o s
def execVfcmp (cc : Fcc) (t : Ty) (pg : PReg) (d : PReg) (a : Reg) (b : VSrc) (s : State) : Out :=
  issue (.vfcmp cc t pg d a b) (fun v => v.fits t && v.oneRow) (vsrcRegs b) pg (fun s => .fcmp cc t d a (s.vsrc b)) s
def execVfcvt (dt st : Ty) (rm : Rm) (sat : Bool) (pg : PReg) (d a : Reg) (s : State) : Out :=
  issue (.vfcvt dt st rm sat pg d a) (fun v => v.cvtFits dt st) [] pg (fun _ => .fcvt dt st rm sat d a) s
def execVfred (op : RedOp) (t : Ty) (rm : Rm) (pg : PReg) (d a : Reg) (s : State) : Out :=
  issue (.vfred op t rm pg d a) (fun v => v.fits t) [] pg (fun _ => .fred op t rm d a) s
def execVscl (w : Ty) (pg : PReg) (d a : Reg) (i : BitVec 7) (s : State) : Out :=
  issue (.vscl w pg d a i)
    (fun v => v.scaleFits w i.toNat && (vtFmta v.vtype == 0 || vtFmta v.vtype == 1 || vtFmta v.vtype == 3)) [] pg
    (fun _ => .scl w d a i.toNat) s
def execVqnt (n w : Ty) (rm : Rm) (sat : Bool) (pg : PReg) (d a s_ : Reg) (i : BitVec 7) (s : State) : Out :=
  issue (.vqnt n w rm sat pg d a s_ i) (fun v => v.scaleFits w i.toNat && v.narrowFits n) [] pg
    (fun _ => .qnt n w rm sat d a s_ i.toNat) s
def execVdqn (w n : Ty) (rm : Rm) (pg : PReg) (d a s_ : Reg) (i : BitVec 7) (s : State) : Out :=
  issue (.vdqn w n rm pg d a s_ i) (fun v => v.scaleFits w i.toNat && v.narrowFits n) [] pg
    (fun _ => .dqn w n rm d a s_ i.toNat) s
def execVbpx (k : Ty) (pg : PReg) (d a : Reg) (s : State) : Out :=
  issue (.vbpx k pg d a) (fun v => v.fits k) [] pg (fun _ => .bpx k.planes d a) s

/-! ## Predicates (15 R314 to R316) -/

def execPlim (d : PReg) (a : Reg) (s : State) : Out := issue (.plim d a) (fun _ => true) [a] 0#4 (fun s => .plim d (s.x a)) s
def execPand (d a b : PReg) (s : State) : Out := issue (.pand d a b) (fun _ => true) [] 0#4 (fun _ => .plog .and d a b) s
def execPor (d a b : PReg) (s : State) : Out := issue (.por d a b) (fun _ => true) [] 0#4 (fun _ => .plog .or d a b) s
def execPxor (d a b : PReg) (s : State) : Out := issue (.pxor d a b) (fun _ => true) [] 0#4 (fun _ => .plog .xor d a b) s
def execPnot (d a : PReg) (s : State) : Out := issue (.pnot d a) (fun _ => true) [] 0#4 (fun _ => .plog .not d a a) s
def execPcnt (d : Reg) (pg a : PReg) (s : State) : Out := issue (.pcnt d pg a) (fun _ => true) [] pg (fun _ => .pcnt d a) s
def execPfirst (d : Reg) (pg a : PReg) (s : State) : Out := issue (.pfirst d pg a) (fun _ => true) [] pg (fun _ => .pfirst d a) s

/-! ## Multivectors (15 R329 to R333) -/

/-- A multivector member of two sources. -/
def issueMv (i : Instr) (op : MvOp) (o : MvArgs) (s : State) : Out :=
  issue i (fun v => v.fits o.t) [] o.pg (fun _ => .mv op o.t o.rm o.k o.d o.a o.b) s
/-- A multivector member of one source. -/
def issueMv1 (i : Instr) (op : MvOp) (o : MvUnArgs) (s : State) : Out :=
  issue i (fun v => v.fits o.t) [] o.pg (fun _ => .mv op o.t o.rm o.k o.d o.a o.a) s

def execMvgp (o : MvArgs) (s : State) : Out := issueMv (.mvgp o) .gp o s
def execMvwd (o : MvArgs) (s : State) : Out := issueMv (.mvwd o) .wd o s
def execMvjn (o : MvArgs) (s : State) : Out := issueMv (.mvjn o) .jn o s
def execMvlc (o : MvArgs) (s : State) : Out := issueMv (.mvlc o) .lc o s

/-- `mvsw`: with VL = VLMAX it is a heavy operation and asks leave first (10 R221). -/
def execMvsw (o : MvArgs) (s : State) : Out :=
  runExe (.mvsw o) (fun s =>
    let op := VOp.mv .sw o.t o.rm o.k o.d o.a o.b
    if !s.ctx.v.fits o.t then .trap (illegalTrap (.mvsw o)) s
    else if Config.vqDepth ≤ s.ctx.v.vq.length then .stall .other s
    else if s.ctx.v.vl = vtMax s.ctx.v.vtype then s.askLeave 6 true fun id s => .ok (s.enqueue op o.pg (some id))
    else .ok (s.enqueue op o.pg none)) s

def execMvrv (op : RvOp) (o : MvUnArgs) (s : State) : Out :=
  issueMv1 (.mvrv op o) (match op with | .rev => .rev | .inv => .inv | .conj => .conj) o s
def execMvdl (o : MvUnArgs) (s : State) : Out := issueMv1 (.mvdl o) .dl o s
def execMvnm (o : MvUnArgs) (s : State) : Out := issueMv1 (.mvnm o) .nm o s
def execMvexp (o : MvUnArgs) (s : State) : Out := issueMv1 (.mvexp o) .exp o s
def execMvgmRd (d a : Reg) (s : State) : Out := issue (.mvgmRd d a) (fun _ => true) [] 0#4 (fun _ => .gmRd d a) s
def execMvgmWr (d : Reg) (k : BitVec 5) (s : State) : Out := issue (.mvgmWr d k) (fun _ => true) [] 0#4 (fun _ => .gmWr d k) s
def execMvrowExt (t : Ty) (pg : PReg) (d a : Reg) (r : BitVec 4) (s : State) : Out :=
  issue (.mvrowExt t pg d a r) (fun v => v.fits t) [] pg (fun _ => .rowExt t d a r.toNat) s
def execMvrowIns (t : Ty) (pg : PReg) (d a : Reg) (r : BitVec 4) (s : State) : Out :=
  issue (.mvrowIns t pg d a r) (fun v => v.fits t) [] pg (fun _ => .rowIns t d a r.toNat) s

/-! ## Vector memory (16 R337 to R343) -/

/-- A load; `.ft` requires RC = 1. -/
def issueLoad (i : Instr) (sh : State → VShape) (one : Bool) (rs : List Reg) (o : VMemArgs) (ft : Bool) (s : State) : Out :=
  issue i (fun v => v.fits o.t && (!(ft || one) || v.oneRow)) (o.m.a :: rs) o.pg
    (fun s => .load (sh s) o.t o.d o.m.sp (s.addr o.m) o.ar o.ord ft) s
/-- A store. -/
def issueStore (i : Instr) (sh : State → VShape) (one : Bool) (rs : List Reg) (o : VMemArgs) (s : State) : Out :=
  issue i (fun v => v.fits o.t && (!one || v.oneRow)) (o.m.a :: rs) o.pg
    (fun s => .store (sh s) o.t o.d o.m.sp (s.addr o.m) o.ar o.ord) s

def execVld (o : VMemArgs) (ft : Bool) (s : State) : Out := issueLoad (.vld o ft) (fun _ => .unit) false [] o ft s
def execVlds (o : VMemArgs) (ft : Bool) (b : Reg) (s : State) : Out :=
  issueLoad (.vlds o ft b) (fun s => .stride (s.x b)) false [b] o ft s
def execVldg (o : VMemArgs) (ft : Bool) (nf : BitVec 3) (s : State) : Out :=
  issueLoad (.vldg o ft nf) (fun _ => .seg (nf.toNat + 1)) false [] o ft s
def execVst (o : VMemArgs) (s : State) : Out := issueStore (.vst o) (fun _ => .unit) false [] o s
def execVsts (o : VMemArgs) (b : Reg) (s : State) : Out := issueStore (.vsts o b) (fun s => .stride (s.x b)) false [b] o s
def execVstg (o : VMemArgs) (nf : BitVec 3) (s : State) : Out :=
  issueStore (.vstg o nf) (fun _ => .seg (nf.toNat + 1)) false [] o s
def execVgth (o : VMemArgs) (b : Reg) (s : State) : Out := issueLoad (.vgth o b) (fun _ => .index b) true [] o false s
def execVsct (o : VMemArgs) (b : Reg) (s : State) : Out := issueStore (.vsct o b) (fun _ => .index b) true [] o s
def execVsca (o : AmoArgs) (pg : PReg) (ord : Bool) (s : State) : Out :=
  issue (.vsca o pg ord) (fun v => v.fits o.t && v.oneRow) [o.m.a] pg
    (fun s => .sca o.t o.rm o.d o.m.sp (s.addr o.m) o.b o.ar ord) s
def execVamo (op : AmoOp) (o : AmoArgs) (pg : PReg) (ord : Bool) (s : State) : Out :=
  issue (.vamo op o pg ord) (fun v => v.fits o.t && v.oneRow) [o.m.a] pg
    (fun s => .amo op o.t o.rm o.d o.m.sp (s.addr o.m) o.b o.ar ord) s
def execMvld (o : VMemArgs) (q : Option (BitVec 5)) (s : State) : Out :=
  issue (.mvld o q) (fun v => v.fits o.t) [o.m.a] o.pg (fun s => .mvLoad o.t o.d o.m.sp (s.addr o.m) o.ar o.ord q) s
def execMvst (o : VMemArgs) (q : Option (BitVec 5)) (s : State) : Out :=
  issue (.mvst o q) (fun v => v.fits o.t) [o.m.a] o.pg (fun s => .mvStore o.t o.d o.m.sp (s.addr o.m) o.ar o.ord q) s

/-- The base of a spill frame is aligned to 8 bytes (16 R334). -/
def issueFrame (i : Instr) (m : Addr) (op : State → VOp) (s : State) : Out :=
  runExe i (fun s => s.whenReady [m.a] [] fun s =>
    if (s.addr m).toNat % 8 ≠ 0 then .trap (alignTrap (s.addr m) 8) s else s.issueOp [m.a] 0#4 op) s
def execVspill (d : Reg) (m : Addr) (s : State) : Out := issueFrame (.vspill d m) m (fun s => .spill d m.sp (s.addr m)) s
def execVfill (d : Reg) (m : Addr) (s : State) : Out := issueFrame (.vfill d m) m (fun s => .fill d m (s.addr m)) s

/-! ## Length and shape (15 R309, R310) -/

/-- Open a strip at this `setvl` (11 R250); the virtual processors that run and the matrix entries that wait belong to none any more. A
strip that rewound to it keeps its count of rewinds. -/
def State.openStrip (s : State) (mask : Nat) (count : Nat) : State :=
  let xs := (List.range 32).filterMap fun n => if mask.testBit n then some (n, s.ctx.v.x n) else none
  let p : Strip := { pc := s.pc, vl := s.ctx.v.vl, rc := s.ctx.v.rc, vtype := s.ctx.v.vtype, xs := xs, revocable := true, held := [],
                     rewinds := count, rewound := false }
  s.setCtx { s.ctx with strip := some p, vps := s.ctx.vps.map fun q => { q with strip := false },
                        m := { s.ctx.m with mq := s.ctx.m.mq.map fun e => { e with strip := false } } }

/-- `setvl`: the VTYPE write comes before the strip is opened, and the VL write after (15 R309; notes/assumptions 35). -/
def execSetvl (d a : Reg) (mask : Option Reg) (vt : Option (BitVec 8)) (s : State) : Out :=
  runExe (.setvl d a mask vt) (fun s => s.whenReady (a :: mask.toList) [d] fun s =>
    let request := (s.x a).toNat
    let bits := match mask with
      | some m => bits (s.x m).toNat 0 32
      | none => 0
    let next := vt.getD s.ctx.v.vtype
    if vt.isSome && !vtOk next then .trap (illegalTrap (.setvl d a mask vt)) s
    else if s.ctx.sg && (!s.ctx.v.vq.isEmpty || (List.range 32).any fun n =>
        bits.testBit n && s.ctx.rdBusy .exe (BitVec.ofNat 5 n)) then .stall .other s
    else
      let s := match vt with
        | some t => s.setCtx { s.ctx with v := s.ctx.v.setVtype t }
        | none => s
      let s := if s.ctx.sg then
          let count := match s.ctx.strip with
            | some p => if p.rewound ∧ p.pc = s.pc then p.rewinds else 0
            | none => 0
          s.commitStrip.openStrip bits count
        else s
      let n := formVl s.ctx.v.vtype request
      (s.setCtx { s.ctx with v := { s.ctx.v with vl := n } }).finX d (BitVec.ofNat 64 n)) s

/-- `setrc`. -/
def execSetrc (n : Src) (s : State) : Out :=
  runExe (.setrc n) (fun s =>
    match n with
    | .imm i => .ok (s.setCtx { s.ctx with v := { s.ctx.v with rc := i.toNat } }).advance
    | .reg r => s.whenReady [r] [] fun s =>
      let k := (s.x r).toNat
      if k = 0 ∨ 16 < k then .trap (illegalTrap (.setrc n)) s
      else .ok (s.setCtx { s.ctx with v := { s.ctx.v with rc := k } }).advance) s

/-- The bytes of a stored row (07 R168). -/
def rowBytes (vl w : Nat) : Nat := roundUp ((vl * w + 7) / 8) 8

/-- `vlenq`. -/
def execVlenq (d : Reg) (s : State) : Out :=
  runExe (.vlenq d) (fun s => s.whenReady [] [d] fun s =>
    let v := s.ctx.v
    let w := if vtNarrow v.vtype then 4 else vtEw v.vtype
    s.finX d (BitVec.ofNat 64 (8 + v.rc * rowBytes v.vl w))) s

end Sys2Proof.Machine
end

