-- ==== Sys2Proof/Machine/LaneBlock.lean ====
section
/-! DEFINITION. Lane blocks (08 R185 to R187, 04 R118, 18 R401, R402): the virtual processors, their instructions run as those of a
hart whose registers are one element, and `vtsend` and `vtwait`. -/

namespace Sys2Proof.Machine

/-! ## The instructions of a block (08 R185) -/

/-- The register that an instruction of a block writes, and its meaning; none for an instruction outside the classes of a block.
A release among the stores is kept for the block's end. -/
def laneOp : Instr → Option (Option Reg × (State → Out))
  | .add o => some (some o.d, execAdd o)
  | .sub o => some (some o.d, execSub o)
  | .mul o => some (some o.d, execMul o)
  | .mulh o => some (some o.d, execMulh o)
  | .mulhn o => some (some o.d, execMulhn o)
  | .div o => some (some o.d, execDiv o)
  | .divn o => some (some o.d, execDivn o)
  | .rem o => some (some o.d, execRem o)
  | .remn o => some (some o.d, execRemn o)
  | .and o => some (some o.d, execAnd o)
  | .or o => some (some o.d, execOr o)
  | .xor o => some (some o.d, execXor o)
  | .andn o => some (some o.d, execAndn o)
  | .shl o => some (some o.d, execShl o)
  | .shr o => some (some o.d, execShr o)
  | .sra o => some (some o.d, execSra o)
  | .rot o => some (some o.d, execRot o)
  | .min o => some (some o.d, execMin o)
  | .max o => some (some o.d, execMax o)
  | .minn o => some (some o.d, execMinn o)
  | .maxn o => some (some o.d, execMaxn o)
  | .clz o => some (some o.d, execClz o)
  | .ctz o => some (some o.d, execCtz o)
  | .pop o => some (some o.d, execPop o)
  | .bswap o => some (some o.d, execBswap o)
  | .cmp cc o => some (some o.d, execCmp cc o)
  | .sel t d a b c => some (some d, execSel t d a b c)
  | .li d i => some (some d, execLi d i)
  | .lih d i => some (some d, execLih d i)
  | .lea d i => some (some d, execLea d i)
  | .fadd o => some (some o.d, execFadd o)
  | .fsub o => some (some o.d, execFsub o)
  | .fmul o => some (some o.d, execFmul o)
  | .fdiv o => some (some o.d, execFdiv o)
  | .fmin o => some (some o.d, execFmin o)
  | .fmax o => some (some o.d, execFmax o)
  | .fsqrt t rm sat d a => some (some d, execFsqrt t rm sat d a)
  | .ffma o c => some (some o.d, execFfma o c)
  | .fcmp cc t d a b => some (some d, execFcmp cc t d a b)
  | .fcvt dt st rm sat d a => some (some d, execFcvt dt st rm sat d a)
  | .fcls o => some (some o.d, execFcls o)
  | .fsgn op t d a b => some (some d, execFsgn op t d a b)
  | .b i => some (none, execB i)
  | .bcc cc a b i => some (none, execBcc cc a b i)
  | .bz a i => some (none, execBz a i)
  | .bnz a i => some (none, execBnz a i)
  | .ld o => some (some o.d, execLd o)
  | .st o => some (none, execSt { o with ar := .rlx })
  | _ => none

/-- The widest type of an instruction of a block, in bits; 0 for one without a type (13 R290). -/
def laneWidth : Instr → Nat
  | .add o | .sub o | .mul o | .mulh o | .mulhn o | .div o | .divn o | .rem o | .remn o | .and o | .or o | .xor o | .andn o | .shl o
  | .shr o | .sra o | .rot o | .min o | .max o | .minn o | .maxn o | .cmp _ o => o.t.width
  | .clz o | .ctz o | .pop o | .bswap o => o.t.width
  | .fadd o | .fsub o | .fmul o | .fdiv o | .fmin o | .fmax o | .ffma o _ => o.t.width
  | .fcls o => o.t.width
  | .ld o | .st o => o.t.width
  | .sel t _ _ _ _ | .fsqrt t _ _ _ _ | .fcmp _ t _ _ _ | .fsgn _ t _ _ _ => t.width
  | .fcvt dt st _ _ _ _ => max dt.width st.width
  | _ => 0

/-- Read a word of a block; the page with HOLD on which the read waits, if any. -/
def State.readBlockWord (s : State) (a : Word) : BlockWord × Option Word × State :=
  match s.xlAll (s.req .fetch) a 8 with
  | (.ok ps, t) =>
    match t.badPiece ps with
    | some pa => (.fault Cause.machineCheck a (fetchInfo pa), none, t)
    | none => (.word (BitVec.ofNat 64 (ofBytes (t.ctxBytes ps))), none, t)
  | (.fault va reason level, t) => (.fault Cause.fetch va (xlInfo s.ctx.asid 0 false false level reason), none, t)
  | (.hold va _ _, t) => (.unread, some va, t)

/-- A word ends a block. -/
def BlockWord.isEnd : BlockWord → Bool
  | .word w => match decode w with
    | .ok .end_ => true
    | _ => false
  | .fault _ _ _ | .unread => false

/-- A word has been read and ends no block. -/
def BlockWord.plain (x : BlockWord) : Bool :=
  match x with
  | .word _ => !x.isEnd
  | .fault _ _ _ | .unread => false

/-- Read the words of a block, up to its first `end` or the 64th. -/
def State.readBlock (s : State) (a : Word) : Nat → List BlockWord × State
  | 0 => ([], s)
  | fuel + 1 =>
    let (w, _, s) := s.readBlockWord a
    if w.isEnd then ([w], s)
    else
      let (l, s) := s.readBlock (a + 8#64) fuel
      (w :: l, s)

/-! ## One instruction of a virtual processor -/

/-- A register of a virtual processor: what it holds, else element e of row 0, at width EW, with zeros above. -/
def Vp.reg (p : Vp) (v : Vec) (r : Reg) : Word :=
  match p.regs.find? fun x => x.1 = r with
  | some x => x.2
  | none => BitVec.ofNat 64 (v.elem p.ew r 0 p.elem)

/-- The context in which an instruction of a block runs: an execute hart whose x registers are the virtual processor's, under the FCTL
and SPZ captured for it, with its stores held before those of the strip, and traps recorded in its trap registers. Its strip counts eight
rewinds where the context has no revocable strip, so that none happens. -/
def Context.asLane (c : Context) (p : Vp) : Context :=
  let rows := (List.range 32).foldl (fun (m : Sparse Row) n =>
    Sparse.set 0#4096 m (16 * n) ((p.reg c.v (BitVec.ofNat 5 n)).zeroExtend 4096)) []
  let held := p.held ++ (c.strip.map (·.held)).getD []
  { c with
    xh := { HartSt.idle with pc := p.pc, run := .running },
    v := { Vec.start with rows := rows },
    sr := { c.sr with hwin := 1#64 <<< 63, fctl := p.fctl, spz := p.spz },
    m := Mat.start, vps := [], lane := some p.elem,
    strip := some { pc := 0#64, vl := 0, rc := 1, vtype := 0#8, xs := [], revocable := true, held := held,
                    rewinds := match c.strip with
                      | some p => if p.revocable then p.rewinds else 8
                      | none => 8
                    rewound := false } }

/-- A run of a virtual processor: it goes on, retires, aborts, waits on a page with HOLD or for a token, or rewinds the strip. -/
inductive LaneRun
  | go (p : Vp) (s : State)
  | retire (p : Vp) (s : State)
  | abort (cause : Nat) (addr info : Word) (s : State)
  | hold (va : Word)
  | stall
  | rewind (s : State)

/-- The wider of an optional scope and another. -/
def scopeJoin (a b : Option Scope) : Option Scope :=
  match a, b with
  | none, x => x
  | x, none => x
  | some x, some y => some (scopeMax x y)

/-- The newest held store with the scope of a release. -/
def markRelease (rel : Option Scope) : List Held → List Held
  | h :: t => { h with rel := rel } :: t
  | [] => []

/-- One instruction of a block. What it reads of the stores that it and the strip hold stays marked as read (04 R107). -/
def State.laneExec (s : State) (p : Vp) (w : Word) : LaneRun :=
  match decode w with
  | .illegal | .pairing => .abort Cause.illegal 0#64 w s
  | .ok i =>
    if i = .end_ then .retire p s
    else
      match laneOp i with
      | none => .abort Cause.illegal 0#64 w s
      | some (d, f) =>
        if p.ew < laneWidth i then .abort Cause.illegal 0#64 w s
        else
        /- no remote window is usable (10 R234) -/
        match f { s with ctx := s.ctx.asLane p, hart := .exe, dev := { s.dev with lnken := 0#64 } } with
        | .next t =>
          let u : State := { t with
            ctx := { s.ctx with slog := t.ctx.slog }, hart := s.hart, dev := { t.dev with lnken := s.dev.lnken },
            notices := s.notices, msix := s.msix, evseq := s.evseq }
          let x := t.ctx.xh
          if x.handler then .abort (bits x.t.tcause.toNat 0 8) x.t.taddr x.t.tinfo u
          else
            match t.ctx.strip, x.wait with
            | none, _ => .stall
            | some _, .hold va _ => .hold va
            | some q, .none =>
              if q.rewound then
                match s.ctx.strip with
                | some r => .rewind (u.rewind r)
                | none => .stall
              else
              let regs := match d with
                | some r => (r, BitVec.ofNat 64 ((t.ctx.x .exe r).toNat % 2 ^ p.ew)) :: p.regs.filter (fun y => y.1 ≠ r)
                | none => p.regs
              let old := p.held ++ (s.ctx.strip.map (·.held)).getD []
              let new := q.held.take (q.held.length - old.length)
              let mine := (q.held.drop new.length).take p.held.length
              let held := (match i with
                | .st o => markRelease o.ar.relScope new
                | _ => new) ++ mine
              let u : State := { u with ctx := { u.ctx with
                strip := u.ctx.strip.map fun r => { r with held := q.held.drop (new.length + mine.length) } } }
              let n := match i with
                | .st _ => p.stores + 1
                | _ => p.stores
              let next : Vp := { p with pc := x.pc, regs := regs, held := held, stores := n, flags := p.flags ||| x.fstat }
              if 8 < regs.length ∨ 16 < n ∨ p.words.length ≤ (next.pc - p.block).toNat / 8 then .abort Cause.illegal 0#64 w u
              else .go next u
            | some _, _ => .stall
        | .fault _ | .refused _ => .abort Cause.illegal 0#64 w s

/-- A block whose 64 words have all been read and hold no `end` aborts; any other goes on at its next word, which is read now where it has
yet to be, or meets the fault of its fetch there (08 R185, 13 R284, R288, 18 R401). -/
def State.laneStep (s : State) (p : Vp) : LaneRun :=
  let n := (p.pc - p.block).toNat / 8
  match p.words.getD n .unread with
  | .word w =>
    if p.words.all (·.plain) then .abort Cause.illegal 0#64 w s else s.laneExec p w
  | .fault cause a info => .abort cause a info s
  | .unread =>
    match s.readBlockWord p.pc with
    | (_, some va, _) => .hold va
    | (.fault cause a info, none, t) => .abort cause a info t
    | (w, none, t) =>
      let words := List.modifyAt p.words n fun _ => w
      .go { p with words := if w.isEnd then words.take (n + 1) else words } t

/-- Run a block on, for a number of instructions. -/
def State.laneRun : Nat → Vp → State → LaneRun
  | 0, p, s => .go p s
  | fuel + 1, p, s =>
    match s.laneStep p with
    | .go q t => State.laneRun fuel q t
    | x => x

/-! ## The events of a virtual processor -/

/-- Replace or drop a virtual processor of the context in focus. -/
def State.putVp (s : State) (p : Vp) : State :=
  s.setCtx { s.ctx with vps := s.ctx.vps.map fun q => if q.elem = p.elem then p else q }
def State.dropVp (s : State) (e : Nat) : State := s.setCtx { s.ctx with vps := s.ctx.vps.filter fun q => q.elem ≠ e }

/-- A virtual processor back at the start of its block with nothing held. -/
def Vp.fresh (p : Vp) (st : VpState) : Vp := { p with pc := p.block, regs := [], held := [], stores := 0, flags := 0#8, st := st }

/-- The words whose fetch faulted are read again after a restart. -/
def Vp.refetch (p : Vp) : Vp :=
  { p with words := p.words.map fun w => match w with
      | .word x => .word x
      | .fault _ _ _ | .unread => .unread }

/-- A number for the stores of a block, which become visible together; none is needed for one store alone (04 R118). -/
def State.blockNumber (s : State) (l : List Held) : Nat × State :=
  if l.length < 2 then (0, s) else (freshKey s.nextId, { s with nextId := s.nextId + 1 })

/-- The widest scope of a release in a block. -/
def Vp.release (p : Vp) : Option Scope := p.held.foldl (fun r h => scopeJoin r h.rel) none

/-- The release of a block makes the strip that started it irrevocable, and covers what the execute hart held in it (02 R71, 04 R118). -/
def State.beforeBlock (s : State) (p : Vp) : State :=
  if p.strip then s.irrevocable.acquireKey (s.ctx.hartKey .exe) (s.ctx.vpKey p.elem) else s

/-- The release of a block at system scope waits for what its processor knows on its way to another package (04 R107, R123). -/
def State.blockWaits (s : State) (p : Vp) : Bool :=
  decide (p.release = some .sys) && (s.beforeBlock p).unsent (s.ctx.vpKey p.elem)

/-- The stores of a block perform in its order. A release among them waits for what the processor knows to have performed at its
scope, and with it the block's own stores become visible up to there; it carries what the processor has acquired (04 R107, R118). In a
revocable strip whose `vtsend` started the block they are held as the vector stream's (10 R224). -/
def State.blockStores (s : State) (p : Vp) : State :=
  let key := s.ctx.vpKey p.elem
  let (g, s) := s.blockNumber p.held
  let held := p.held.reverse.map fun h => { h with vp := some p.elem, grp := g }
  match p.release with
  | some sc =>
    let (sync, s) := ((s.beforeBlock p).release key sc).syncs s.ctx.core key sc
    let s := (held.foldl (fun s h => s.performHeld key (if h.rel.isSome then sync else []) h) s).showBlocks held
    s.raise (fun w => decide (g ≠ 0) && decide (w.grp = g)) sc
  | none =>
    if p.strip && (s.ctx.strip.map (·.revocable)).getD false then
      let t := s.emitAll true [] held
      if (t.ctx.strip.map (·.revocable)).getD false then t else t.showBlocks held
    else (held.foldl (fun s h => s.performHeld key [] h) s).showBlocks held

/-- The block retires: its registers, flags and stores take effect (08 R186, 04 R118). -/
def State.retireVp (s : State) (p : Vp) : State :=
  let v := p.regs.foldl (fun v (r, w) => v.setElem p.ew r 0 p.elem w.toNat) s.ctx.v
  ((s.setCtx { s.ctx with v := { v with lfstat := v.lfstat ||| p.flags } }).dropVp p.elem).blockStores p

/-- Run the virtual processor of an element on. -/
def State.runVp (s : State) (p : Vp) : LaneRun := State.laneRun 4096 p s

/-- The virtual processor of an element that runs. -/
def Context.vpAt (c : Context) (e : Nat) : Option Vp := c.vps.find? fun p => decide (p.elem = e) && decide (p.st = .running)

/-- LANE_BLOCK_RETIRE: the block of an element runs on, to its end unless it is long, waits or aborts. -/
def execLaneBlockRetire (e : Nat) (s : State) : Out :=
  match s.ctx.vpAt e with
  | none => .next s
  | some p =>
    if s.ctx.place ≠ .active then .next s
    else
      match s.runVp p with
      | .go q t => .next (t.putVp q)
      | .retire q t => .next (if t.blockWaits q then (t.beforeBlock q).putVp q else t.retireVp q)
      | .abort cause a info t => .next (t.putVp (p.fresh (.aborted cause a info)))
      | .rewind t => .next t
      | .hold _ | .stall => .next s

/-- A virtual processor that has stalled on a page with HOLD for PTO cycles aborts with PROGRESS (01 R31). -/
def State.laneHoldBound (s : State) (e : Nat) : State :=
  match s.ctx.vpAt e with
  | none => s
  | some p =>
    match s.runVp p with
    | .hold va => s.putVp (p.fresh (.aborted Cause.progress va 3#64))
    | .go _ _ | .retire _ _ | .abort _ _ _ _ | .stall | .rewind _ => s

/-! ## `vtsend` and `vtwait` -/

/-- The lowest of the aborted virtual processors. -/
def lowestAbort (l : List Vp) : Option (Nat × Nat × Word × Word) :=
  l.foldl (fun best p => match p.st, best with
    | .aborted c a i, none => some (p.elem, c, a, i)
    | .aborted c a i, some b => if p.elem < b.1 then some (p.elem, c, a, i) else some b
    | .running, b | .reported, b => b) none

/-- Aborts reported before are restarted where FMR names them, and dropped elsewhere (08 R187). -/
def Context.restartVps (c : Context) : Context :=
  { c with vps := c.vps.filterMap fun p =>
      match p.st with
      | .reported => if c.sr.fmr.getLsbD p.elem then some (p.fresh .running).refetch else none
      | .running | .aborted _ _ _ => some p }

/-- The execute hart acquires every store of the blocks that have retired: those that the strip holds are its own from now on (04 R118,
R130). -/
def State.acquireBlocks (s : State) : State :=
  let own (k : Nat) : Bool := decide (s.ctx.vpKey 0 ≤ k) && decide (k < s.ctx.vpKey 0 + 1024)
  let key := s.ctx.hartKey .exe
  let hold (p : Strip) : Strip := { p with held := p.held.map fun h => { h with vp := none } }
  { s with stores := s.stores.map fun w => if own w.own then { w with who := addKey key w.who } else w,
           remote := s.remote.map fun r => if r.who.any own then { r with who := addKey key r.who } else r,
           ctx := { s.ctx with strip := s.ctx.strip.map hold, slog := s.ctx.slog.map fun e => if own e.own then { e with who := addKey key e.who } else e } }

/-- Wait for every virtual processor, then report their aborts or go on. -/
def State.waitLanes (s : State) (f : State → Res) : Res :=
  if s.ctx.v.vq.any fun e => match e.op with
    | .lanes _ _ => true
    | _ => false then .stall .other s
  else
    let s := s.setCtx s.ctx.restartVps
    if s.ctx.vps.any fun p => decide (p.st = .running) then .stall .other s
    else
      match lowestAbort s.ctx.vps with
      | none => f s.acquireBlocks
      | some (_, cause, a, info) =>
        let mask := BitVec.ofNat 512 (s.ctx.vps.map fun p => 2 ^ p.elem).sum
        let t := s.setCtx { s.ctx with vps := s.ctx.vps.map (·.fresh .reported), sr := { s.ctx.sr with fmr := mask } }
        .trap { cause := cause, addr := a, info := info, lb := true } t

/-- `vtsend`. -/
def execVtsend (p : PReg) (a : Reg) (s : State) : Out :=
  runExe (.vtsend p a) (fun s => s.whenReady [a] [] fun s =>
    let at_ := s.x a
    if !s.ctx.lbe || decide (512 < s.ctx.v.vl) || !canonical at_ then .trap (illegalTrap (.vtsend p a)) s
    else if at_.toNat % 8 ≠ 0 then .trap (alignTrap at_ 8) s
    else s.waitLanes fun s => s.issueOp [a] 0#4 fun s => .lanes p (s.x a)) s

/-- `vtwait`; `.k` first kills the virtual processors of a predicate's elements. -/
def execVtwait (kill : Option PReg) (s : State) : Out :=
  runExe (.vtwait kill) (fun s =>
    match kill with
    | none => s.waitLanes State.fin
    | some p =>
      if s.ctx.v.vq.any fun e => e.pw.contains p.toNat then .stall .other s
      else
        let t := s.setCtx { s.ctx with vps := s.ctx.vps.filter fun q => !(s.ctx.v.pred p).getLsbD q.elem }
        t.waitLanes State.fin) s

end Sys2Proof.Machine
end

