-- ==== Sys2Proof/Machine/Sched.lean ====
section
/-! DEFINITION. Scheduling: placement of items and gangs, ticks, the shadow-bank swap, completion, `spawn`, `join`, `kill`, LKILL
and the scan slot (08 R189, 10 R211 to R219, R227, 18 R404 to R406). -/

namespace Sys2Proof.Machine

/-! ## Where an item may stand (08 R189, 10 R211) -/

/-- Two cores lie in one instance of a scope. -/
def sameScope (scope c d : Nat) : Bool :=
  if scope = 0 then decide (c = d)
  else if scope = 1 then decide (clusterOf c = clusterOf d)
  else if scope = 2 then decide (dieOf c = dieOf d)
  else true

/-- The gang level of a launch: its extent, and the leaf items below one gang item (10 R212). -/
def gangLevel : List Level → Option (Nat × Nat)
  | [] => none
  | l :: t => if l.dom = 2 ∧ l.scope = 1 ∧ l.ext ≤ 8 then some (l.ext, leaves t) else gangLevel t

/-- The scope whose one instance holds all the leaves of an item: that of its level's domain, or the wider one over which a rule of its own
places levels inside it, which are dealt over dies (10 R210) or placed as a gang (10 R212; notes/assumptions 36). -/
def itemScope (l : Level) (inner : List Level) : Nat :=
  max (leastScope l.dom) (if inner.any Level.deals then 3 else if (gangLevel inner).isSome then 1 else 0)

/-- Leaf items `i` at core `c` and `j` at core `d` may stand there: the children of one parent item stand in one instance of their level's
scope, and each item on an instance of its level's domain. -/
def compatible (i c j d : Nat) : List Level → Bool
  | [] => true
  | l :: t =>
    sameScope l.scope c d &&
    (i / leaves t % l.ext ≠ j / leaves t % l.ext ||
      (sameScope (itemScope l t) c d && compatible (i % leaves t) c (j % leaves t) d t))

/-- An item fits a core beside every item of its launch placed before it. -/
def Launch.fits (l : Launch) (item core : Nat) : Bool := l.placed.all fun p => compatible item core p.1 p.2 (lSched l.rcd)

/-- The index of an item at each scheduled level. -/
def itemDigits : List Level → Nat → List Nat
  | [], _ => []
  | l :: t, i => i / leaves t % l.ext :: itemDigits t (i % leaves t)

/-! ## Gangs (10 R212) -/

/-- The gang item that a launch keeps a core claimed for. -/
def Launch.claim (l : Launch) (core : Nat) : Option Nat :=
  match gangLevel (lSched l.rcd) with
  | none => none
  | some (e, below) =>
    l.gangs.findSome? fun (g, c) =>
      let k := g * e + core % 8
      if c = clusterOf core ∧ core % 8 < e ∧ (l.ended.filter fun i => i / below = k).length < below then some k else none

/-- No other gang item keeps the core claimed from an item. -/
def State.unclaimed (s : State) (l : Launch) (item core : Nat) : Bool :=
  s.launches.all fun x =>
    match x.claim core with
    | none => true
    | some k =>
      x.written || x.killed || x.aborted.isSome ||
      (decide (x.id = l.id) && decide (((gangLevel (lSched l.rcd)).map fun g => item / g.2) = some k))

/-! ## Free cores and candidates (10 R211, R214, R226, R227) -/

/-- The core that a scan runs on. -/
def State.scanning (s : State) : Option Nat :=
  if s.dev.scanctl.getLsbD 63 then some (bits s.dev.scanctl.toNat 0 9) else none

/-- CMAP has the core; one of its banks or its save area holds a context. -/
def State.mapped (s : State) (core : Nat) : Bool := (Sparse.get 0#64 s.dev.cmap (dieOf core)).getLsbD (core % Config.coresPerDie)
def State.coreHeld (s : State) (core : Nat) : Bool := s.contexts.any fun c => decide (c.core = core) && c.held

/-- The active context of a core. -/
def State.activeOn (s : State) (core : Nat) : Option Context :=
  s.contexts.find? fun c => decide (c.core = core) && decide (c.place = .active) && c.held

/-- The launch of an id. -/
def State.launch (s : State) (id : Nat) : Option Launch := s.launches.find? fun l => l.id = id

/-- The EP of the launch that a candidate core runs. -/
def State.candidateEp (s : State) (core : Nat) : Option Nat :=
  match s.activeOn core with
  | none => none
  | some c =>
    let alone := !(s.contexts.any fun d => decide (d.core = core) && decide (d.bank ≠ c.bank) && d.held)
    let csa := (Sparse.get 0#64 s.dev.csa core).getLsbD 63
    let ep : Nat := ((s.launch c.launch).map Launch.ep).getD 7
    if s.mapped core && c.pre && alone && csa && decide (ep < 7) then some ep else none

/-- A hart of a core's active context waits for the answers of a majority operation: it stops once the instruction has ended
(notes/assumptions 30). -/
def State.midMajority (s : State) (core : Nat) : Bool :=
  match s.activeOn core with
  | some c => decide (c.ah.wait = .majority) || decide (c.xh.wait = .majority)
  | none => false

/-- What a placement may use: free cores, also a core under scan, also candidates. -/
inductive Reach
  | free | scan | swap
  deriving DecidableEq, Repr

/-- An item may be placed on a core. -/
def State.admits (s : State) (r : Reach) (l : Launch) (item core : Nat) : Bool :=
  l.fits item core && s.mapped core &&
  (if s.coreHeld core then decide (r = .swap) && (s.candidateEp core).isSome else s.unclaimed l item core) &&
  (decide (r ≠ .free) || decide (s.scanning ≠ some core))

/-- The items that are placed together when an item is placed on a core: itself, or with the first leaf of a new gang the first
leaves of the whole gang. None where it cannot be placed. -/
def State.plan (s : State) (r : Reach) (l : Launch) (item core : Nat) : Option (List (Nat × Nat)) :=
  let one := if s.admits r l item core then some [(item, core)] else none
  match gangLevel (lSched l.rcd) with
  | none => one
  | some (e, below) =>
    let k := item / below
    match l.gangs.find? fun g => g.1 = k / e with
    | some (_, c) => if core = 8 * c + k % e then one else none
    | none =>
      let ps := (List.range e).map fun i => (item + i * below, core + i)
      if item % (e * below) = 0 ∧ core % 8 = 0 ∧ ps.all (fun p => s.admits r l p.1 p.2) then some ps else none

/-- A launch may still be placed, and the item is one of its unplaced items of the core's die. -/
def State.placeable (s : State) (l : Launch) (item core : Nat) : Bool :=
  l.resident && !l.killed && l.aborted.isNone && decide (item < l.total) && !l.hasPlaced item && decide (core < Config.cores) &&
  s.dieReady (dieOf core) && decide (l.dieOfItem item = dieOf core)

/-- Some core of a die takes an item. -/
def State.somewhere (s : State) (r : Reach) (l : Launch) (item die : Nat) : Bool :=
  (List.range Config.coresPerDie).any fun i => (s.plan r l item (Config.coresPerDie * die + i)).isSome

/-- A launch of the die's highest nonempty queue has its turn: those before it have no item that can be placed. -/
def State.hasTurn (s : State) (l : Launch) (die : Nat) : Bool :=
  let r (x : Launch) : Reach := if x.ep = 7 then .swap else .free
  let q := s.dieQueue die l.ep
  ((List.range 8).filter fun ep => l.ep < ep).all (fun ep => (s.dieQueue die ep).isEmpty) && q.contains l.id &&
  (q.takeWhile (· ≠ l.id)).all fun id =>
    match s.launch id with
    | none => true
    | some x =>
      match x.nextAt die with
      | none => true
      | some item => !s.somewhere (r x) x item die

/-! ## Placing (08 R171, R189, 10 R211, R214) -/

/-- The context of an item at its start. -/
def Launch.context (l : Launch) (item core bank : Nat) : Context :=
  let ds := itemDigits (lSched l.rcd) item
  let hart (pc : Word) : HartSt := { HartSt.idle with pc := pc, run := .running }
  let put (m : Sparse Word) (d : Word) (xs : List Nat) : Sparse Word :=
    (xs.zipIdx).foldl (fun m (x, i) => Sparse.set d m i (BitVec.ofNat 64 x)) m
  { Context.empty core bank with
    place := .active, launch := l.id, item := item, asid := lAsid l.rcd, ctl := lCtl l.rcd,
    ah := hart (lAentry l.rcd), xh := hart (lXentry l.rcd), m := { Mat.start with methods := l.methods },
    sr := { SRegs.start with wix := put [] 0#64 ds, wext := put [] 1#64 ((lLevels l.rcd).map (·.ext)) },
    win := (List.range 8).foldl (fun m i => Sparse.set 0#128 m i (lWindow l.rcd i)) [] }

/-- End a running scan with RESULT 2, an event of the package order (10 R220). -/
def State.yieldScan (s : State) (core : Nat) : State :=
  if s.scanning = some core then
    ({ s with dev := { s.dev with scanctl := BitVec.ofNat 64 (2 * 2 ^ 60 + core) } } : State).pkgEvent
  else s

/-- The outgoing context of a swap: stalled instructions are interrupted, running blocks start again from their start. -/
def State.suspend (s : State) : State :=
  let s := (s.interrupt .acc).interrupt .exe
  s.setCtx { s.ctx with place := .spilling, vps := s.ctx.vps.map fun p => if p.st = .running then p.fresh .running else p }

/-- The context that a bank held last is gone: its launch keeps what its parties knew, and its requests to other packages go on for
nobody. -/
def State.vacate (s : State) : State :=
  let c := s.ctx
  let s := (s.handOver c.core c.bank (freshKey c.launch)).purgeKeys c.core c.bank
  { s with remote := s.remote.map fun r =>
      if r.by_.core = c.core ∧ r.by_.bank = c.bank then { r with by_ := { r.by_ with bank := 2 } } else r }

/-- Start an item on a core, in its first bank or, where the core is a candidate, in the other bank of the swap. -/
def State.startOn (s : State) (l : Launch) (item core : Nat) : State :=
  let s := s.yieldScan core
  let (s, bank) := match s.activeOn core with
    | some c => ((s.focus core c.bank .exe).suspend, 1 - c.bank)
    | none => (s, 0)
  let s := (s.focus core bank .exe).vacate.setCtx (l.context item core bank)
  (s.mapLaunch l.id fun x => { x with placed := (item, core) :: x.placed, placedSinceTick := true }).pkgEvent

/-- Place items; the launch goes to the tail of its queue, or leaves it when its share is placed. -/
def State.placeAll (s : State) (l : Launch) (core : Nat) (ps : List (Nat × Nat)) : State :=
  let s := ps.foldl (fun s p => s.startOn l p.1 p.2) s
  let item := (ps.headD (0, 0)).1
  let s := match gangLevel (lSched l.rcd) with
    | none => s
    | some (e, below) =>
      let g := item / below / e
      s.mapLaunch l.id fun x => if x.gangs.any (fun y => y.1 = g) then x else { x with gangs := (g, clusterOf core) :: x.gangs }
  let die := dieOf core
  match s.launch l.id with
  | none => s
  | some x =>
    let rest := (s.dieQueue die x.ep).filter (· ≠ x.id)
    s.setQueueOf die x.ep (if x.placedAt die < x.share die then rest ++ [x.id] else rest)

/-- ITEM_PLACEMENT: the scheduler of a die places an item, or a gang with it, on free cores; an item of priority 7 that finds no
free core takes a core from a scan. -/
def execItemPlacement (launch item core : Nat) (s : State) : Out :=
  match s.launch launch with
  | none => .next s
  | some l =>
    if !s.placeable l item core || !s.hasTurn l (dieOf core) then .next s
    else
      match s.plan .free l item core with
      | some ps => .next (s.placeAll l core ps)
      | none =>
        if l.ep = 7 ∧ s.somewhere .free l item (dieOf core) = false then
          match s.plan .scan l item core with
          | some ps => .next (s.placeAll l core ps)
          | none => .next s
        else .next s

/-- The core is the candidate that 10 R214 takes: the lowest EP first, then the lowest number. A gang takes any cluster. -/
def State.bestCandidate (s : State) (l : Launch) (item core : Nat) : Bool :=
  (gangLevel (lSched l.rcd)).isSome ||
  (match s.candidateEp core with
   | none => false
   | some ep =>
     (List.range Config.coresPerDie).all fun i =>
       let d := Config.coresPerDie * dieOf core + i
       match s.candidateEp d with
       | none => true
       | some p => !(s.plan .swap l item d).isSome || decide (ep < p) || (decide (ep = p) && decide (core ≤ d)))

/-- SHADOW_BANK_SWAP: an item, or gang, of priority 7 that finds no free core takes candidates. -/
def execShadowBankSwap (core launch item : Nat) (s : State) : Out :=
  match s.launch launch with
  | none => .next s
  | some l =>
    if l.ep ≠ 7 || !s.placeable l item core || !s.hasTurn l (dieOf core) || s.somewhere .free l item (dieOf core) then .next s
    else
      match s.plan .swap l item core with
      | none => .next s
      | some ps =>
        if ps.any (fun p => (s.candidateEp p.2).isSome) && s.bestCandidate l item core && !ps.any (fun p => s.midMajority p.2) then
          .next (s.placeAll l core ps)
        else .next s

/-! ## Spill and fill (10 R214 to R216, 04 R120) -/

/-- Bytes of a save area. -/
def saveBytes : Nat := 0x800000

/-- The words of a save area. -/
def areaBytes (mark : Nat) : List Byte := (List.range saveBytes).map fun i => byteOf (Config.saveArea (0x100000 * mark + i / 8)).toNat (i % 8)

/-- SPILL_COMPLETE: the context of a core that was swapped out stands in its save area, whose sectors are written whole (11 R255); the
spill is a release at pkg scope. -/
def execSpillComplete (core : Nat) (s : State) : Out :=
  match s.contexts.find? fun c => decide (c.core = core) && decide (c.place = .spilling) with
  | none => .next s
  | some c =>
    if c.m.pend ≠ [] then .next s
    else
      let base := bits (Sparse.get 0#64 s.dev.csa core).toNat 23 29 * 2 ^ 23
      let (mark, s) := s.draw
      let s := ((s.raise (fun w => w.knownIn core c.bank) .pkg).cleanSectors base saveBytes).perform core .sys base (areaBytes mark)
      .next (s.mapCtx (fun d => d.isAt core c.bank) fun d => { d with place := .spilled, save := some (base, mark) })

/-- Stop every context of a launch (10 R219). -/
def State.haltLaunch (s : State) (id : Nat) : State :=
  let here := (s.ctx.core, s.ctx.bank, s.hart)
  let all := (s.contexts.filter fun c => decide (c.launch = id) && c.held).map fun c => (c.core, c.bank)
  (all.foldl (fun s (p : Nat × Nat) => (s.focus p.1 p.2 .exe).haltItem) s).focus here.1 here.2.1 here.2.2

/-- Take a launch out of every queue. -/
def State.unqueue (s : State) (id : Nat) : State :=
  { s with queues := s.queues.filterMap fun (k, q) =>
      let r := q.filter (· ≠ id)
      if r.isEmpty then none else some (k, r) }

/-- SWAP_BACK: the item that pre-empted a context has ended; the context is filled and active again, in the bank it left. A save area
that does not read as it was written ends the launch with STATUS 3 and CAUSE 0x10. -/
def execSwapBack (core : Nat) (s : State) : Out :=
  match s.contexts.find? fun c => decide (c.core = core) && decide (c.place = .spilled) && c.held with
  | none => .next s
  | some c =>
    if s.contexts.any fun d => decide (d.core = core) && decide (d.bank ≠ c.bank) && d.held then .next s
    else
      let good := match c.save with
        | none => true
        | some (base, mark) => decide (s.bytes .sys base saveBytes = areaBytes mark) && !s.poisoned base saveBytes
      let s := (s.mapCtx (fun d => d.isAt core c.bank) fun d => { d with place := .active, save := none }).pkgEvent
      if good then .next s
      else .next (((s.mapLaunch c.launch fun l => { l with aborted := l.aborted.or (some 0x10) }).unqueue c.launch).haltLaunch c.launch)

/-! ## Ticks (10 R213) -/

/-- One launch at a tick. -/
def State.tickLaunch (s : State) (l : Launch) : State :=
  if l.resident && decide (l.ep < 6) && !l.placedSinceTick && decide (l.placed.length < l.total) then
    let ds := (List.range 8).filter fun d => (s.dieQueue d l.ep).contains l.id
    if ds.isEmpty || ds.any (fun d => 128 ≤ (s.dieQueue d (l.ep + 1)).length) then s
    else
      let s := ds.foldl (fun s d =>
        (s.setQueueOf d l.ep ((s.dieQueue d l.ep).filter (· ≠ l.id))).setQueueOf d (l.ep + 1) (s.dieQueue d (l.ep + 1) ++ [l.id])) s
      s.mapLaunch l.id fun x => { x with ep := x.ep + 1 }
  else s

/-- TICK, of the package event arbiter: there is none before its readiness bit is 1 (10 R225). -/
def execTick (s : State) : Out :=
  if !s.dev.rdyhub.getLsbD 15 then .next s
  else
    let s := s.launches.foldl State.tickLaunch s.pkgEvent
    .next { s with launches := s.launches.map fun l => { l with placedSinceTick := false } }

/-! ## Completion (10 R217, R218) -/

/-- No context runs or keeps work of a launch. -/
def State.noContext (s : State) (id : Nat) : Bool := !(s.contexts.any fun c => decide (c.launch = id) && c.held)

/-- A request that a hart of a launch made, or knew, has yet to arrive in another package (04 R121, R123). -/
def State.launchSent (s : State) (id : Nat) : Bool :=
  s.remote.any fun r =>
    r.flying && (r.who.contains (freshKey id) || s.contexts.any fun c => decide (c.launch = id) && r.knownIn c.core c.bank)

/-- A launch and the killed children below it that are still resident; `fuel` bounds the depth of descent. -/
def State.brood (s : State) : Nat → Nat → List Nat
  | 0, id => [id]
  | fuel + 1, id =>
    id :: ((s.launches.filter fun l => decide (l.parent = some id) && l.resident && l.killed).map (·.id)).flatMap (s.brood fuel)

/-- Everything that the completion word waits for has happened: of a killed launch its children too have stopped (10 R219). -/
def State.launchDone (s : State) (l : Launch) : Bool :=
  let still (id : Nat) : Bool := s.noContext id && !(s.maj.any fun m => decide (m.launch = id))
  l.resident && (if l.killed then (s.brood s.launches.length l.id).all still else still l.id) && !s.launchSent l.id &&
  (l.killed || l.aborted.isSome || decide (l.ended.length = l.total))

/-- STATUS and CAUSE. -/
def Launch.verdict (l : Launch) : Nat × Nat :=
  if l.killed then (2, 0)
  else
    match l.aborted, l.faulted with
    | some n, _ => (3, n)
    | none, some n => (1, n)
    | none, none => (0, 0)

/-- The completion word. -/
def Launch.word (l : Launch) : Word := BitVec.ofNat 64 (l.verdict.1 * 2 ^ 56 + l.verdict.2 * 2 ^ 48 + l.flags.toNat)

/-- LKILL.GO falls when the launch that it names has completed. -/
def State.lkillDone (s : State) (cw : Word) : State :=
  let k := s.dev.lkill.toNat
  if s.dev.lkill.getLsbD 63 && decide (bits k 3 54 = bits cw.toNat 3 54) then
    { s with dev := { s.dev with lkill := BitVec.ofNat 64 (setBits k 63 1 0) } }
  else s

/-- The launch is no longer resident; it is kept while a context has yet to join it. -/
def State.retire (s : State) (l : Launch) : State :=
  let s := s.lkillDone (lCw l.rcd)
  if s.contexts.any fun c => c.kids.contains l.id then
    s.mapLaunch l.id fun x => { x with written := true, status := l.verdict.1 }
  else { s with launches := s.launches.filter fun x => x.id ≠ l.id }

/-- All that the harts and engines of a launch did and know performs at system scope (04 R121). -/
def State.releaseLaunch (s : State) (id : Nat) : State :=
  ((s.contexts.filter fun c => c.launch = id).foldl (fun s c => s.handOver c.core c.bank (freshKey id)) s).release (freshKey id) .sys

/-- COMPLETION_WORD_WRITE: a release at sys scope of all that the launch's harts and engines did, then the word, then MSI-X vector 0 for a launch
of the host. A word whose write faults is lost, and Brioche is told. -/
def execCompletionWordWrite (launch : Nat) (s : State) : Out :=
  match s.launch launch with
  | none => .next s
  | some l =>
    if !s.launchDone l then .next s
    else
      let s := s.releaseLaunch l.id
      let core := Config.coresPerDie * l.home
      match s.xl { core := core, asid := lAsid l.rcd, k := .write } (lCw l.rcd) with
      | (.ok pa, t) =>
        let t := (t.perform core .sys pa (toBytes 8 l.word.toNat)).retire l
        .next (if l.viaHost then { t with msix := t.msix ++ [0] } else t)
      | (.fault _ _, t) =>
        .next (({ t with notices := t.notices ++ [Notice.completionLost (lCw l.rcd) l.word], msix := t.msix ++ [1] }).pkgEvent.retire l)
      | (.hold _ _, _) => .next s

/-! ## Kill (10 R219, 18 R406) -/

/-- Kill a launch and its children; `fuel` bounds the depth of descent. -/
def State.killLaunch : Nat → Nat → State → State
  | 0, _, s => s
  | fuel + 1, id, s =>
    let s := ((s.mapLaunch id fun l => { l with killed := true }).unqueue id).haltLaunch id
    let kids := (s.launches.filter fun l => decide (l.parent = some id) && l.resident && !l.killed).map (·.id)
    kids.foldl (fun s k => State.killLaunch fuel k s) s

/-- The resident launch with a completion word, in one address space or in any. -/
def State.findCw (s : State) (asid : Option (BitVec 12)) (cw : Word) : Option Launch :=
  s.launches.find? fun l => l.resident && decide (lCw l.rcd = cw) &&
    (match asid with
     | some a => decide (lAsid l.rcd = a)
     | none => true)

/-- LKILL. A write while GO = 1 is ignored (notes/assumptions 78). -/
def execLkill (cw : BitVec 54) (s : State) : Out :=
  if s.dev.lkill.getLsbD 63 then .next s else
  let s := s.pkgEvent
  let reg (go err : Nat) : Word := BitVec.ofNat 64 (go * 2 ^ 63 + err * 2 ^ 62 + cw.toNat * 8)
  match s.findCw none (sext64 57 (cw.toNat * 8)) with
  | none => .next { s with dev := { s.dev with lkill := reg 0 1 } }
  | some l => .next (({ s with dev := { s.dev with lkill := reg 1 0 } }).killLaunch (s.launches.length) l.id)

/-- `kill`: a launch that kills itself stops, and writes no register. -/
def execKill (d a : Reg) (s : State) : Out :=
  runExe (.kill d a) (fun s => s.whenReady [a] [d] fun s =>
    match s.findCw (some s.ctx.asid) (s.x a) with
    | none => s.finX d 0#64
    | some l =>
      let t := s.pkgEvent.killLaunch s.launches.length l.id
      if t.hs.run = .running then t.finX d 1#64 else .ok t) s

/-! ## `spawn` and `join` (18 R404, R405) -/

/-- `spawn`: a release at sys scope, which comes before the submission reads the method table (18 R404). Where its own read of the record
meets poison in a revocable strip, the strip rewinds before the release makes it irrevocable (notes/assumptions 54). -/
def execSpawn (a : Reg) (s : State) : Out :=
  let i : Instr := .spawn a
  runExe i (fun s => s.whenReady [a] [] fun s =>
    let va := s.x a
    let home := dieOf s.ctx.core
    if 64 ≤ s.ctx.kids.length then .trap (illegalTrap i) s
    else if va.toNat % 256 ≠ 0 then .trap (alignTrap va 256) s
    else if !s.drained then .stall .other s
    else s.loadV .plain va 256 .rlx fun bs s =>
      let r : LRec := BitVec.ofNat 2048 (ofBytes bs)
      if !cwOk r then .trap { illegalTrap i with addr := va } s
      else if !s.dieReady home then .stall .other s
      else if s.irrevocable.unsent s.party then .stall .other s.irrevocable
      else
        let s := s.releaseBy .sys
        match s.takeLaunch r home false (some (s.ctx.launch, s.ctx.asid)) with
        | .ok id t =>
          let t := t.pkgEvent
          (t.setCtx { t.ctx with kids := t.ctx.kids ++ [id] }).fin
        | .full _ => .stall .other s
        | .wait h pages => .stall (.hold h pages) s) s

/-- The children of the context in focus. -/
def State.kids (s : State) : List Launch := s.launches.filter fun l => s.ctx.kids.contains l.id

/-- What `join` writes. -/
def joinWord (l : List Launch) : Word :=
  BitVec.ofNat 64 (l.length + ((List.range 8).map fun k => if l.any (fun x => x.status = k) then 2 ^ (32 + k) else 0).sum)

/-- `join`. -/
def execJoin (d : Reg) (s : State) : Out :=
  runExe (.join d) (fun s => s.whenReady [] [d] fun s =>
    if s.kids.any (·.resident) then .stall .other s
    else
      let gone := s.ctx.kids
      let w := joinWord s.kids
      let t := { s with launches := s.launches.filter fun l => !gone.contains l.id, ctx := { s.ctx with kids := [] } }
      t.finX d w) s

/-! ## The scan slot (10 R227) -/

/-- SCANCTL: start a scan of a free core (10 R211, R227). -/
def execScanctl (core : BitVec 9) (s : State) : Out :=
  let c := core.toNat
  let old := s.dev.scanctl.toNat
  let put (n : Nat) : State := { s with dev := { s.dev with scanctl := BitVec.ofNat 64 n } }
  if s.scanning.isSome then .next (put (setBits old 62 1 1))
  else if !s.mapped c || s.coreHeld c then .next (put (setBits (setBits old 62 1 1) 0 9 c))
  else .next (put (2 ^ 63 + 3 * 2 ^ 60 + c))

/-- SCAN_COMPLETE: the pattern of a running scan ends. -/
def execScanComplete (pass : Bool) (s : State) : Out :=
  match s.scanning with
  | none => .next s
  | some c => .next ({ s with dev := { s.dev with scanctl := BitVec.ofNat 64 ((if pass then 0 else 2 ^ 60) + c) } }).pkgEvent

end Sys2Proof.Machine
end

