-- ==== Sys2Proof/Machine/Ring.lean ====
section
/-! DEFINITION. The ring producers of the ray engine (09 R204, R205). -/

namespace Sys2Proof.Machine

/-- The register that names a ring, and the address of its header. -/
def SRegs.ring (r : SRegs) (ring : Nat) : Word :=
  match ring with
  | 0 => r.rfrb
  | 1 => r.rdrb
  | d + 2 => Sparse.get 0#64 r.rib d
def ringBase (reg : Word) : Word := sext64 57 (bits reg.toNat 7 50 * 128)

/-- A header is well formed. -/
def headerOk (h : List Byte) : Bool :=
  let w := bufNum h 16 8
  decide (4 ≤ w) && decide (w ≤ 16) && (List.range 13).all fun i => decide (bufNum h (24 + 8 * i) 8 = 0)

/-- The size of a slot. -/
def slotSize (ring : Nat) : Nat := if ring = 0 then 256 else 128

/-- What an attempt of a producer comes to. A blockage has the address that its event names and its cause. -/
inductive Produced
  | done (head : Word) (s : State)
  | blocked (slot : Option (Word × Word)) (va : Word) (why : Blockage) (s : State)
  | full (s : State)
  | hold

/-- Write aligned words at the addresses of an access, each as one store. -/
def State.putWords (s : State) (key : Nat) (sync : List Sync) (addrs : List Nat) (ws : List (Nat × Nat)) : State :=
  ws.foldl (fun s (i, w) => s.engPut key .core (addrs.getD (8 * i) 0) (toBytes 8 w) sync) s

/-- The scope of a ring's acquires and releases. -/
def ringScope (ring : Nat) : Scope := if ring < 2 then .core else .pkg

/-- A record for an inbox travels between the link ports of the two dies (10 R232). DESIGN CHOICE: with no live port on one of them the
inbox cannot be used (notes/assumptions 68). -/
def State.linked (s : State) (ring : Nat) : Bool :=
  let live (d : Nat) : Bool := (List.range 12).any fun j => (s.port (12 * d + j)).live
  decide (ring < 2) || decide (ring - 2 = dieOf s.ctx.core) || (live (dieOf s.ctx.core) && live (ring - 2))

/-- The record as the engine writes it: entries of the inline stack at and above ISP hold free values (09 R198,
notes/assumptions 11), but a rejected or degenerate record keeps its fields (R199). -/
def writtenRecord (free : Nat) (r : BitVec 1024) : BitVec 1024 :=
  if rState r = 5 ∨ (rState r = 6 ∧ rget r 960 4 = 12) then r
  else (List.range 8).foldl (fun w i => if rIsp r ≤ i then rsStk w i (Config.rayStack free i).toNat else w) r

/-- Write the reserved slot, the STATUS word last as a release at the ring's scope. -/
def State.writeSlot (s : State) (bound : Bool) (ring : Nat) (r : Ray) (slot : Word × Word) (faddr finfo : Word) : Produced :=
  match s.engPieces .write .plain bound slot.2 (slotSize ring) with
  | .ok ps t =>
    let (free, t) := t.draw
    let w := (writtenRecord free r.rcd).toNat
    let addrs := ps.flatMap fun (a, n) => (List.range n).map (a + ·)
    let body := (List.range 15).map fun i => (i, bits w (64 * i) 64)
    let tail := if ring = 0 then (16, faddr.toNat) :: (17, finfo.toNat) :: (List.range 14).map (fun i => (18 + i, 0)) else []
    let t := t.putWords r.key [] addrs (body ++ tail)
    let (sync, t) := (t.release r.key (ringScope ring)).syncs t.ctx.core r.key (ringScope ring)
    .done slot.1 (t.putWords r.key sync addrs [(15, bits w 960 64)])
  | .fault a info t => .blocked (some slot) a (.xlate info) t
  | .hold _ _ => .hold

/-- The producer of 09 R204: the header, the compare-and-swap of HEAD, the slot. DESIGN CHOICE: a poisoned header makes the ring unusable as
a malformed one does, and is not FCODE 4 (09 R204 does not say; notes/assumptions 77). -/
def State.produce (s : State) (bound : Bool) (ring : Nat) (r : Ray) (slot : Option (Word × Word)) (faddr finfo : Word) : Produced :=
  let reg := s.ctx.sr.ring ring
  let base := ringBase reg
  match slot with
  | some k =>
    if !reg.getLsbD 63 || !s.linked ring then .blocked slot base .off s else s.writeSlot bound ring r k faddr finfo
  | none =>
    if !reg.getLsbD 63 || !s.linked ring then .blocked none base .off s
    else
      match s.engRead r.key .plain bound base 128 with
      | .ok h hs t =>
        if !headerOk h then .blocked none base .malformed t
        else
          match t.engPieces .rmw .gather bound base 8 with
          | .ok ps t =>
            let pa := (ps.headD (0, 0)).1
            let tail := (pieceBytes hs).drop 8 |>.take 8
            let t := t.read (t.engSees (.core t.ctx.core) r.key) t.ctx.core r.key (some (ringScope ring)) tail
            let t := t.gatherStores (.core t.ctx.core) pa 8
            let head := BitVec.ofNat 64 (t.num (.core t.ctx.core) pa 8)
            let tail := BitVec.ofNat 64 (bufNum h 8 8)
            let cap := 2 ^ bufNum h 16 8
            if (head - tail).toNat < cap then
              let t := t.engPut r.key .core pa (toBytes 8 (head + 1#64).toNat)
              let at_ := base + 128#64 + BitVec.ofNat 64 (slotSize ring * (head.toNat % cap))
              t.writeSlot bound ring r (head, at_) faddr finfo
            else .full t
          | .fault a info t => .blocked none a (.xlate info) t
          | .hold _ _ => .hold
      | .fault a info t => .blocked none a (.xlate info) t
      | .poison _ _ t => .blocked none base .poisoned t
      | .hold _ _ => .hold

/-- Add a RAY_FAULT event; pending events merge into the oldest (09 R205). DESIGN CHOICE: so do those of a blockage and of a slot, whichever
is older (R205 speaks of slots; notes/assumptions 77). -/
def State.rayEvent (s : State) (taddr tinfo : Word) : State :=
  s.setCtx ({ s.ctx with ray := { s.ctx.ray with event := s.ctx.ray.event.or (some (taddr, tinfo)) } } : Context).wake

/-- The ray's record leaves, or the ray keeps its engine slot and each blockage of its own is one event (09 R204). DESIGN CHOICE: a slot
of the fault ring with FCODE 5 that no translation fault caused has FADDR 0 (R205 names no address; notes/assumptions 77). -/
def State.produceRay (s : State) (bound : Bool) (r : Ray) (ring : Nat) (slot : Option (Word × Word)) (told : Option (Word × Blockage))
    (faddr finfo : Word) : State :=
  match s.produce bound ring r slot faddr finfo with
  | .done head t =>
    let t := t.setCtx { t.ctx with ray := { t.ctx.ray with rays := t.ctx.ray.rays.filter fun x => x.id ≠ r.id } }
    if ring = 0 then t.rayEvent faddr head else t
  | .blocked slot' va why t =>
    if ring < 2 then
      let t := t.putRay { r with phase := .out ring slot' (some (va, why)) faddr finfo }
      if told = some (va, why) then t else t.rayEvent va (BitVec.allOnes 64)
    else
      match why with
      | .xlate info => t.putRay (endStep r 3 5 0 va info)
      | .off | .malformed | .poisoned => t.putRay (endStep r 3 5 0 0#64 0#64)
  | .full t => t.putRay { r with phase := .out ring slot none faddr finfo }
  | .hold => s

/-- RING_PRODUCE: a ray whose record leaves reserves a slot and writes it. -/
def execRingProduce (ray : Nat) (s : State) : Out :=
  match s.rayAt ray with
  | some r =>
    match r.phase with
    | .out ring slot none faddr finfo => .next (s.produceRay false r ring slot none faddr finfo)
    | .out _ _ (some _) _ _ | .run => .next s
  | none => .next s

/-- RING_RETRY: a producer that found its ring full or unusable tries again. -/
def execRingRetry (ray : Nat) (s : State) : Out :=
  match s.rayAt ray with
  | some r =>
    match r.phase with
    | .out ring slot told faddr finfo => .next (s.produceRay false r ring slot told faddr finfo)
    | .run => .next s
  | none => .next s

/-- A ray that has stalled on a page with HOLD for PTO cycles, in a step or as the producer of a ring, meets a translation fault with
REASON 10 (01 R31). -/
def State.ringHoldBound (s : State) (k : Nat) : State :=
  match s.rayAt k with
  | some r =>
    match r.phase with
    | .out ring slot told faddr finfo =>
      match s.produce false ring r slot faddr finfo with
      | .hold => s.produceRay true r ring slot told faddr finfo
      | .done _ _ | .blocked _ _ _ _ | .full _ => s
    | .run => s.rayHoldBound k
  | none => s

end Sys2Proof.Machine
end

