-- ==== Sys2Proof/Machine/Route.lean ====
section
/-! DEFINITION. Dispatch and combine (18 R392 to R395), and the chunk of a command (04 R114). -/

namespace Sys2Proof.Machine

/-! ## The descriptor (18 R392) -/

def rtRowb (d : BitVec 512) : Nat := bits d.toNat 0 15
def rtTy (d : BitVec 512) : Option Ty := Ty.ofCode (d.extractLsb' 31 5)
def rtK (d : BitVec 512) : Nat := bits d.toNat 36 4
def rtTok (d : BitVec 512) : Nat := bits d.toNat 40 12 + 1
def rtRows (d : BitVec 512) : Nat := bits d.toNat 128 22
def rtRoute (d : BitVec 512) : Nat := bits d.toNat 192 22
def rtWgt (d : BitVec 512) : Nat := bits d.toNat 224 22

/-- The element type of a descriptor; it is `.f32` or `.bf16`. -/
def rtElem (d : BitVec 512) : Ty := (rtTy d).getD .f32

/-- A descriptor keeps the rules; `dsp` has no weights. -/
def routeOk (dsp : Bool) (d : BitVec 512) : Bool :=
  let n := d.toNat
  decide (bits n 246 266 = 0) && decide (bits n 214 10 = 0) && decide (bits n 150 42 = 0) && decide (bits n 52 76 = 0) &&
  decide (bits n 15 16 = 0) && (!dsp || decide (rtWgt d = 0)) && decide (rtRows d % 64 = 0) && decide (rtRoute d % 8 = 0) &&
  decide (1 ≤ rtK d) && decide (rtK d ≤ 8) && (decide (rtTy d = some .f32) || decide (rtTy d = some .bf16)) &&
  decide (rtRowb d % 64 = 0) && decide (64 ≤ rtRowb d) && decide (rtRowb d ≤ 16384)

/-- Fields of a route entry. -/
def reV (e : Word) : Bool := e.getLsbD 63
def rePkg (e : Word) : Nat := bits e.toNat 57 6
def reAddr (e : Word) : Word := sext64 57 (bits e.toNat 0 57)

/-- The package that an entry names is this one. -/
def State.ownPkg (s : State) (q : Nat) : Bool := decide (q = bits s.dev.pkgid.toNat 0 6)

/-- A route entry keeps the rules: aligned, and its package reachable (10 R233). -/
def State.entryOk (s : State) (e : Word) : Bool :=
  !reV e || (decide ((reAddr e).toNat % 64 = 0) && (s.ownPkg (rePkg e) || s.dev.lnken.getLsbD (rePkg e)))

/-! ## Issue -/

/-- A number in the issuing core's scratchpad as a party reads it, if its bytes are there. -/
def State.spadNum (s : State) (key : Nat) (spz : Word) (a n : Nat) : Except (List Loc) Nat :=
  let l := s.locS spz a n
  if locsBad l then .error l else .ok (ofBytes (l.map fun x => (s.locByte (.core s.ctx.core) key x).1))

/-- The command of `dsp` or `cmb` with its descriptor and route read; `units` is how many chunks it has. -/
def State.routeCmd (s : State) (kind : CmdKind) (t : Tok) (a : Word) : Cmd :=
  let k := { s.newCmd kind t with dst := a }
  let me := s.ctx.hartKey .acc
  let dsp := decide (kind = .dsp)
  match s.spadNum me k.spz a.toNat 64 with
  | .error l => k.faults l
  | .ok n =>
    let d := BitVec.ofNat 512 n
    if !routeOk dsp d then { k with reject := some 3 }
    else
      let es := (List.range (rtTok d * rtK d)).map fun i => s.spadNum me k.spz (rtRoute d + 8 * i) 8
      let k := es.foldl (fun k e => match e with
        | .error l => k.faults l
        | .ok _ => k) k
      let routes := es.map fun e => match e with
        | .error _ => 0#64
        | .ok w => BitVec.ofNat 64 w
      if !routes.all s.entryOk then { k with reject := some 3, fault := none }
      else { k with desc := d, routes := routes, total := if dsp then rtTok d else if k.fault.isSome then 0 else 1 }

/-- `dsp` and `cmb`: the descriptor and the route are read once the release of the issue has performed what the strip held (02 R71). -/
def issueRoute (i : Instr) (kind : CmdKind) (t : Tok) (a : Reg) (s : State) : Out :=
  runAcc i (fun s => s.whenReady [a] [] fun s =>
    if (s.x a).toNat % 64 ≠ 0 then .trap (alignTrap (s.x a) 64) s
    else s.issueWith (s.newCmd kind t) (fun u => u.routeCmd kind t (s.x a)) none) s

def execDsp (t : Tok) (a : Reg) (s : State) : Out := issueRoute (.dsp t a) .dsp t a s
def execCmb (t : Tok) (a : Reg) (s : State) : Out := issueRoute (.cmb t a) .cmb t a s

/-! ## Dispatch (18 R393) -/

/-- A command ends because no live port leads to a package: it names the last port it used (R395), or where it used none a port of the
package (notes/assumptions 19). -/
def State.linkEnd (s : State) (k : Cmd) (q : Nat) : State :=
  let p := k.port.getD (s.portConcerned q)
  let s := s.putCmd { k with link := some p }
  { s with notices := s.notices ++ [Notice.linkFail s.ctx.core p], msix := s.msix ++ [1] }

/-- The entries of row r. -/
def Cmd.entries (k : Cmd) (r : Nat) : List Word := ((k.routes.drop (r * rtK k.desc)).take (rtK k.desc)).filter reV

/-- A row written to the addresses of its entries: the state, the command, and whether every write was made; none while it must
wait; the package to which no port leads. -/
inductive Sent
  | ok (s : State) (k : Cmd) (whole : Bool) | wait | dead (s : State) (k : Cmd) (q : Nat)

def State.sendRow (s : State) (k : Cmd) (bound : Bool) (data : List (Byte × Bool)) (whole : Bool) : List Word → Sent
  | [] => .ok s k whole
  | e :: t =>
    let a := reAddr e
    let q := rePkg e
    if s.ownPkg q then
      let (l, s) := s.loc .write .plain bound false false k.spz a 0 (rtRowb k.desc)
      if l.contains .parked then .wait
      else if locsBad l then s.sendRow (k.faults l) bound data false t
      else
        (s.locPut k.key .sys ((l.zip data).map fun (x, b, p) => (x, b, p))).sendRow
          { k with psn := k.psn || data.any (·.2) } bound data whole t
    else
      match s.portTo (dieOf s.ctx.core) q with
      | none => .dead s k q
      | some p =>
        let (n, s) := s.draw
        let k := { k with port := some p }
        match Config.remoteFault n with
        | some reason => s.sendRow { k with fault := minFault k.fault (a, reason.toNat) } bound data false t
        | none =>
          (s.sendRemote
            { pkg := q, asid := some s.ctx.asid, addr := a.toNat, bytes := data.map (·.1), atomic := false, bad := data.any (·.2),
              way := .arrived, by_ := { core := s.ctx.core, bank := s.ctx.bank, hart := .acc, cmd := some k.id },
              who := [k.key], space := s.ctx.asid }).sendRow
            { k with psn := k.psn || data.any (·.2) } bound data whole t

/-- Row r of `dsp`. -/
def State.dispatchRow (s : State) (k : Cmd) (bound : Bool) (r : Nat) : Option State :=
  let src := s.locS k.spz (rtRows k.desc + r * rtRowb k.desc) (rtRowb k.desc)
  if k.entries r = [] then some (s.putCmd (({ k with units := k.units + 1 } : Cmd).finish r))
  else if locsBad src then some (s.putCmd ((k.faults src).finish r))
  else
    match s.sendRow k bound (src.map (s.locByte (.core s.ctx.core) k.key)) true (k.entries r) with
    | .ok s k whole => some (s.putCmd (({ k with units := k.units + (if whole then 1 else 0) } : Cmd).finish r))
    | .wait => none
    | .dead s k q => some (s.linkEnd k q)

/-! ## Combine (18 R394) -/


/-- What reaching the entries comes to. -/
inductive Reached
  | ok (s : State) (k : Cmd) (l : List (Nat × (List Loc ⊕ Nat))) | wait | dead (s : State) (k : Cmd) (q : Nat)

/-- Translate every entry before anything is read. -/
def State.reachEntries (s : State) (k : Cmd) (bound : Bool) : List (Word × Nat) → Reached
  | [] => .ok s k []
  | (e, i) :: t =>
    if !reV e then s.reachEntries k bound t
    else
      let a := reAddr e
      let q := rePkg e
      let add (x : List Loc ⊕ Nat) : Reached → Reached
        | .ok s k l => .ok s k ((i, x) :: l)
        | .wait => .wait
        | .dead s k q => .dead s k q
      if s.ownPkg q then
        let (l, s) := s.loc .read .plain bound false false k.spz a 0 (rtRowb k.desc)
        if l.contains .parked then .wait else add (.inl l) (s.reachEntries (k.faults l) bound t)
      else
        match s.portTo (dieOf s.ctx.core) q with
        | none => .dead s k q
        | some p =>
          let (n, s) := s.draw
          let k := { k with port := some p }
          match Config.remoteFault n with
          | some reason => s.reachEntries { k with fault := minFault k.fault (a, reason.toNat) } bound t
          | none =>
            let words := rtRowb k.desc / 8
            add (.inr s.free) (({ s with free := s.free + words } : State).reachEntries k bound t)

/-- The bytes of a row reached. -/
def State.rowData (s : State) (key n : Nat) : List Loc ⊕ Nat → List (Byte × Bool)
  | .inl l => l.map (s.locByte (.die (dieOf s.ctx.core)) key)
  | .inr i => (List.range (n / 8)).flatMap fun j =>
    (toBytes 8 (Config.remoteOld (i + j)).toNat).map fun b => (b, Config.remoteBad (i + j) 0)

/-- One element: the weighted sum in FP32, rounded to the type at the end. -/
def combine (t : Ty) (l : List (Nat × Nat)) : FRes :=
  let f := ffmt .f32
  let acc := l.foldl (fun (acc : FRes) (w, x) =>
    let (p, inv) := (f.decode w).mul ((ffmt t).decode x)
    let (r, inv') := p.add .rne (f.decode acc.1)
    let (y, fl) := f.finish .rne false (r, inv || inv')
    (y, acc.2 ||| fl)) ((0, 0#8) : FRes)
  let (y, fl) := (ffmt t).give .rne false (f.decode acc.1)
  (y, acc.2 ||| fl)

/-- The whole of `cmb`. -/
def State.combineAll (s : State) (k : Cmd) (bound : Bool) : Option State :=
  let d := k.desc
  let t := rtElem d
  let w := t.width / 8
  let n := rtRowb d
  match s.reachEntries k bound k.routes.zipIdx with
  | .wait => none
  | .dead s k q => some (s.linkEnd k q)
  | .ok s k rows =>
    let weights : List (Nat × Except (List Loc) Nat) := rows.map fun (i, _) => (i, s.spadNum k.key k.spz (rtWgt d + 4 * i) 4)
    let k := weights.foldl (fun k (_, x) => match x with
      | .error l => k.faults l
      | .ok _ => k) k
    let dst (r : Nat) : List Loc := s.locS k.spz (rtRows d + r * n) n
    let k := (List.range (rtTok d)).foldl (fun k r => k.faults (dst r)) k
    if k.fault.isSome then some (s.putCmd { k with next := 1 })
    else
      let data := rows.map fun (i, x) => (i, s.rowData k.key n x)
      let weight (i : Nat) : Nat := match weights.find? fun y => y.1 = i with
        | some (_, .ok v) => v
        | some (_, .error _) | none => 0
      let out := (List.range (rtTok d)).map fun r =>
        let mine := data.filter fun x => decide (x.1 / rtK d = r)
        (List.range (n / w)).map fun e =>
          let take (l : List (Byte × Bool)) : List (Byte × Bool) := (l.drop (e * w)).take w
          let (y, fl) := combine t (mine.map fun (i, l) => (weight i, ofBytes ((take l).map (·.1))))
          (y, fl, mine.any fun x => (take x.2).any (·.2))
      let s := (out.zipIdx).foldl (fun s (es, r) =>
        s.locPut k.key .core (((dst r).zip (es.flatMap fun (y, _, p) => (toBytes w y).map fun b => (b, p))).map fun (a, b, p) => (a, b, p))) s
      let all := out.flatten
      some (s.putCmd { k with
        next := 1, units := rtTok d, flags := all.foldl (fun fl x => fl ||| x.2.1) k.flags, psn := k.psn || all.any (·.2.2) })

/-! ## Chunks -/

/-- Do a chunk of a copy, a row of `dsp`, or `cmb`. -/
def State.runChunk (s : State) (k : Cmd) (bound : Bool) (c : Nat) : Option State :=
  match k.kind with
  | .cpy | .cpy2 | .cpyr => s.runCopy k bound c
  | .cpys => if c = k.next then s.runCopy k bound c else none
  | .dsp => s.dispatchRow k bound c
  | .cmb => s.combineAll k bound
  | .gdg | .gda _ | .rtlay | .rtprog | .rtin | .rtout | .rtacc => none

/-- CHUNK_COMPLETE: a chunk of a command not yet done is done, and its mask bit is set. -/
def execChunkComplete (id chunk : Nat) (s : State) : Out :=
  match s.cmd id with
  | none => .next s
  | some k => if k.over_ ∨ k.total ≤ chunk ∨ k.did chunk then .next s else .next ((s.runChunk k false chunk).getD s)

/-- The next part of a command that waits on a page with HOLD beyond the bound faults with REASON 10 (01 R31). -/
def State.cmdHoldBound (s : State) (id : Nat) : State :=
  match s.cmd id with
  | none => s
  | some k =>
    if k.over_ then s
    else
      let run (bound : Bool) (c : Nat) : Option State := (if c = k.next then s.nougatStep k bound c else none).or (s.runChunk k bound c)
      match ((List.range (k.total - k.next)).map (k.next + ·)).find? fun c => !k.did c && (run false c).isNone with
      | some c => (run true c).getD s
      | none => s

end Sys2Proof.Machine
end

