-- ==== Sys2Proof/Machine/XlEvents.lean ====
section
/-! DEFINITION. The events of translation: walks, pages with HOLD, XATB, XINV and the victim queue (01 R19, R25, R31, R33, R34,
R42). -/

namespace Sys2Proof.Machine

/-- The die's cached translations of the core in focus. -/
def State.dieTlb (s : State) : List TlbEntry := s.tlb.filter fun t => t.die = dieOf s.ctx.core

/-- WALK_COMPLETE: a walk for an access of the context in focus ends; an eviction may make room for its translation. The access itself
comes after it, and touches the page as the one that installs (01 R41; notes/assumptions 53). -/
def execWalkComplete (asid : BitVec 12) (va : Word) (k : Acc) (evict : Option Nat) (s : State) : Out :=
  if !s.ctx.held || asid ≠ s.ctx.asid then .next s
  else
    let s := match evict with
      | none => s
      | some i =>
        match s.dieTlb[i]? with
        | some t => s.evict (dieOf s.ctx.core) t
        | none => s
    .next (s.xl (s.req k .walk) va).2

/-- HOLD_REREAD: the walk that the hart in focus is parked on reads its entry again: the instruction is executed again. -/
def execHoldReread (s : State) : Out :=
  match s.hs.wait with
  | .hold _ _ => .next (s.setWait .none)
  | .none | .other | .queue _ _ | .barw _ _ _ _ | .idle _ | .leave _ | .majority | .ending => .next s

/-- The stall of a hart on a page with HOLD has lasted PTO cycles: PROGRESS at the word or instruction. A trap of the execute hart
waits for its vector stream (11 R239). -/
def State.hartHoldBound (s : State) : State :=
  match s.hs.wait with
  | .hold va _ =>
    if (s.isExe && !s.ctx.v.vq.isEmpty) || s.ctx.place ≠ .active then s
    else s.takeTrap s.hart { cause := Cause.progress, addr := va, info := 3#64 } s.pc s.pc false
  | .none | .other | .queue _ _ | .barw _ _ _ _ | .idle _ | .leave _ | .majority | .ending => s

/-- HOLD_STALL_BOUND: with PTO = 0 there is no bound. -/
def execHoldStallBound (p : Party) (s : State) : Out :=
  if s.ctx.sr.pto = 0#64 then .next s
  else
    match p with
    | .hart => .next s.hartHoldBound
    | .lane e => .next (s.laneHoldBound e)
    | .ray k => .next (s.ringHoldBound k)
    | .cmd id => .next (s.cmdHoldBound id)

/-- The translation unit of a die is usable; that of some die, on which the registers of the whole package depend (10 R225;
notes/assumptions 71). -/
def State.xlateReady (s : State) (die : Nat) : Bool := (Sparse.get 0#64 s.dev.rdydie die).getLsbD 4
def State.xlateUsable (s : State) : Bool := (List.range 8).any s.xlateReady

/-- XATB_WRITE: ignored while a launch is resident, which the next XINV command reports. -/
def State.writeXatb (s : State) (v : Word) : State :=
  if !s.xlateUsable then s
  else if s.anyResident then { s with dev := { s.dev with xatbIgnored := true } }
  else { s with dev := { s.dev with xatb := BitVec.ofNat 64 (bits v.toNat 15 37 * 2 ^ 15 + bits v.toNat 0 1) } }
def execXatbWrite (v : Word) (s : State) : Out := .next (s.writeXatb v)

/-- The fields of XINV. -/
def xinvKind (w : Word) : Nat := bits w.toNat 59 3
def xinvAsid (w : Word) : BitVec 12 := w.extractLsb' 45 12
def xinvVpn (w : Word) : Nat := bits w.toNat 0 45

/-- Accept an XINV command; one while GO = 1 is ignored. -/
def State.startXinv (s : State) (kind : Nat) (asid : BitVec 12) (vpn : BitVec 45) : State :=
  if s.dev.xinv.getLsbD 63 || !s.xlateUsable then s
  else
    { s with dev := { s.dev with
        xinv := BitVec.ofNat 64 (2 ^ 63 + kind * 2 ^ 59 + asid.toNat * 2 ^ 45 + vpn.toNat),
        xinvErr := s.dev.xatbIgnored, xatbIgnored := false } }

/-- XINV_PAGE, XINV_ASID, XINV_ALL and XMSET_RELOAD: KIND 0 to 3. -/
def execXinvPage (asid : BitVec 12) (vpn : BitVec 45) (s : State) : Out := .next (s.startXinv 0 asid vpn)
def execXinvAsid (asid : BitVec 12) (s : State) : Out := .next (s.startXinv 1 asid 0#45)
def execXinvAll (s : State) : Out := .next (s.startXinv 2 0#12 0#45)
def execXmsetReload (s : State) : Out := .next (s.startXinv 3 0#12 0#45)

/-- The command removes a cached translation. -/
def covers (cmd : Word) (t : TlbEntry) : Bool :=
  match xinvKind cmd with
  | 0 => decide (t.asid = xinvAsid cmd) && decide (t.vpn ≤ xinvVpn cmd) && decide (xinvVpn cmd < t.vpn + t.pages)
  | 1 => decide (t.asid = xinvAsid cmd)
  | 2 => true
  | _ => false

/-- The command concerns an address space. -/
def concerns (cmd : Word) (asid : BitVec 12) : Bool :=
  match xinvKind cmd with
  | 0 | 1 => decide (asid = xinvAsid cmd)
  | 2 => true
  | _ => false

/-- A context has a store, translated and not yet performed: in a strip, a lane block, or a step of a ray. -/
def Context.holdsStores (c : Context) : Bool :=
  ((c.strip.map (·.held)).getD []).any (fun h => !h.spad) || c.vps.any (fun p => p.held.any fun h => !h.spad) ||
  c.ray.rays.any fun r => !r.held.isEmpty

/-- What the command waits for has performed (01 R34): held stores, stores in flight to another package, and majority operations in
flight. The model waits for every one of an address space that the command concerns, and makes every other store visible to all before GO
falls (notes/assumptions 24). -/
def State.xinvClear (s : State) (cmd : Word) : Bool :=
  if xinvKind cmd = 3 then s.maj.isEmpty
  else
    !(s.contexts.any fun c => concerns cmd c.asid && c.held && c.holdsStores) &&
    !(s.maj.any fun m => concerns cmd m.asid) &&
    !(s.remote.any fun r => r.flying && r.asid.isNone && concerns cmd r.space)

/-- Walks parked on a page that the command covers read their entries again: of the page, whatever its size, that holds the VPN. -/
def HartSt.unpark (x : HartSt) (cmd : Word) : HartSt :=
  match x.wait with
  | .hold va pages =>
    if xinvKind cmd ≠ 0 ∨ bits va.toNat 12 45 / pages = xinvVpn cmd / pages then { x with wait := .none } else x
  | .none | .other | .queue _ _ | .barw _ _ _ _ | .idle _ | .leave _ | .majority | .ending => x

/-- XINV_COMPLETE. -/
def execXinvComplete (s : State) : Out :=
  let cmd := s.dev.xinv
  if !cmd.getLsbD 63 || !s.xinvClear cmd then .next s
  else
    let done : Word := BitVec.ofNat 64 (setBits (cmd.toNat % 2 ^ 62) 62 1 (if s.dev.xinvErr then 1 else 0))
    let s := if xinvKind cmd = 3 then s else s.raise (fun _ => true) .sys
    let s := { s with tlb := s.tlb.filter fun t => !covers cmd t, dev := { s.dev with xinv := done, xinvErr := false } }
    let s := s.mapCtx (fun c => concerns cmd c.asid) fun c => { c with ah := c.ah.unpark cmd, xh := c.xh.unpark cmd }
    .next (if xinvKind cmd = 3 then { s with dev := { s.dev with xmsetLive := s.dev.xmset } } else s)

/-- The word that a victim reads as. -/
def Victim.word (v : Victim) : Word :=
  BitVec.ofNat 64 (2 ^ 63 + (if v.uo then 2 ^ 62 else 0) + (if v.g then 2 ^ 61 else 0) + v.asid.toNat * 2 ^ 49 + v.vpn * 16)

/-- XVQ_READ: the head of a die's queue, in its order of classes, is returned and removed. -/
def State.readXvq (s : State) (die : Nat) : State :=
  match Sparse.get [] s.dev.xvq die with
  | v :: t =>
    if s.xlateReady die then { s with answer := v.word, dev := { s.dev with xvq := Sparse.set [] s.dev.xvq die t } }
    else { s with answer := 0#64 }
  | [] => { s with answer := 0#64 }
def execXvqRead (die : Idx3) (s : State) : Out := .next (s.readXvq die.toNat)

end Sys2Proof.Machine
end

