-- ==== Sys2Proof/Machine/Outside.lean ====
section
/-! DEFINITION. What comes from outside the cores: the device registers, the host and Brioche, boot and reset, the link, errors of
HBM sectors, and stores that become visible (01 R24, 04 R99, R122, 10 R225 to R234, 11 R244, R256, R257, 02 R45). -/

namespace Sys2Proof.Machine

/-! ## The device registers (01 R24, 02 R72, 03 R83 to R91, 10, 11 R244, R256) -/

/-- A device register. -/
inductive DevReg
  | rdyhub | rdydie (d : Nat) | xatb | xinv | xmset (i : Nat) | xvq (d : Nat) | xvqov (d : Nat) | ckctl | ckdst | ckstat
  | mclost | mcbase | mcscrub | mcrenew | lsub (d : Nat) | lkill | pwrbud (d : Nat) | pwrto (d : Nat) | pwruse (d : Nat)
  | cmap (d : Nat) | scanctl | csa (c : Nat) | bootstat | linjctl (p : Nat) | linjcnt (p : Nat)
  | trap (core bank : Nat) (h : HartId) (word : Nat) | pkgid | lnken | lnktbl (q half : Nat)
  deriving DecidableEq, Repr

/-- Member i of an array of registers from a first offset, at a stride. -/
def member (off first stride count : Nat) : Option Nat :=
  if first ≤ off ∧ (off - first) % stride = 0 ∧ (off - first) / stride < count then some ((off - first) / stride) else none

/-- The registers that stand alone, by offset. -/
def soleRegs : List (Nat × DevReg) :=
  [(0x0, .rdyhub), (0x10000, .xatb), (0x10008, .xinv), (0x30000, .ckctl), (0x30008, .ckdst), (0x30010, .ckstat),
   (0x40000, .mclost), (0x40008, .mcbase), (0x40010, .mcscrub), (0x40018, .mcrenew), (0x51000, .lkill), (0x70100, .scanctl),
   (0x80000, .bootstat), (0xC0000, .pkgid), (0xC0008, .lnken)]

/-- An array of registers: its first offset, stride and count, and its members. -/
structure RegArray where
  first : Nat
  stride : Nat
  count : Nat
  reg : Nat → DevReg

/-- The arrays of registers. -/
def regArrays : List RegArray :=
  [⟨0x100, 8, 8, .rdydie⟩, ⟨0x10100, 8, 16, .xmset⟩, ⟨0x20000, 0x100, 8, .xvq⟩, ⟨0x20008, 0x100, 8, .xvqov⟩,
   ⟨0x50000, 0x100, 8, .lsub⟩, ⟨0x60000, 0x100, 8, .pwrbud⟩, ⟨0x60008, 0x100, 8, .pwrto⟩, ⟨0x60010, 0x100, 8, .pwruse⟩,
   ⟨0x70000, 8, 8, .cmap⟩, ⟨0x71000, 8, 512, .csa⟩, ⟨0x90000, 16, 96, .linjctl⟩, ⟨0x90008, 16, 96, .linjcnt⟩,
   ⟨0xC0100, 16, 64, (.lnktbl · 0)⟩, ⟨0xC0108, 16, 64, (.lnktbl · 1)⟩]

/-- The trap register word at an offset (11 R244). -/
def trapReg (off : Nat) : Option DevReg :=
  let k := (off - 0xA0000) / 64
  if 0xA0000 ≤ off ∧ off < 0xC0000 ∧ off % 8 = 0 ∧ off % 64 < 56 then
    some (.trap (k / 4) (k / 2 % 2) (if k % 2 = 0 then .acc else .exe) (off % 64 / 8))
  else none

/-- The register at an offset of the device range; none where no rule lists one. -/
def devReg (off : Nat) : Option DevReg :=
  match soleRegs.find? fun x => x.1 = off with
  | some x => some x.2
  | none =>
    match regArrays.findSome? fun a => (member off a.first a.stride a.count).map a.reg with
    | some r => some r
    | none => trapReg off

/-- The function that a register belongs to is usable (10 R225): while its readiness bit is 0 the register reads 0 and ignores
writes. -/
def State.regUsable (s : State) (r : DevReg) : Bool :=
  let die (d b : Nat) : Bool := (Sparse.get 0#64 s.dev.rdydie d).getLsbD b
  match r with
  | .xatb | .xinv | .xmset _ => s.xlateUsable
  | .xvq d | .xvqov d => die d 4
  | .lsub d => die d 5
  | .pwrbud d | .pwrto d | .pwruse d => die d 1
  | .ckctl | .ckdst | .ckstat => s.dev.rdyhub.getLsbD 14
  | _ => true

/-- A word of the trap registers of a hart of a bank (11 R244); 0 for a bank that holds no context. A context that a double trap has
ended stays readable until the bank is used again (notes/assumptions 72). -/
def State.trapWord (s : State) (core bank : Nat) (h : HartId) (word : Nat) : Word :=
  match s.contexts.find? fun c => c.isAt core bank && (c.held || c.kept) && decide (c.place ≠ .spilled) with
  | none => 0#64
  | some c =>
    let t := (c.hs h).t
    [t.tcause, t.taddr, t.tpc, t.tinfo, t.tcause2, t.taddr2, t.tpc2].getD word 0#64

/-- Read a register; a read of XVQ removes its head. -/
def State.readDev (s : State) (r : DevReg) : State :=
  let put (w : Word) : State := { s with answer := w }
  if !s.regUsable r then put 0#64
  else
    match r with
    | .rdyhub => put s.dev.rdyhub
    | .rdydie d => put (Sparse.get 0#64 s.dev.rdydie d)
    | .xatb => put s.dev.xatb
    | .xinv => put s.dev.xinv
    | .xmset i => put (Sparse.get 0#64 s.dev.xmset i)
    | .xvq d => s.readXvq d
    | .xvqov d => put (Sparse.get 0#64 s.dev.xvqov d)
    | .ckctl => put s.dev.ckpt.ctl
    | .ckdst => put s.dev.ckpt.dst
    | .ckstat => put s.dev.ckpt.stat
    | .mclost => put s.dev.mclost
    | .mcbase => put s.dev.mcbase
    | .mcscrub => put s.dev.mcscrub
    | .mcrenew => put s.dev.mcrenew
    | .lsub d => put (Sparse.get 0#64 s.dev.lsub d)
    | .lkill => put s.dev.lkill
    | .pwrbud d => put (BitVec.ofNat 64 (s.pwrbud d))
    | .pwrto d => put (BitVec.ofNat 64 (s.pwrto d))
    | .pwruse d => put (BitVec.ofNat 64 (s.pwruse d))
    | .cmap d => put (Sparse.get 0#64 s.dev.cmap d)
    | .scanctl => put s.dev.scanctl
    | .csa c => put (Sparse.get 0#64 s.dev.csa c)
    | .bootstat => put s.dev.bootstat
    | .linjctl p => put (Sparse.get 0#64 s.dev.linjctl p)
    | .linjcnt p => put (Sparse.get 0#64 s.dev.linjcnt p)
    | .trap c b h k => put (s.trapWord c b h k)
    | .pkgid => put s.dev.pkgid
    | .lnken => put s.dev.lnken
    | .lnktbl q half => put ((Sparse.get 0#96 s.dev.lnktbl q).zeroExtend 128 |>.extractLsb' (64 * half) 64)

/-- Only Brioche writes these (10 R215, R223, R226, R233, 11 R256); a write of the host is ignored. -/
def briocheOnly : DevReg → Bool
  | .pwrbud _ | .pwrto _ | .cmap _ | .csa _ | .linjctl _ | .linjcnt _ | .pkgid | .lnken | .lnktbl _ _ => true
  | _ => false

/-- Arm an injector, or reject the write whole (11 R256). -/
def State.armInjector (s : State) (p : Nat) (ctl : Word) (n : Nat) : State :=
  let c := ctl.toNat
  let mode := bits c 61 2
  let put (w : Nat) : State := { s with dev := { s.dev with linjctl := Sparse.set 0#64 s.dev.linjctl p (BitVec.ofNat 64 w) } }
  if mode = 3 ∨ n = 0 ∨ (mode = 2 ∧ bits c 30 8 = 0) then
    put (setBits (setBits (Sparse.get 0#64 s.dev.linjctl p).toNat 63 1 0) 58 1 1)
  else
    let cnt := (Sparse.get 0#64 s.dev.linjcnt p).toNat
    let s := put (bits c 59 5 * 2 ^ 59 + bits c 30 17 * 2 ^ 30)
    { s with dev := { s.dev with
        linjcnt := Sparse.set 0#64 s.dev.linjcnt p (BitVec.ofNat 64 (setBits cnt 0 32 n)),
        ports := Sparse.set untrained s.dev.ports p { s.port p with since := 0 } } }

/-- The start of a submission, a kill or a scan through its register, from the fields written. -/
def nextOf : Out → State → State
  | .next t, _ => t
  | .fault _, s | .refused _, s => s

/-- Write a register: those whose write starts something start it, the others keep the bits that are writable. -/
def State.writeDev (s : State) (brioche : Bool) (r : DevReg) (v : Word) : State :=
  let n := v.toNat
  let go := v.getLsbD 63
  let dev (d : Dev) : State := { s with dev := d }
  if !s.regUsable r || (briocheOnly r && !brioche) then s
  else
    match r with
    | .xatb => s.writeXatb v
    | .xinv =>
      if s.dev.xinv.getLsbD 63 then s
      else if 4 ≤ bits n 59 3 then dev { s.dev with xinv := BitVec.ofNat 64 (2 ^ 62 + bits n 59 3 * 2 ^ 59 + bits n 0 57) }
      else if go then s.startXinv (bits n 59 3) (xinvAsid v) (v.extractLsb' 0 45)
      else dev { s.dev with xinv := BitVec.ofNat 64 (bits s.dev.xinv.toNat 62 1 * 2 ^ 62 + bits n 59 3 * 2 ^ 59 + bits n 0 57) }
    | .xmset i =>
      dev { s.dev with xmset := Sparse.set 0#64 s.dev.xmset i (BitVec.ofNat 64 (bits n 60 4 * 2 ^ 60 + bits n 0 25)) }
    | .ckctl =>
      if go then s.startCkpt (bits n 60 3) (v.extractLsb' 0 24)
      else
        let ctl := bits s.dev.ckpt.ctl.toNat 63 1 * 2 ^ 63 + bits n 60 3 * 2 ^ 60 + bits n 0 24
        dev { s.dev with ckpt := { s.dev.ckpt with ctl := BitVec.ofNat 64 ctl } }
    | .ckdst => dev { s.dev with ckpt := { s.dev.ckpt with dst := BitVec.ofNat 64 (bits n 30 12 * 2 ^ 30) } }
    | .mclost => dev { s.dev with mclost := s.dev.mclost ||| BitVec.ofNat 64 (bits n 0 24) }
    | .mcbase => if v.getLsbD 62 then s.mccSetAll go (bits n 0 24) else s.mccFloor go (bits n 0 24)
    | .mcrenew =>
      if go then s.renew (v.extractLsb' 58 4) (v.extractLsb' 12 40)
      else dev { s.dev with mcrenew := pageReg (s.dev.mcrenew.getLsbD 62) (v.extractLsb' 58 4) (v.extractLsb' 12 40) }
    | .mcscrub =>
      if go then s.scrub (v.extractLsb' 58 4) (v.extractLsb' 12 40)
      else dev { s.dev with mcscrub := pageReg (s.dev.mcscrub.getLsbD 62) (v.extractLsb' 58 4) (v.extractLsb' 12 40) }
    | .lsub d =>
      if go then nextOf (execLsubSubmit (BitVec.ofNat 3 d) (v.extractLsb' 8 44) (!brioche) s) s
      else if (s.pendingLsub d).isSome then s
      else
        let old := Sparse.get 0#64 s.dev.lsub d
        dev { s.dev with lsub := Sparse.set 0#64 s.dev.lsub d (BitVec.ofNat 64 (bits old.toNat 58 5 * 2 ^ 58 + bits n 8 44 * 2 ^ 8)) }
    | .lkill =>
      if go then nextOf (execLkill (v.extractLsb' 3 54) s) s
      else if s.dev.lkill.getLsbD 63 then s
      else dev { s.dev with lkill := BitVec.ofNat 64 (bits s.dev.lkill.toNat 62 2 * 2 ^ 62 + bits n 3 54 * 8) }
    | .pwrbud d => dev { s.dev with pwrbud := Sparse.set 1688#64 s.dev.pwrbud d (BitVec.ofNat 64 (bits n 0 16)) }
    | .pwrto d => dev { s.dev with pwrto := Sparse.set 1800000#64 s.dev.pwrto d (BitVec.ofNat 64 (bits n 0 32)) }
    | .cmap d => dev { s.dev with cmap := Sparse.set 0#64 s.dev.cmap d v }
    | .scanctl =>
      if go then nextOf (execScanctl (v.extractLsb' 0 9) s) s
      else if s.scanning.isSome then s
      else dev { s.dev with scanctl := BitVec.ofNat 64 (setBits s.dev.scanctl.toNat 0 9 n) }
    | .csa c => dev { s.dev with csa := Sparse.set 0#64 s.dev.csa c (BitVec.ofNat 64 (bits n 63 1 * 2 ^ 63 + bits n 23 29 * 2 ^ 23)) }
    | .linjctl p => s.armInjector p v (bits (Sparse.get 0#64 s.dev.linjcnt p).toNat 0 32)
    | .linjcnt p =>
      if bits n 0 32 = 0 then
        let w := (Sparse.get 0#64 s.dev.linjctl p).toNat
        dev { s.dev with linjctl := Sparse.set 0#64 s.dev.linjctl p (BitVec.ofNat 64 (setBits (setBits w 63 1 0) 58 1 1)) }
      else
        let w := (Sparse.get 0#64 s.dev.linjcnt p).toNat
        let c := (Sparse.get 0#64 s.dev.linjctl p).toNat
        dev { s.dev with linjcnt := Sparse.set 0#64 s.dev.linjcnt p (BitVec.ofNat 64 (setBits w 0 32 n)),
                         linjctl := Sparse.set 0#64 s.dev.linjctl p (BitVec.ofNat 64 (setBits c 58 1 0)) }
    | .pkgid => dev { s.dev with pkgid := BitVec.ofNat 64 (bits n 0 6) }
    | .lnken => dev { s.dev with lnken := v }
    | .lnktbl q half =>
      let w := (Sparse.get 0#96 s.dev.lnktbl q).toNat
      dev { s.dev with lnktbl := Sparse.set 0#96 s.dev.lnktbl q (BitVec.ofNat 96 (if half = 0 then setBits w 0 64 n else setBits w 64 32 n)) }
    | .rdyhub | .rdydie _ | .xvq _ | .xvqov _ | .ckstat | .pwruse _ | .bootstat | .trap _ _ _ _ => s

/-- An access of 8 bytes to the device range. -/
def State.devAccess (s : State) (brioche : Bool) (off : Nat) (o : OutAcc) : Out :=
  match devReg off, o with
  | some r, .read 8 => .next (s.readDev r)
  | some r, .write 8 v => .next (s.writeDev brioche r v)
  | _, _ => .refused (.unlistedDeviceRegister (Config.devBase + off))

/-- DEVICE_REGISTER_WRITE: a write by Brioche; a boot that failed has halted Brioche (10 R230). -/
def execDeviceRegisterWrite (addr : BitVec 52) (val : Word) (s : State) : Out :=
  if s.dev.bootstat.getLsbD 62 then .next s
  else
    match partOf addr.toNat with
    | .device off => s.devAccess true off (.write 8 val)
    | .hbm _ | .cxl _ _ | .aperture _ _ | .remote _ _ | .hole => .refused (.unlistedDeviceRegister addr.toNat)

/-- LINJCTL_ARM: a write that only Brioche makes; a boot that failed has halted it (10 R230). -/
def execLinjctlArm (port : BitVec 7) (ctl : Word) (n : BitVec 32) (s : State) : Out :=
  if port.toNat < 96 ∧ !s.dev.bootstat.getLsbD 62 then .next (s.armInjector port.toNat ctl n.toNat) else .next s

/-! ## The host and Brioche (04 R122, 10 R228, R230, 01 R16, 04 R98) -/

/-- A read whose value the spec does not state. -/
def State.freeRead (s : State) (n : Nat) : State :=
  let (i, s) := s.draw
  { s with answer := BitVec.ofNat 64 ((Config.outsideRead i).toNat % 2 ^ (8 * n)) }

/-- An access of at most 8 bytes to backed memory, at sys scope. What a read returns is visible to every party from then on (02 R51,
04 R99). -/
def State.memAccess (s : State) (a : Nat) : OutAcc → State
  | .read n =>
    let n := min n 8
    let t := s.read View.sys.sees 0 sysKey (some .sys) ((List.range n).map (a + ·))
    if s.poisoned a n then t.freeRead n else { t with answer := BitVec.ofNat 64 (s.num .sys a n) }
  | .write n v => s.perform 0 .sys a (toBytes (min n 8) v.toNat)

/-- An access to the scratchpad of the active context of a core, in its physical layout. -/
def State.spadAccess (s : State) (core off : Nat) (o : OutAcc) : State :=
  match s.activeOn core, o with
  | some c, .read n =>
    let at_ := (List.range (min n 8)).map (off + ·)
    if at_.any fun a => c.spad.poison.contains (a / 8) then s.freeRead (min n 8)
    else { s with answer := BitVec.ofNat 64 (ofBytes (at_.map c.spad.byte)) }
  | none, .read n => s.freeRead (min n 8)
  | some c, .write n v =>
    s.mapCtx (fun d => d.isAt core c.bank) fun d => d.putSpad sysKey off (toBytes (min n 8) v.toNat) []
  | none, .write _ _ => s

/-- An access that reaches nothing: a read returns 0, a write is ignored (10 R228). -/
def State.nothing (s : State) : OutAcc → State
  | .read _ => { s with answer := 0#64 }
  | .write _ _ => s

/-- An access to memory that is not backed. -/
def State.unbacked (s : State) : OutAcc → State
  | .read n => s.freeRead (min n 8)
  | .write _ _ => s

/-- HOST_ACCESS: once the host port is usable, through BAR2, BAR0 or the aperture. -/
def execHostAccess (addr : BitVec 52) (o : OutAcc) (s : State) : Out :=
  let a := addr.toNat
  if !s.dev.rdyhub.getLsbD 1 then .next s
  else
    match partOf a with
    | .hbm _ => .next (if s.backed a then s.memAccess a o else s.unbacked o)
    | .device off => s.devAccess false off o
    | .aperture core off => .next (s.spadAccess core off o)
    | .cxl _ _ | .remote _ _ | .hole => .next (s.nothing o)

/-- BRIOCHE_ACCESS: by physical address; a boot that failed has halted Brioche. -/
def execBriocheAccess (addr : BitVec 52) (o : OutAcc) (s : State) : Out :=
  let a := addr.toNat
  if s.dev.bootstat.getLsbD 62 then .next s
  else
    match partOf a with
    | .hbm _ | .cxl _ _ => .next (if s.backed a then s.memAccess a o else s.unbacked o)
    | .device off => s.devAccess true off o
    | .aperture core off => .next (s.spadAccess core off o)
    | .remote _ _ | .hole => .fault (.physicalHole a)

/-! ## Boot and reset (10 R225, R230) -/

/-- READINESS_SET: a function of a die or of the hub becomes usable, unless its image has failed (10 R230); with a CXL port, the populated
size of its window is known. After a boot that failed, only the host port comes up, which the ROM brings up: every other function is made
usable by Brioche, which is halted (R230; notes/assumptions 88). -/
def execReadinessSet (die : Option Idx3) (bit : BitVec 4) (s : State) : Out :=
  let b := bit.toNat
  if s.dev.unloaded.contains (die.map BitVec.toNat, b) || (s.dev.bootstat.getLsbD 62 && decide ((die, b) ≠ (none, 1))) then .next s else
  let one : Word := BitVec.ofNat 64 (2 ^ b)
  match die with
  | some d =>
    if b ≤ 8 then
      .next { s with dev := { s.dev with rdydie := Sparse.set 0#64 s.dev.rdydie d.toNat (Sparse.get 0#64 s.dev.rdydie d.toNat ||| one) } }
    else .next s
  | none =>
    let gib := if 6 ≤ b ∧ b ≤ 13 then Sparse.set 0 s.dev.cxlGib (b - 6) (min 4096 (Config.cxlGib (b - 6))) else s.dev.cxlGib
    .next { s with dev := { s.dev with rdyhub := s.dev.rdyhub ||| one, cxlGib := gib } }

/-- The ports as boot stage 5 leaves them. -/
def trainedPorts : Sparse Port :=
  (List.range 96).foldl (fun m p => Sparse.set untrained m p { untrained with live := Config.portTrained p }) []

/-- BOOT_STAGE: the next stage is reached, or an image fails verification. That stops boot while the ROM verifies the kernel; a later
image that fails, of a function of a die or of the hub by its readiness bit, is not loaded, and that bit stays 0 (10 R230). -/
def execBootStage (stage : BitVec 8) (image : BootImage) (s : State) : Out :=
  let now := bits s.dev.bootstat.toNat 0 8
  let put (w : Nat) (d : Dev) : Out := .next { s with dev := { d with bootstat := BitVec.ofNat 64 w } }
  let fcode := image.fcode.toNat
  let f := (image.die.map BitVec.toNat, image.bit.toNat)
  if s.dev.bootstat.getLsbD 62 then .next s
  else if fcode ≠ 0 then
    if 3 < fcode then .next s
    else if now < 2 then put (2 ^ 62 + fcode * 256 + now) s.dev
    else if s.dev.unloaded.contains f then .next s
    else .next { s with dev := { s.dev with unloaded := f :: s.dev.unloaded } }
  else if stage.toNat = now + 1 ∧ now < 7 then
    let d := if stage.toNat = 5 then { s.dev with ports := trainedPorts } else s.dev
    put ((if stage.toNat = 7 then 2 ^ 63 else 0) + stage.toNat) d
  else .next s

/-- DEVICE_RESET: everything as State.reset has it, but the contents of memory as the system scope saw them, and the model's own
agenda and counters. -/
def execDeviceReset (s : State) : Out :=
  .next { State.reset with agenda := s.agenda, mem := s.sysMem, sideband := s.sideband, poison := s.poison,
                           correctable := s.correctable, nextId := s.nextId, notices := s.notices, msix := s.msix, free := s.free }

/-! ## The link (10 R232 to R234, 11 R256, R257) -/

/-- The injector of a port meets a flit: whether it acts, and its registers after. -/
def State.injected (s : State) (p : Nat) : Bool × State :=
  let ctl := Sparse.get 0#64 s.dev.linjctl p
  let cnt := (Sparse.get 0#64 s.dev.linjcnt p).toNat
  let n := bits cnt 0 32
  let k := (s.port p).since + 1
  let s := { s with dev := { s.dev with ports := Sparse.set untrained s.dev.ports p { s.port p with since := k } } }
  let hit := ctl.getLsbD 63 && decide (n ≠ 0) && (if ctl.getLsbD 60 then decide (k % n = 0) else decide (k = n))
  if !hit then (false, s)
  else
    let c := if ctl.getLsbD 60 then ctl.toNat else setBits ctl.toNat 63 1 0
    (decide (bits ctl.toNat 61 2 ≤ 1),
     { s with dev := { s.dev with
         linjctl := Sparse.set 0#64 s.dev.linjctl p (BitVec.ofNat 64 c),
         linjcnt := Sparse.set 0#64 s.dev.linjcnt p (BitVec.ofNat 64 (setBits cnt 32 32 (bits cnt 32 32 + 1))) } })

/-- The oldest request in flight over a port arrives. -/
def deliverOldest (p : Nat) : List Remote → List Remote
  | [] => []
  | r :: t => if r.way = .over p then { r with way := .arrived } :: t else r :: deliverOldest p t

/-- A flit has failed its first sending and sixteen replays: the port goes down (11 R257). -/
def Port.failed (x : Port) : Bool := decide (17 ≤ x.fails)

/-- FLIT_RECEIVE: a flit of a live port arrives well and in sequence, with the oldest request in flight over the port, or is dropped
and will be replayed. -/
def execFlitReceive (port : BitVec 7) (ok : Bool) (s : State) : Out :=
  let p := port.toNat
  if 96 ≤ p ∨ !(s.port p).live ∨ (s.port p).failed then .next s
  else
    let (broken, s) := s.injected p
    let x := s.port p
    let good := ok && !broken
    let y : Port := if good then { x with seq := x.seq + 1, fails := 0 } else { x with fails := x.fails + 1 }
    .next { s with dev := { s.dev with ports := Sparse.set untrained s.dev.ports p y },
                   remote := if good then deliverOldest p s.remote else s.remote }

/-- A command of a context, which need not be the one in focus, goes on by `f`, unless the link has ended it. -/
def State.onCmd (s : State) (w : Requester) (id : Nat) (f : Cmd → State → State) : State :=
  let t := s.focus w.core w.bank .acc
  (match t.cmd id with
   | some k => if k.link.isSome then t else f k t
   | none => t).focus s.ctx.core s.ctx.bank s.hart

/-- A request in flight over a port that goes down is reissued over another live port to its package; where there is none, its hart
takes a machine check, and a command of `dsp` ends (11 R257, 18 R395). The request as it goes on, if it does. -/
def State.reissue (s : State) (port : Nat) (r : Remote) : List Remote × State :=
  match s.portTo (dieOf r.by_.core) r.pkg, r.by_.cmd with
  | some q, none => ([{ r with way := .over q }], s)
  | some q, some id => ([{ r with way := .over q }], s.onCmd r.by_ id fun k t => t.putCmd { k with port := some q })
  | none, none => (if r.by_.bank < 2 then [{ r with way := .lost port }] else [], s)
  | none, some id => ([], s.onCmd r.by_ id fun k t => t.linkEnd k r.pkg)

/-- Every request in flight over a port is reissued, in order. -/
def State.reissueAll (s : State) (port : Nat) : State :=
  let (l, t) := s.remote.foldl (fun (x : List Remote × State) r =>
    if r.way = .over port then
      let (l, t) := x.2.reissue port r
      (x.1 ++ l, t)
    else (x.1 ++ [r], x.2)) ([], s)
  { t with remote := l }

/-- PORT_DOWN. -/
def execPortDown (port : BitVec 7) (s : State) : Out :=
  let p := port.toNat
  let x := s.port p
  if x.live ∧ x.failed then
    let t : State := { s with dev := { s.dev with ports := Sparse.set untrained s.dev.ports p { x with live := false } },
                              notices := s.notices ++ [Notice.portDown p], msix := s.msix ++ [1] }
    .next (t.pkgEvent.reissueAll p)
  else .next s

/-- REMOTE_REQUEST: a store or atomic of another package on this package's HBM, at sys scope. Poisoned data is not changed by an
atomic; its requester consumes it. -/
def execRemoteRequest (op : RemoteOp) (addr : BitVec 41) (n : Nat) (val : Word) (s : State) : Out :=
  let a := addr.toNat
  match partOf a with
  | .hbm _ =>
    let rmw (w : Nat) (f : Nat → Option Nat) : Out :=
      if s.poisoned a w then .next s
      else
        let s := s.gatherStores .sys a w
        match f (s.num .sys a w) with
        | some v => .next (s.perform 0 .sys a (toBytes w v))
        | none => .next s
    match op with
    | .store => .next (s.perform 0 .sys a (toBytes (min n 8) val.toNat))
    | .amo op t rm => rmw (tyBytes t) fun old => some (amoValue op t (resolveRm rm 0#64) old (low t val)).1
    | .cas want => rmw (min n 8) fun old => if old = want.toNat % 2 ^ (8 * min n 8) then some (val.toNat % 2 ^ (8 * min n 8)) else none
  | .cxl _ _ | .aperture _ _ | .device _ | .remote _ _ | .hole => .next s

/-! ## Memory (02 R45, 04 R99) -/

/-- The next wider scope. -/
def Scope.wider : Scope → Scope
  | .core => .cluster
  | .cluster => .die
  | .die => .pkg
  | .pkg | .sys => .sys

/-- STORE_BECOMES_VISIBLE: a performed store becomes visible in the next wider instance. -/
def execStoreBecomesVisible (k : Nat) (s : State) : Out :=
  match s.stores[k]? with
  | none => .next s
  | some w => .next (s.raise (fun x => decide (x = w)) (Scope.wider w.level))

/-- SECTOR_ERROR: an error arises in a stored sector of HBM, or in 64 bytes behind a CXL port, whose responses then carry poison
(02 R49, 11 R255); that port reports no correctable one. -/
def execSectorError (sector : Nat) (correctable : Bool) (s : State) : Out :=
  let spoilt : State := { s with correctable := s.correctable.filter (· ≠ sector),
                                 poison := if s.poison.contains sector then s.poison else sector :: s.poison }
  match partOf (64 * sector) with
  | .hbm _ =>
    if !correctable then .next spoilt
    else if s.correctable.contains sector || s.poison.contains sector then .next s
    else .next { s with correctable := sector :: s.correctable }
  | .cxl _ _ => .next (if !correctable && s.backed (64 * sector) then spoilt else s)
  | .aperture _ _ | .device _ | .remote _ _ | .hole => .next s

end Sys2Proof.Machine
end

