-- ==== Sys2Proof/Machine/Queue.lean ====
section
/-! DEFINITION. The queues between the harts (08 R174 to R176, 14 R305, 04 R115). -/

namespace Sys2Proof.Machine

/-- The entries of a queue, oldest first, and their replacement. -/
def State.queue (s : State) (q : Idx3) : List Word := Sparse.get [] s.ctx.q q.toNat
def State.setQueue (s : State) (q : Idx3) (l : List Word) : State := s.setCtx { s.ctx with q := Sparse.set [] s.ctx.q q.toNat l }

/-- The hart that writes a queue (08 R174). -/
def Context.qWriter (c : Context) (q : Idx3) : HartId := if c.sr.qdir.getLsbD q.toNat then .exe else .acc

/-- The side that QDIR does not allow (08 R175). -/
def sideTrap (q : Idx3) : Trap := { cause := Cause.queueIllegal, addr := 0#64, info := BitVec.ofNat 64 (8 + q.toNat) }

/-- The keys of the releases that the entries of a queue are, oldest first; 0 where an entry carries nothing (04 R115). -/
def State.queueKeys (s : State) (q : Idx3) : List Nat := Sparse.get [] s.ctx.qk q.toNat
def State.setQueueKeys (s : State) (q : Idx3) (l : List Nat) : State :=
  s.setCtx { s.ctx with qk := Sparse.set [] s.ctx.qk q.toNat l }

/-- Remove the head of a queue, with the stores that its writer knew (04 R115). -/
def State.takeHead (s : State) (q : Idx3) (rest : List Word) : State :=
  let k := (s.queueKeys q).headD 0
  let s := (s.setQueueKeys q ((s.queueKeys q).drop 1)).setQueue q rest
  if k = 0 then s else s.acquireKey k s.party

/-- A hart has stopped by `end`, or is in its `end` (08 R173, R175). -/
def HartSt.over (x : HartSt) : Bool := decide (x.run = .stopped) || (decide (x.run = .running) && decide (x.wait = .ending))

/-- A hart of the context in focus stands still on a queue. -/
def State.stuckOn (s : State) (h : HartId) : Option Idx3 :=
  match (s.ctx.hs h).run, (s.ctx.hs h).wait with
  | .running, .queue q full => if (s.queue q).length = (if full then Config.qDepth else 0) then some q else none
  | _, _ => none

/-- The trap of a deadlock: the trapping hart's queue, and the other's or that it has stopped (08 R175). -/
def deadlockTrap (q : Idx3) (other : Option Idx3) : Trap :=
  { cause := Cause.queueIllegal, addr := 0#64,
    info := BitVec.ofNat 64 (q.toNat + (match other with
      | some r => 16 * r.toNat
      | none => 128)) }

/-- The hart in focus stalls on a queue; if the other hart has stopped or stands still on a queue too, that is a deadlock, which
the execute hart reports unless it is the stopped one (08 R175). -/
def State.queueStall (s : State) (q : Idx3) (full : Bool) : Res :=
  let stall : Res := .stall (.queue q full) s
  if (s.ctx.hs s.hart.other).over then .trap (deadlockTrap q none) s
  else
    match s.stuckOn s.hart.other with
    | none => stall
    | some r =>
      match s.hart with
      | .exe => .trap (deadlockTrap q (some r)) s
      | .acc =>
        if s.ctx.v.vq ≠ [] then stall
        else .stall (.queue q full) (s.takeTrap .exe (deadlockTrap r (some q)) s.ctx.xh.pc s.ctx.xh.pc false)

/-- Append X[a] at the tail; a release at core scope. -/
def State.writeQueue (s : State) (q : Idx3) (a : Reg) : Res :=
  if s.ctx.qWriter q ≠ s.hart then .trap (sideTrap q) s
  else if (s.queue q).length = Config.qDepth then s.queueStall q true
  else if !s.drained then .stall .other s
  else
    let (ks, t) := (s.releaseBy .core).leaveKey s.party
    let u := (t.setQueueKeys q (t.queueKeys q ++ [ks.headD 0])).setQueue q (t.queue q ++ [s.x a])
    .ok (u.setCtx (u.ctx.setHs s.hart.other (u.ctx.hs s.hart.other).wake)).advance

/-- Remove the head into xd; an acquire at core scope. -/
def State.readQueue (s : State) (d : Reg) (q : Idx3) : Res :=
  if s.ctx.qWriter q = s.hart then .trap (sideTrap q) s
  else
    match s.queue q with
    | [] => s.queueStall q false
    | w :: t => (s.takeHead q t).finX d w

/-- `qwr`. -/
def execQwr (q : Idx3) (a : Reg) (s : State) : Out := runBoth (fun s => s.whenReady [a] [] fun s => s.writeQueue q a) s

/-- `qrd`. -/
def execQrd (d : Reg) (q : Idx3) (s : State) : Out := runBoth (fun s => s.whenReady [] [d] fun s => s.readQueue d q) s

/-- `bq`: wait for a head, branch on it; `.c` removes it. -/
def execBq (nz cons : Bool) (q : Idx3) (i : BitVec 14) (s : State) : Out :=
  runBoth (fun s =>
    if cons && decide (s.ctx.qWriter q = s.hart) then .trap (sideTrap q) s
    else
      match s.queue q with
      | [] => s.queueStall q false
      | w :: t => (if cons then s.takeHead q t else s).branchIf (decide (w = 0#64) != nz) (imm64 i)) s

/-- `qlvl`. -/
def execQlvl (d : Reg) (q : Idx3) (s : State) : Out :=
  runBoth (fun s => s.whenReady [] [d] fun s => s.finX d (BitVec.ofNat 64 (s.queue q).length)) s

end Sys2Proof.Machine
end

