-- ==== Sys2Proof/Machine/Pair.lean ====
section
/-! DEFINITION. The P form: two slots as one instruction (13 R281 to R283). -/

namespace Sys2Proof.Machine

/-- The operation of a register form. -/
def slotOp : SlotAlu → IOp
  | .add => .add | .sub => .sub | .mul => .mul | .and => .and | .or => .or | .xor => .xor | .andn => .andn | .shl => .shl
  | .shr => .shr | .sra => .sra | .rot => .rot | .min => .min | .max => .max | .minn => .minn | .maxn => .maxn
def slotImmOp : SlotImm → IOp
  | .add => .add | .and => .and | .or => .or | .xor => .xor
def slotShOp : SlotSh → IOp
  | .shl => .shl | .shr => .shr | .sra => .sra | .rot => .rot
def slotUnOp : SlotUn → IUn
  | .clz => .clz | .ctz => .ctz | .pop => .pop | .bswap => .bswap

/-- The float operation of a slot, under RNE. -/
def slotFlt (op : SlotF) (a b : Word) : Word × BitVec 8 :=
  let go (t : Ty) (f : FFmt → Nat → Nat → FRes) : Word × BitVec 8 :=
    let (r, fl) := f (ffmt t) (low t a) (low t b)
    (ext t r, fl)
  match op with
  | .fadd64 => go .f64 fun f => f.add .rne false
  | .fsub64 => go .f64 fun f => f.sub .rne false
  | .fmul64 => go .f64 fun f => f.mul .rne false
  | .fadd32 => go .f32 fun f => f.add .rne false
  | .fsub32 => go .f32 fun f => f.sub .rne false
  | .fmul32 => go .f32 fun f => f.mul .rne false
  | .fmin64 => go .f64 fun f => f.minmax false
  | .fmax64 => go .f64 fun f => f.minmax true

/-- The registers a slot reads. -/
def slotReads : Slot → List Reg
  | .nop | .li _ _ | .qrd _ _ | .b _ => []
  | .alu _ _ a b | .cmp _ _ a b | .flt _ _ a b => [a, b]
  | .imm _ _ a _ | .sh _ _ a _ | .un _ _ a | .ld _ _ a _ | .qwr _ a | .bz a _ | .bnz a _ => [a]
  | .st _ d a _ => [d, a]

/-- The value and flags of a slot that only computes. -/
def slotValue (s : State) : Slot → Option (Reg × Word × BitVec 8)
  | .alu op d a b => some (d, intResult (slotOp op) .i64 (s.x a) (s.x b), 0#8)
  | .imm op d a i => some (d, intResult (slotImmOp op) .i64 (s.x a) (i.signExtend 64), 0#8)
  | .sh op d a i => some (d, intResult (slotShOp op) .i64 (s.x a) (i.zeroExtend 64), 0#8)
  | .li d i => some (d, i.signExtend 64, 0#8)
  | .un op d a => some (d, unResult (slotUnOp op) .i64 (s.x a), 0#8)
  | .cmp op d a b =>
    some (d, flagWord (match op with
      | .eq => decide (s.x a = s.x b)
      | .lt => decide ((s.x a).toInt < (s.x b).toInt)
      | .ltn => decide ((s.x a).toNat < (s.x b).toNat)), 0#8)
  | .flt op d a b => let r := slotFlt op (s.x a) (s.x b); some (d, r.1, r.2)
  | .nop | .ld _ _ _ _ | .st _ _ _ _ | .qwr _ _ | .qrd _ _ | .bz _ _ | .bnz _ _ | .b _ => none

/-- A memory or control slot, run as the F-form instruction it names. -/
def slotRun (s : State) : Slot → Option Res
  | .ld op d a i =>
    let at_ := s.x a + i.signExtend 64
    some (match op with
      | .n64 => s.loadX .n64 false at_ .rlx d
      | .n32 => s.loadX .n32 false at_ .rlx d
      | .i32 => s.loadX .i32 false at_ .rlx d
      | .n8 => s.loadX .n8 false at_ .rlx d
      | .spad => s.loadX .n64 true at_ .rlx d)
  | .st op d a i =>
    let at_ := s.x a + i.signExtend 64
    some (match op with
      | .n64 => s.storeX .n64 false at_ (s.x d) .rlx
      | .n32 => s.storeX .n32 false at_ (s.x d) .rlx
      | .n8 => s.storeX .n8 false at_ (s.x d) .rlx
      | .spad => s.storeX .n64 true at_ (s.x d) .rlx)
  | .qwr q a => some (s.writeQueue q a)
  | .qrd d q => some (s.readQueue d q)
  | .bz a i => some (s.branchIf (decide (s.x a = 0#64)) (i.signExtend 64))
  | .bnz a i => some (s.branchIf (decide (s.x a ≠ 0#64)) (i.signExtend 64))
  | .b i => some (s.branchIf true (i.signExtend 64))
  | .nop | .alu _ _ _ _ | .imm _ _ _ _ | .sh _ _ _ _ | .li _ _ | .un _ _ _ | .cmp _ _ _ _ | .flt _ _ _ _ => none

/-- The trap of a slot that computes. -/
def slotTrap (s : State) (x : Slot) : Option Trap :=
  match slotValue s x with
  | some (_, _, fl) => if trapping s.ctx.sr.fctl fl then some (fpTrap fl) else none
  | none => none

/-- The write of a slot that computes, from the registers of `s`. -/
def slotApply (s : State) (x : Slot) (t : State) : State :=
  match slotValue s x with
  | some (d, w, fl) => (t.orFlags fl).setX d w
  | none => t

/-- Both slots, once the registers are ready. -/
def pairRun (u v : Slot) (s : State) : Res :=
  match slotTrap s u with
  | some t => .trap t s
  | none =>
    let main := ((slotRun s u).orElse fun _ => slotRun s v).getD (.ok s.advance)
    match main, slotTrap s v with
    | .trap t w, _ => .trap t w
    | .stall w t, _ => .stall w t
    | .rewind t, _ => .rewind t
    | .ok _, some t => .trap t s
    | .ok t, none => .ok (slotApply s v (slotApply s u t))

/-- P_FORM_PAIR. -/
def execPFormPair (s0 s1 : Slot) (s : State) : Out :=
  runBoth (fun s =>
    if (slotIsFloat s0 || slotIsFloat s1) && decide (s.hart = .acc) then .trap (illegalTrap (.pFormPair s0 s1)) s
    else s.whenReady (slotReads s0 ++ slotReads s1) (s0.dest.toList ++ s1.dest.toList) (pairRun s0 s1)) s

end Sys2Proof.Machine
end

