-- ==== Sys2Proof/Machine/RayCmd.lean ====
section
/-! DEFINITION. The ray-engine instructions (18 R396, R397) and the RAY_FAULT event (09 R205, 11 R247). -/

namespace Sys2Proof.Machine

/-! ## Issue -/

/-- A ray of the context is in flight; another context of the core has a ray that runs (09 R196, R197). -/
def State.raysHere (s : State) : Bool := !s.ctx.ray.rays.isEmpty
def State.raysBelow (s : State) : Bool :=
  s.others.any fun c => decide (c.core = s.ctx.core) && c.ray.rays.any fun r => decide (r.phase = .run)

/-- Issue a command whose effect `f` happens at issue; its token reports some units. -/
def State.issueRay (s : State) (kind : CmdKind) (t : Tok) (units : Nat) (f : State → State) : Res :=
  match s.issueCmd { s.newCmd kind t with units := units } none with
  | .ok u => .ok (f u)
  | r => r

/-- `rtlay` (18 R396, 09 R196). -/
def execRtlay (t : Tok) (a : Reg) (s : State) : Out :=
  runAcc (.rtlay t a) (fun s => s.whenReady [a] [] fun s =>
    let va := s.x a
    if va.toNat % 32 ≠ 0 then .trap (alignTrap va 32) s
    else s.loadV .plain va 32 .rlx fun bs s =>
      let l := BitVec.ofNat 256 (ofBytes bs)
      if !layoutOk l then .trap (illegalTrap (.rtlay t a)) s
      else if s.raysHere || s.raysBelow then .stall .other s
      else s.issueRay .rtlay t 1 fun s => s.setCtx { s.ctx with ray := { s.ctx.ray with layout := some l } }) s

/-- Words from address 0 of the traversal store. -/
def putStore (m : Sparse Word) (bs : List Byte) (n : Nat) : Sparse Word :=
  (List.range n).foldl (fun m i => Sparse.set 0#64 m i (BitVec.ofNat 64 (ofBytes ((bs.drop (8 * i)).take 8)))) m

/-- `rtprog` (18 R396, 09 R197). -/
def execRtprog (t : Tok) (a b : Reg) (s : State) : Out :=
  runAcc (.rtprog t a b) (fun s => s.whenReady [a, b] [] fun s =>
    let va := s.x a
    let n := (s.x b).toNat
    if n = 0 ∨ 512 < n then .trap (illegalTrap (.rtprog t a b)) s
    else if va.toNat % 8 ≠ 0 then .trap (alignTrap va 8) s
    else s.loadV .plain va (8 * n) .rlx fun bs s =>
      if s.raysHere || s.raysBelow then .stall .other s
      else s.issueRay .rtprog t n fun s =>
        s.setCtx { s.ctx with ray := { s.ctx.ray with ustore := putStore s.ctx.ray.ustore bs n } }) s

/-- The rays in flight in the engine of the core in focus, of both its contexts: one that waits for a ring keeps its slot (00 R2,
09 R204). -/
def State.raysInCore (s : State) : Nat := ((s.contexts.filter fun c => c.core = s.ctx.core).map fun c => c.ray.rays.length).sum

/-- ILLEGAL before ALIGN, and ALIGN before the faults of an access (11 R247). -/
def alignNext (a : Word) (size : Nat) (s : State) (r : Res) : Res :=
  if a.toNat % size = 0 then r
  else match r with
    | .trap t u => if t.cause = Cause.illegal then .trap t u else .trap (alignTrap a size) s
    | .ok _ | .stall _ _ | .rewind _ => .trap (alignTrap a size) s

/-- `rtin` (18 R396, 09 R199, R204): the headers of both rings are read as loads, and the record as the engine's command reads it (09 R206,
04 R112). -/
def execRtin (t : Tok) (a : Reg) (s : State) : Out :=
  let i : Instr := .rtin t a
  runAcc i (fun s => s.whenReady [a] [] fun s =>
    let va := s.x a
    let c := s.ctx
    if c.ray.layout.isNone || !c.sr.rfrb.getLsbD 63 || !c.sr.rdrb.getLsbD 63 then .trap (illegalTrap i) s
    else alignNext va 128 s (s.loadV .plain (ringBase c.sr.rfrb) 128 .rlx fun h s =>
      s.loadV .plain (ringBase c.sr.rdrb) 128 .rlx fun h' s =>
        if !headerOk h || !headerOk h' then .trap (illegalTrap i) s
        else if 64 ≤ s.raysInCore || s.raysBelow then .stall .other s
        else s.reach (s.req .read) va 128 fun ps s =>
          match s.engBad ps with
          | some pa => s.consume false va (poisonInfo pa)
          | none =>
          let id := s.nextId
          s.issueRay .rtin t 1 fun s =>
            let bs := (pieceBytes ps).map (s.engByte (.core s.ctx.core) (freshKey id))
            let s := ({ s with nextId := s.nextId + 1 } : State).acquireKey (s.ctx.hartKey .acc) (freshKey (id + 1))
            s.setCtx { s.ctx with ray := { s.ctx.ray with
              rays := s.ctx.ray.rays ++ [inject (id + 1) (BitVec.ofNat 1024 (ofBytes bs))] } })) s

/-- `rtout` (18 R396): the command waits for every ray whose id is below its `total`. -/
def execRtout (t : Tok) (s : State) : Out :=
  runAcc (.rtout t) (fun s =>
    let n := (s.ctx.ray.rays.filter fun r => r.phase = .run).length
    match s.issueCmd { s.newCmd .rtout t with units := n, total := s.nextId } none with
    | .ok u =>
      .ok (u.setCtx { u.ctx with ray := { u.ctx.ray with rays := u.ctx.ray.rays.map fun r =>
        if r.phase = .run then { r with suspend := true } else r } })
    | r => r) s

/-- The issued command that was the last reports some units. -/
def State.lastUnits (s : State) (n : Nat) : State :=
  s.setCtx { s.ctx with cmds := List.modifyAt s.ctx.cmds (s.ctx.cmds.length - 1) fun k => { k with units := n } }

/-- `rtacc` (18 R397): bytes 28–31 and 112–127 are written when the hit is accepted. The release of its issue comes first (02 R71), and the
record is then read and written at the same step. -/
def execRtacc (t : Tok) (a b : Reg) (s : State) : Out :=
  runAcc (.rtacc t a b) (fun s => s.whenReady [a, b] [] fun s =>
    let va := s.x a
    if va.toNat % 128 ≠ 0 then .trap (alignTrap va 128) s
    else s.reach (s.req .rmw .gather) va 128 fun ps s =>
      match s.badPiece ps with
      | some pa => s.consume false va (poisonInfo pa)
      | none =>
        let pa := (ps.headD (0, 0)).1
        let key := freshKey s.nextId
        let hit := s.x b
        s.issueRay .rtacc t 0 fun s =>
          let s := s.gatherStores (.core s.ctx.core) pa 128
          let r := BitVec.ofNat 1024 (s.num (.core s.ctx.core) pa 128)
          match accept r (bits hit.toNat 0 32) (bits hit.toNat 32 32) with
          | none => s
          | some r' =>
            ((s.lastUnits 1).engPut key .core (pa + 28) (toBytes 4 (bits r'.toNat 224 32))).engPut key .core (pa + 112)
              (toBytes 16 (bits r'.toNat 896 128))) s

/-! ## The event (09 R205, 11 R238, R247) -/

/-- The access hart may run an instruction (08 R172). -/
def onAcc (i : Instr) : Bool :=
  accOnly i ||
  (match i with
   | .add _ | .sub _ | .mul _ | .mulh _ | .mulhn _ | .div _ | .divn _ | .rem _ | .remn _ | .and _ | .or _ | .xor _ | .andn _
   | .shl _ | .shr _ | .sra _ | .rot _ | .min _ | .max _ | .minn _ | .maxn _ | .clz _ | .ctz _ | .pop _ | .bswap _ | .cmp _ _
   | .sel _ _ _ _ _ | .li _ _ | .lih _ _ | .lea _ _ | .b _ | .bcc _ _ _ _ | .call _ | .ret | .jr _ | .jcall _ | .bz _ _
   | .bnz _ _ | .qwr _ _ | .qrd _ _ | .bq _ _ _ _ | .qlvl _ _ | .sget _ _ | .sset _ _ | .sxchg _ _ _ | .nop | .ld _ | .st _
   | .ldw _ _ _ _ _ _ | .cas _ | .fence _ _ | .tlook _ _ | .tset _ _ | .tinv _ | .bari _ _ | .bara _ _ _
   | .barw _ _ _ _ | .svc _ | .tret | .end_ | .idle _ | .halt _ => true
   | .amo _ o => o.t.isInt
   | .pFormPair a b => !slotIsFloat a && !slotIsFloat b
   | _ => false)

/-- The access hart's next instruction traps before it begins: at its fetch, or by the decode checks of 13 R285. -/
def State.earlyTrap (s : State) : Bool :=
  match s.fetchWord s.pc (fun w t => .ok (t.setHs { t.hs with ibuf := keepWord [] 0 w })) with
  | .trap _ _ => true
  | .stall _ _ | .rewind _ => false
  | .ok t =>
    match decode (Sparse.get 0#64 t.hs.ibuf 0) with
    | .illegal | .pairing => true
    | .ok i =>
      !onAcc i ||
      (match i with
       | .sset r _ | .sxchg _ r _ => s.writePriv r
       | _ => false)

/-- A pending event is taken at the access hart's next boundary. -/
def State.eventDue (s : State) : Bool :=
  s.ctx.ray.event.isSome && decide (s.ctx.place = .active) && decide (s.ctx.ah.run = .running) && !s.ctx.ah.handler &&
  s.ctx.sr.hwin.getLsbD 63 && !({ s with hart := .acc }).earlyTrap

/-- RAY_FAULT. -/
def execRayFault (s : State) : Out :=
  match s.ctx.ray.event with
  | none => .next s
  | some (a, info) =>
    if s.eventDue then
      let s := s.interrupt .acc
      let s := s.setCtx { s.ctx with ray := { s.ctx.ray with event := none } }
      .next (s.pkgEvent.takeTrap .acc { cause := Cause.rayFault, addr := a, info := info } s.ctx.ah.pc s.ctx.ah.pc false)
    else .next s

end Sys2Proof.Machine
end

