-- ==== Sys2Proof/Machine/System.lean ====
section
/-! DEFINITION. System instructions of a context: `svc`, `tret`, `end`, `idle`, `chkm`, `halt` (18 R403, R407, R409, R410,
11 R241, R242, 08 R173, 10 R218). -/

namespace Sys2Proof.Machine

/-- `svc`: it makes the strip irrevocable (02 R71). -/
def execSvc (n : BitVec 14) (s : State) : Out :=
  runBoth (fun s =>
    .trap { cause := Cause.svc, addr := 0#64, info := n.zeroExtend 64, toNext := true } s.irrevocable) s

/-- Where a saved entry resumes, once `tret` has read ES and FMR (11 R241). -/
def Resume.at_ (r : Resume) (es : Word) (fmr : Pred) : Resume :=
  match r with
  | .fresh => .fresh
  | .elem _ _ => .elem (esRow es) (esElem es)
  | .mask _ => .mask fmr

/-- Saved entries join the queue behind those the handler issued, each at a position of its own, and the faulting one resumes where ES or
FMR says (11 R241). -/
def Vec.replay (v : Vec) (es : Word) (fmr : Pred) : Vec :=
  let es := v.saved.zipIdx.map fun (e, i) => { e with pos := (v.vpos + i) % 64, resume := if i = 0 then e.resume.at_ es fmr else e.resume }
  { v with vq := v.vq ++ es, saved := [], vpos := (v.vpos + es.length) % 64 }

/-- `tret`. The entries saved are those of the execute hart, which alone replays them. -/
def execTret (s : State) : Out :=
  runBoth (fun s => s.whenReady [] [30#5] fun s =>
    let t := s.hs.t
    if !s.hs.handler then .trap (illegalTrap .tret) s
    else if s.hs.ts then .trap { cause := Cause.matrixInHandler, addr := 0#64, info := 0#64 } s
    else if t.tnpc.toNat % 8 ≠ 0 then .trap (alignTrap t.tnpc 8) s
    else
      let replay := s.isExe && s.ctx.sr.tqp.getLsbD 63
      if replay && decide (Config.vqDepth < s.ctx.v.vq.length + s.ctx.v.saved.length) then .stall .other s
      else
        let s := s.setX 30#5 t.tsp
        let s := s.setHs { s.hs with t := { s.hs.t with hstat := s.hs.t.hstat &&& ~~~1#64 } }
        let s := if replay then
            s.setCtx { s.ctx with v := s.ctx.v.replay s.ctx.sr.es s.ctx.sr.fmr, sr := { s.ctx.sr with tqp := s.ctx.sr.tqp &&& BitVec.ofNat 64 (2 ^ 63 - 1) } }
          else s
        .ok (s.setPc t.tnpc)) s

/-- The access hart stops; an instruction in which it is stalled is abandoned, and leave granted to it returns (08 R173, 10 R222). What
its majority operation has sent still applies (03 R87). -/
def State.stopAcc (s : State) : State :=
  let s := ((s.interrupt .acc).dropLeave .acc).orphanOps .acc
  s.setCtx { s.ctx with ah := { s.ctx.ah with run := .stopped } }

/-- The item in focus has ended: its flags join the launch's, its standing leave returns, leave granted to its harts and not used with it
(10 R222), and its bank is free, with the registers as
they are until the next launch starts in it (10 R218, 08 R171, R173). -/
def State.endItem (s : State) : State :=
  let s := s.commitStrip.stopAcc.dropLeave .exe
  let c := s.ctx
  let s := (s.mapLaunch c.launch fun l =>
    { l with ended := if l.ended.contains c.item then l.ended else c.item :: l.ended, flags := l.flags ||| c.fstat }).returnStanding.pkgEvent
  let c := s.ctx
  let stopped (x : HartSt) : HartSt := { x with run := .stopped, wait := .none, ibuf := [] }
  s.setCtx { c with place := .empty, ah := stopped c.ah, xh := stopped c.xh, q := [], qk := [], kids := [], slog := [], save := none,
                    ray := { c.ray with rays := [], event := none } }

/-- What the execute hart's `end` waits for (10 R218). -/
def Context.quiet (c : Context) : Bool :=
  c.v.vq.isEmpty && c.m.mq.isEmpty && c.m.pend.isEmpty && c.cmds.isEmpty && c.vps.isEmpty

/-- `end`: it makes the strip irrevocable (02 R71). While the execute hart's `end` waits, an access hart that stands still on a queue
takes the trap of a deadlock (08 R175). -/
def execEnd (s : State) : Out :=
  runBoth (fun s =>
    let s := s.irrevocable
    if s.hs.handler then .ok (s.endFaulted (bits s.hs.t.tcause.toNat 0 8))
    else
      match s.hart with
      | .acc => .ok (s.setHs { s.hs with run := .stopped })
      | .exe =>
        if s.ctx.quiet then .ok s.endItem
        else
          match s.stuckOn .acc with
          | some q => .stall .ending (s.takeTrap .acc (deadlockTrap q none) s.ctx.ah.pc s.ctx.ah.pc false)
          | none => .stall .ending s) s

/-- `idle`: an event that is pending ends it at once. -/
def execIdle (a : Reg) (s : State) : Out :=
  runBoth (fun s => s.whenReady [a] [] fun s =>
    if s.ctx.ray.event.isSome then s.fin else .stall (.idle (decide (s.x a ≠ 0#64))) s) s

/-- IDLE_EXPIRY: the bound of the hart in focus passes. -/
def execIdleExpiry (s : State) : Out :=
  match s.hs.wait with
  | .idle true => .next (s.setHs s.hs.wake)
  | .idle false | .none | .other | .queue _ _ | .barw _ _ _ _ | .hold _ _ | .leave _ | .majority | .ending => .next s

/-- `chkm`. -/
def execChkm (d a : Reg) (s : State) : Out :=
  runExe (.chkm d a) (fun s => s.whenReady [a] [d] fun s =>
    if !s.drained then .stall .other s
    else if s.irrevocable.unsent s.party then .stall .other s.irrevocable
    else
      let s := (s.releaseBy .sys).pkgEvent
      let s := { s with notices := s.notices ++ [Notice.chkm s.evseq s.ctx.core (s.x a)] }
      s.finX d (BitVec.ofNat 64 s.evseq)) s

/-- The CAUSE of `halt` (18 R410). -/
def haltCause (w : Word) : Nat :=
  let n := bits w.toNat 0 8
  if n ≤ 0x13 ∧ n ≠ 0x0D ∧ n ≠ 0x11 then n else 0x10

/-- `halt`. -/
def execHalt (a : Reg) (s : State) : Out :=
  runBoth (fun s => s.whenReady [a] [] fun s =>
    let code := haltCause (s.x a)
    let s := { s with notices := s.notices ++ [Notice.halt s.ctx.core s.pc code], msix := s.msix ++ [1] }
    .ok (s.endFaulted code)) s

end Sys2Proof.Machine
end

