-- ==== Sys2Proof/Machine/Mv.lean ====
section
/-! DEFINITION. Multivector arithmetic (07 R157 to R167, 15 R329 to R331): the algebra's tables, inferred masks, exact sums,
projection and grade escape. -/

namespace Sys2Proof.Machine

/-! ## The algebra (07 R157 to R160) -/

/-- MASK of a row. -/
def bladeMask (r : Nat) : Nat :=
  [0b0000, 0b0010, 0b0100, 0b1000, 0b0001, 0b1100, 0b1010, 0b0110, 0b0011, 0b0101, 0b1001, 0b1110, 0b1101, 0b1011, 0b0111,
   0b1111].getD r 0

/-- SIGN of a row is minus. -/
def bladeNeg (r : Nat) : Bool := r = 6 || r = 12 || r = 14

/-- The row of a mask. -/
def rowOfMask (m : Nat) : Nat := ((List.range 16).find? fun r => bladeMask r = m).getD 0

/-- BladeProduct (07 R158): whether the coefficient is negative, and the row; none where it is 0. -/
def bladeProduct (i j : Nat) : Option (Bool × Nat) :=
  let a := bladeMask i
  let b := bladeMask j
  if a.testBit 0 && b.testBit 0 then none
  else
    let swaps := ((List.range 4).flatMap fun x => (List.range 4).filter fun y => a.testBit x && b.testBit y && decide (y < x)).length
    let r := rowOfMask (Nat.xor a b)
    some ((bladeNeg i != bladeNeg j) != (bladeNeg r != decide (swaps % 2 = 1)), r)

/-- Signs of reverse, involution and conjugate by grade (07 R159): true is minus. -/
def revNeg (g : Nat) : Bool := g = 2 || g = 3
def invNeg (g : Nat) : Bool := g = 1 || g = 3
def conjNeg (g : Nat) : Bool := g = 1 || g = 2

/-- J (07 R160). -/
def complement (r : Nat) : Nat := [15, 12, 13, 14, 11, 8, 9, 10, 5, 6, 7, 4, 1, 2, 3, 0].getD r 0

/-! ## Inferred masks (07 R163) -/

/-- The grades of a mask, and the mask of grades. -/
def gradesOf (k : BitVec 5) : List Nat := (List.range 5).filter fun g => k.getLsbD g
def gradeMask (l : List Nat) : BitVec 5 := BitVec.ofNat 5 (((List.range 5).filter fun g => l.contains g).map (2 ^ ·)).sum

/-- The grades of a geometric product of parts of two grades. -/
def gpGrades (a b : Nat) : List Nat :=
  (List.range 5).filter fun g => decide (max a b - min a b ≤ g) && decide (g ≤ min (a + b) (8 - (a + b))) && decide ((g + a + b) % 2 = 0)

/-- The union over every pair of grades present. -/
def pairGrades (f : Nat → Nat → List Nat) (a b : BitVec 5) : BitVec 5 :=
  gradeMask ((gradesOf a).flatMap fun x => (gradesOf b).flatMap fun y => f x y)

/-- The grades of a mask lie in a mask. -/
def within (a b : BitVec 5) : Bool := decide (a &&& b = a)

/-- I of an operation for the masks of its operands. -/
def inferred (op : MvOp) (a b : BitVec 5) : BitVec 5 :=
  match op with
  | .gp => pairGrades gpGrades a b
  | .wd => pairGrades (fun x y => if x + y ≤ 4 then [x + y] else []) a b
  | .jn => pairGrades (fun x y => if 4 ≤ x + y then [x + y - 4] else []) a b
  | .lc => pairGrades (fun x y => if x ≤ y then [y - x] else []) a b
  | .sw => if within a 0b10101#5 || within a 0b01010#5 then b else pairGrades gpGrades (pairGrades gpGrades a b) a
  | .dl => gradeMask ((gradesOf a).map (4 - ·))
  | .rev | .inv | .conj => a
  | .nm => 0b00001#5
  | .exp => 0b10101#5

/-! ## Exact sums (07 R165) -/

/-- A term: its sign, and the rows of the first and second operand that are its factors. -/
structure MvTerm where
  neg : Bool
  as_ : List Nat
  bs : List Nat
  deriving DecidableEq, Repr

/-- The pairs of rows whose blades' product satisfies a test on grades and gives row r. -/
def productTerms (r : Nat) (p : Nat → Nat → Nat → Bool) (fa fb : Nat → Nat) : List MvTerm :=
  (List.range 16).flatMap fun i => (List.range 16).filterMap fun j =>
    match bladeProduct i j with
    | some (neg, k) =>
      if k = r ∧ p (gradeOfRow i) (gradeOfRow j) (gradeOfRow k) then some { neg := neg, as_ := [fa i], bs := [fb j] } else none
    | none => none

/-- The terms of M X M̃ in row r. -/
def sandwichTerms (r : Nat) : List MvTerm :=
  (List.range 16).flatMap fun i => (List.range 16).flatMap fun j =>
    match bladeProduct i j with
    | none => []
    | some (n, k) => (List.range 16).filterMap fun l =>
      match bladeProduct k l with
      | some (m, q) => if q = r then some { neg := (n != m) != revNeg (gradeOfRow l), as_ := [i, l], bs := [j] } else none
      | none => none

/-- The terms of row r of an operation (07 R161, 15 R330). -/
def mvTerms (op : MvOp) (r : Nat) : List MvTerm :=
  let own (neg : Bool) (row : Nat) : List MvTerm := [{ neg := neg, as_ := [row], bs := [] }]
  match op with
  | .gp => productTerms r (fun _ _ _ => true) id id
  | .wd => productTerms r (fun a b g => g = a + b) id id
  | .lc => productTerms r (fun a b g => a ≤ b && g = b - a) id id
  | .jn => productTerms (complement r) (fun a b g => g = a + b) complement complement
  | .sw => sandwichTerms r
  | .dl => own false (complement r)
  | .rev => own (revNeg (gradeOfRow r)) r
  | .inv => own (invNeg (gradeOfRow r)) r
  | .conj => own (conjNeg (gradeOfRow r)) r
  | .nm => if r = 0 then [0, 1, 2, 3, 5, 6, 7, 11].map fun i => { neg := false, as_ := [i, i], bs := [] } else []
  | .exp => []

/-- A column of sixteen values. -/
abbrev Column := List Num
def Column.at_ (c : Column) (r : Nat) : Num := c.getD r (.fin false 0 0)

/-- The value of a term. -/
def termValue (a b : Column) (t : MvTerm) : Num :=
  let fs := t.as_.map a.at_ ++ t.bs.map b.at_
  let p := fs.foldl (fun x y => (x.mul y).1) (.fin false 1 0)
  if t.neg then p.neg else p

/-- The exact sum of values; a zero is +0 and every NaN is one (07 R165). -/
def exactSum (l : List Num) : Num := l.foldl (fun x y => (x.add .rne y).1) (.fin false 0 0)

/-- RoundComp (07 R165): every NaN sets NV, and an exact zero is +0. -/
def FFmt.roundComp (f : FFmt) (rm : Rm) (s : Num) : FRes :=
  match s with
  | .nan _ => f.giveNan true
  | .inf n => f.giveInf false n
  | .fin n m e => if m = 0 then (0, 0#8) else f.round rm false n m e false

/-! ## mvexp (15 R331) -/

/-- The arc tangent of 1/k times 2^w, by its series cut off toward zero. -/
def atanInv (w k : Nat) : Nat :=
  let rec go : Nat → Nat → Nat → Int → Int
    | 0, _, _, acc => acc
    | fuel + 1, n, p, acc => go fuel (n + 1) (p / (k * k)) (if n % 2 = 0 then acc + (p / (2 * n + 1) : Nat) else acc - (p / (2 * n + 1) : Nat))
  (go (w / 4 + 8) 0 (2 ^ w / k) 0).toNat

/-- π times 2^w, within 2^18. -/
def piFixed (w : Nat) : Nat := 16 * atanInv w 5 - 4 * atanInv w 239

/-- Σ (−1)^n x^n / (2n + s)! × 2^w over n, for x = X / 2^w: with s = 0 the cosine, with s = 1 the sine over its argument, of the
square root of x. -/
def altSeries (w s x : Nat) : Int :=
  let rec go : Nat → Nat → Nat → Int → Int
    | 0, _, _, acc => acc
    | fuel + 1, n, p, acc =>
      go fuel (n + 1) (p * x / 2 ^ w / ((2 * n + s + 1) * (2 * n + s + 2))) (if n % 2 = 0 then acc + (p : Int) else acc - (p : Int))
  go (w / 4 + 8) 0 (2 ^ w) 0

/-- Σ (−1)^(n+1) x^n (1/(2n + 2)! − 1/(2n + 3)!) × 2^w: g of 15 R331 near 0. -/
def gSeries (w x : Nat) : Int :=
  let rec go : Nat → Nat → Nat → Int → Int
    | 0, _, _, acc => acc
    | fuel + 1, n, p, acc =>
      let t : Int := (p * (2 * n + 2) / (2 * n + 3) : Nat)
      go fuel (n + 1) (p * x / 2 ^ w / ((2 * n + 3) * (2 * n + 4))) (if n % 2 = 0 then acc - t else acc + t)
  go (w / 4 + 8) 0 (2 ^ w / 2) 0

/-- The bound of the error, in units of 2^−w, of what `expParts` gives: each of its series sums w / 4 + 8 terms cut off to a unit. -/
def expSlack (w : Nat) : Nat := 2 ^ 24 + 16 * w

/-- cos θ, f and g times 2^w for θ² = q / 2^(2 fb), each within `expSlack w`. -/
def expParts (w fb q : Nat) : Int × Int × Int :=
  if q < 2 ^ (2 * fb) then
    let x := q * 2 ^ w / 2 ^ (2 * fb)
    (altSeries w 0 x, altSeries w 1 x, gSeries w x)
  else
    let big := w + q.log2 + 40
    let theta := isqrt (q * 2 ^ (2 * big)) / 2 ^ fb
    let pi := piFixed big
    let turns := 2 * theta / pi
    let rest := (2 * theta - turns * pi) / 2 / 2 ^ (big - w)
    let x := rest * rest / 2 ^ w
    let c := altSeries w 0 x
    let s := altSeries w 1 x * (rest : Int) / (2 : Int) ^ w
    let (c, s) := match turns % 4 with
      | 0 => (c, s)
      | 1 => (-s, c)
      | 2 => (-c, -s)
      | _ => (s, -c)
    let th := theta / 2 ^ (big - w)
    let f := s * (2 : Int) ^ w / (th : Int)
    (c, f, (c - f) * (2 : Int) ^ (2 * fb) / (q : Int))

/-- Round a value known to lie within `err` of `v`, both in units of 2^−sh, and to be no multiple of any unit: none where the
bounds round apart. -/
def FFmt.roundNear (f : FFmt) (rm : Rm) (v : Int) (err : Nat) (sh : Nat) : Option FRes :=
  if v.natAbs < 2 ^ 70 + err then none
  else
    let neg := decide (v < 0)
    let lo := f.round rm false neg (v.natAbs - err) (-(sh : Int)) true
    let hi := f.round rm false neg (v.natAbs + err) (-(sh : Int)) true
    if lo = hi then some lo else none

/-- One row of `mvexp` at a working precision, from parts within a slack: x, y are (X5, X6, X7) and (X8, X9, X10) in units of 2^−fb. -/
def expRow (f : FFmt) (rm : Rm) (fb w e : Nat) (x y : List Int) (r : Nat) : Option FRes :=
  let q := (x.map fun i => (i * i).natAbs).sum
  let d := ((x.zip y).map fun (i, j) => i * j).sum
  let (c, s, g) := expParts w fb q
  if r = 0 then f.roundNear rm c e w
  else if r = 15 then (if d = 0 then some (0, 0#8) else f.roundNear rm (d * s) (d.natAbs * e) (w + 2 * fb))
  else
    let i := (r - 5) % 3
    let n := x.getD i 0
    let m := y.getD i 0
    if r < 8 then (if n = 0 then some (0, 0#8) else f.roundNear rm (s * n) (n.natAbs * e) (w + fb))
    else if m = 0 ∧ d * n = 0 then some (0, 0#8)
    else
      let k : Int := (2 : Int) ^ (2 * fb)
      f.roundNear rm (s * m * k + d * g * n) ((m.natAbs * k.natAbs + (d * n).natAbs) * e) (w + 3 * fb)

/-- The first precision that decides a row, doubling. An exact component that is not 0 is A sin θ + B cos θ for algebraic A and B, and
θ ≠ 0 is algebraic, so it is no rational number and some precision decides it; the last one tried is beyond every such need
(notes/assumptions 14). -/
def expTry (f : FFmt) (rm : Rm) (fb : Nat) (x y : List Int) (r : Nat) : Nat → Nat → FRes
  | 0, w => (expRow f rm fb w 0 x y r).getD (0, Flag.nx)
  | fuel + 1, w => (expRow f rm fb w (expSlack w) x y r).getD (expTry f rm fb x y r fuel (2 * w))

/-- The exponent of the format's unit, as a number of fraction bits. -/
def FFmt.fracBits (f : FFmt) : Nat := (-f.qmin).toNat

/-- A component of `mvexp`, rounded once from its exact value. -/
def FFmt.expComp (f : FFmt) (rm : Rm) (a : Column) (r : Nat) : FRes :=
  let xs := (List.range 6).map fun i => a.at_ (5 + i)
  if xs.any fun x => x.isNan || x.isInf then f.giveNan true
  else
    let n := xs.map fun x => match x with
      | .fin s m e => finInt s m e f.qmin
      | .nan _ | .inf _ => 0
    let x := n.take 3
    let y := n.drop 3
    if x.all (· = 0) then
      if r = 0 then f.roundComp rm (.fin false 1 0)
      else if 8 ≤ r ∧ r ≤ 10 then f.roundComp rm (ofInt (y.getD (r - 8) 0) f.qmin false)
      else (0, 0#8)
    else expTry f rm f.fracBits x y r 256 192

/-! ## One instruction (07 R164 to R167) -/

/-- Row r of a column of the result, before projection. -/
def mvComp (op : MvOp) (f : FFmt) (rm : Rm) (a b : Column) (r : Nat) : FRes :=
  match op with
  | .exp => f.expComp rm a r
  | .gp | .wd | .jn | .lc | .sw | .rev | .inv | .conj | .dl | .nm => f.roundComp rm (exactSum ((mvTerms op r).map (termValue a b)))

/-- A column of a register. -/
def Vec.column (v : Vec) (f : FFmt) (a : Reg) (e : Nat) : Column := (List.range 16).map fun r => f.decode (v.elem f.width a r e)

/-- The sweep's end. -/
inductive MvSwept
  | done (v : Vec)
  | trap (elem : Nat) (cause : Nat) (info : Word) (v : Vec)

/-- What one column gives: the kept components' codes, their flags, and the grades that escape. -/
def mvColumn (op : MvOp) (f : FFmt) (rm : Rm) (i k : BitVec 5) (a b : Column) : List Nat × BitVec 8 × BitVec 5 :=
  (List.range 16).foldl (fun (p : List Nat × BitVec 8 × BitVec 5) r =>
    let g := gradeOfRow r
    if !i.getLsbD g then (p.1 ++ [0], p.2.1, p.2.2)
    else
      let (x, fl) := mvComp op f rm a b r
      if k.getLsbD g then (p.1 ++ [x], p.2.1 ||| fl, p.2.2)
      else if (f.decode x).isZero then (p.1 ++ [0], p.2.1, p.2.2)
      else (p.1 ++ [0], p.2.1, p.2.2 ||| BitVec.ofNat 5 (2 ^ g))) ([], 0#8, 0#5)

/-- The columns of a list of elements; `live` is the mask that the destination has while it is written. -/
def mvSweep (op : MvOp) (f : FFmt) (rm : Rm) (pg : PReg) (cap : Capture) (i k live : BitVec 5) (d a b : Reg) :
    List Nat → Vec → MvSwept
  | [], v => .done v
  | e :: t, v =>
    if v.active cap pg false e then
      let (xs, fl, esc) := mvColumn op f rm i k (v.column f a e) (v.column f b e)
      if trapping cap.fctl fl then .trap e Cause.fp (fpInfo fl) v
      else if esc ≠ 0#5 ∧ gxt cap.fctl then .trap e Cause.gradeEscape (BitVec.ofNat 64 (fl.toNat % 32 * 32 + esc.toNat)) v
      else
        let v' := (xs.zipIdx).foldl (fun v (x, r) => if live.getLsbD (gradeOfRow r) then v.putElem f.width d r e x else v) v
        let fl := if esc = 0#5 then fl else fl ||| Flag.gx
        mvSweep op f rm pg cap i k live d a b t { v' with lfstat := v'.lfstat ||| fl }
    else mvSweep op f rm pg cap i k live d a b t v

/-- VLMAX elements of a shape are all active. -/
def Vec.allActive (v : Vec) (cap : Capture) (pg : PReg) (narrow : Bool) : Bool :=
  (List.range (vtMax cap.vtype)).all fun e => v.active cap pg narrow e

/-- Add grades to a register's mask, with the newly present rows zeroed (07 R162). -/
def Vec.addGrades (v : Vec) (d : Reg) (k : BitVec 5) : Vec :=
  let old := v.mask d.toNat
  ((List.range 5).foldl (fun v g => if k.getLsbD g && !old.getLsbD g then v.zeroGrade d.toNat g else v) v).setMask d.toNat (old ||| k)

/-- The result mask of an operation, inferred from the masks of its operands (07 R163). -/
def Vec.infers (v : Vec) (op : MvOp) (a b : Reg) : BitVec 5 := inferred op (v.mask a.toNat) (v.mask b.toNat)

/-- A multivector operation on the registers, from its start, with the result mask it has inferred (07 R163 to R167). -/
def mvRun (op : MvOp) (t : Ty) (rm : Rm) (kk : Option (BitVec 5)) (d a b : Reg) (pg : PReg) (cap : Capture) (st : VStart) (i : BitVec 5)
    (v : Vec) : MvSwept :=
  if cap.vl = 0 then .done v
  else
    let k := kk.getD i
    let open_ := v.addGrades d k
    match mvSweep op (ffmt t) (resolveRm rm cap.fctl) pg cap i k (open_.mask d.toNat) d a b
        ((List.range cap.vl).filter fun e => decide (st.elem ≤ e) && st.reaches (0, e)) open_ with
    | .done w =>
      match st.stop with
      | none => .done (if v.allActive cap pg false then w.setMask d.toNat k else w)
      | some q => .done (if q.2 = 0 then v else w)
    | .trap e cause info w => .trap e cause info (if e = 0 then v else w)

end Sys2Proof.Machine
end

