-- ==== Sys2Proof/Machine/VMem.lean ====
section
/-! DEFINITION. The vector memory entries (16 R337 to R343): which elements they access, the run-ahead translation (01 R35 to R37),
and how their elements perform, fault and are recorded (04 R104, R105, R116, R117, 02 R62, R63, 11 R248). The entry runs with the
context's SPZ at the value it captured. -/

namespace Sys2Proof.Machine

/-! ## Elements -/

/-- One element of a memory entry: its place in the registers, its number, its address and bytes, the nibble of .fp4, and the
register of each field. -/
structure VEl where
  row : Nat
  elem : Nat
  num : Nat
  addr : Word
  len : Nat
  hi : Option Bool
  regs : List Reg
  deriving DecidableEq, Repr

/-- An element of a width at a distance from a base, in nibbles for .fp4. DESIGN CHOICE: the address is the sum modulo 2^64 in the scratchpad
too, before its bound is checked (16 R334 says so of the base alone, and 01 R11 that nothing wraps; notes/assumptions 83). -/
def elAt (w : Nat) (base : Word) (row elem num off : Nat) (regs : List Reg) : VEl :=
  if w = 4 then
    { row := row, elem := elem, num := num, addr := base + BitVec.ofNat 64 (off / 2), len := 1, hi := some (decide (off % 2 = 1)),
      regs := regs }
  else
    { row := row, elem := elem, num := num, addr := base + BitVec.ofNat 64 (off * (w / 8)), len := regs.length * (w / 8), hi := none,
      regs := regs }

/-- The rows that a mask of grades names, in row order. -/
def rowsOf (k : BitVec 5) : List Nat := (List.range 16).filter fun r => k.getLsbD (gradeOfRow r)

/-- Elements (ρ, e) of rows laid out after each other at a stride of S bytes, every element or the active ones. -/
def frameEls (w : Nat) (base : Word) (stride vl : Nat) (rows : List Nat) (d : Reg) (act : Nat → Bool) (st : VStart) : List VEl :=
  (rows.zipIdx).flatMap fun (r, j) => (List.range vl).filterMap fun e =>
    if act e && (decide (st.row < r) || (decide (st.row = r) && decide (st.elem ≤ e))) then
      some (elAt w (base + BitVec.ofNat 64 (j * stride)) r e (r * vl + e) e [d])
    else none

/-- The elements that an entry performs, in element order (16 R337, R340 to R343). -/
def Vec.elements (v : Vec) (op : VOp) (pg : PReg) (cap : Capture) (st : VStart) : List VEl :=
  let act (t : Ty) (e : Nat) : Bool :=
    v.active cap pg (decide (t = .fp4)) e && (st.mask.map fun m => m.getLsbD e).getD true
  let cover (t : Ty) (rows : Nat) (f : Nat → Nat → Nat → VEl) : List VEl :=
    ((positions rows cap.vl st.row st.elem).filter fun p => act t p.2).map fun p => f p.1 p.2 (p.1 * cap.vl + p.2)
  let shaped (sh : VShape) (t : Ty) (d : Reg) (base : Word) : List VEl :=
    match sh with
    | .unit => cover t cap.rc fun r e k => elAt t.width base r e k k [d]
    | .stride b => cover t cap.rc fun r e k => elAt t.width (base + BitVec.ofNat 64 k * b) r e k 0 [d]
    | .seg nf => cover t cap.rc fun r e k => elAt t.width base r e k (k * nf) ((List.range nf).map fun f => d + BitVec.ofNat 5 f)
    | .index b => cover t cap.rc fun r e k => elAt t.width base r e k (v.elem t.width b r e) [d]
  let st0 : VStart := { st with elem := 0 }
  match op with
  | .load sh t d _ base _ _ _ => shaped sh t d base
  | .store sh t d _ base _ _ => shaped sh t d base
  | .sca t _ d _ base b _ _ => shaped (.index b) t d base
  | .amo _ t _ d _ base b _ _ => shaped (.index b) t d base
  | .mvLoad t d _ base _ _ q => frameEls t.width base (rowBytes cap.vl t.width) cap.vl (rowsOf (q.getD 31#5)) d (act t) st0
  | .mvStore t d _ base _ _ q => frameEls t.width base (rowBytes cap.vl t.width) cap.vl (rowsOf (q.getD 31#5)) d (act t) st0
  | .spill d _ base =>
    let w := if vtNarrow cap.vtype then 4 else vtEw cap.vtype
    frameEls w (base + 8#64) (rowBytes cap.vl w) cap.vl ((rowsOf (v.mask d.toNat)).filter (· < cap.rc)) d (fun _ => true) st
  | _ => []

/-! ## Run-ahead translation (01 R35 to R37) -/

/-- Where an element lies. -/
inductive Spot
  | mem (ps : List (Nat × Nat)) | spad (places : List Nat)
  deriving DecidableEq, Repr

/-- What the run-ahead pipeline finds for an element: `later` is an element of a segment after the one that faults. -/
inductive ElX
  | ok (at_ : Spot) | fault (va : Word) (reason level : Nat) | hold | later
  deriving DecidableEq, Repr

/-- An element with its segment and what was found. -/
structure Found where
  el : VEl
  seg : Nat
  x : ElX
  deriving DecidableEq, Repr

/-- The first page of 4 KiB of the page of any size that holds an address: as its translation or a walk gives it, a page of 4 KiB where
the walk faults. -/
def State.pageOf (s : State) (va : Word) : Nat :=
  let v := va.toNat
  match s.cached s.ctx.core s.ctx.asid v with
  | some t => t.vpn
  | none =>
    match s.walk s.ctx.asid v with
    | .fault _ _ => v / 4096
    | .leaf e _ level => if pteCONT e then v / 4096 / 16 * 16 else v / 4096 / levelPages level * levelPages level

/-- The pages of an element. -/
def VEl.pages (e : VEl) (page : Word → Nat) : List Nat := [page e.addr, page (e.addr + BitVec.ofNat 64 (e.len - 1))].dedup

/-- The segment number of each element: a segment touches at most 256 distinct pages (01 R37). -/
def segments (page : Word → Nat) : Nat → List Nat → List VEl → List (Nat × VEl)
  | _, _, [] => []
  | seg, pages, e :: t =>
    let own := e.pages page
    let more := own.filter fun p => !pages.contains p
    if 256 < pages.length + more.length then (seg + 1, e) :: segments page (seg + 1) own t
    else (seg, e) :: segments page seg (pages ++ more) t

/-- The segments of an instruction. The scratchpad has none, and what lies in 256 pages of 4 KiB needs only one. -/
def State.segmented (s : State) (sp : Bool) (els : List VEl) : List (Nat × VEl) :=
  if sp || decide ((els.flatMap fun e => e.pages fun a => a.toNat / 4096).dedup.length ≤ 256) then els.map fun e => (0, e)
  else segments s.pageOf 0 [] els

/-- Translate one element, or check its bound in the scratchpad. -/
def State.findEl (s : State) (sp : Bool) (r : XlReq) (e : VEl) : ElX × State :=
  if sp then
    if Config.spadBytes < e.addr.toNat + e.len then (.fault (BitVec.ofNat 64 (max e.addr.toNat Config.spadBytes)) 9 7, s)
    else (.ok (.spad (spadPlaces s.ctx.sr.spz e.addr.toNat e.len)), s)
  else
    match s.xlAll { r with ahead := true } e.addr e.len with
    | (.ok ps, t) => (.ok (.mem ps), t)
    | (.fault va reason level, t) => (.fault va reason level, t)
    | (.hold _ _ _, t) => (.hold, t)

/-- Translate segment by segment, up to the first that holds a fault. -/
def State.findAll (s : State) (sp : Bool) (r : XlReq) : Option Nat → List (Nat × VEl) → List Found × State
  | _, [] => ([], s)
  | bad, (seg, e) :: t =>
    if (bad.map fun b => decide (b < seg)).getD false then
      let (l, s) := s.findAll sp r bad t
      ({ el := e, seg := seg, x := .later } :: l, s)
    else
      let (x, s) := s.findEl sp r e
      let bad := match x with
        | .fault _ _ _ => some seg
        | .ok _ | .hold | .later => bad
      let (l, s) := s.findAll sp r bad t
      ({ el := e, seg := seg, x := x } :: l, s)

/-! ## What an entry comes to -/

/-- An entry completes, traps at an element with FMR where it has one, waits with the translations that its pipeline has made (01 R22),
or rewinds the strip. -/
inductive VRes
  | done (s : State)
  | trap (row elem : Nat) (mask : Option Pred) (t : Trap) (s : State)
  | stall (s : State)
  | rewind (s : State)

/-- An element found, translated. -/
def Found.spot (f : Found) : Option Spot :=
  match f.x with
  | .ok p => some p
  | .fault _ _ _ | .hold | .later => none
def Found.faults (f : Found) : Bool :=
  match f.x with
  | .fault _ _ _ => true
  | .ok _ | .hold | .later => false
def Found.parked (f : Found) : Bool :=
  match f.x with
  | .hold => true
  | .ok _ | .fault _ _ _ | .later => false

/-- TINFO of a machine check at a spot that is poisoned where no held store covers it. -/
def State.spotBad (s : State) : Spot → Option Word
  | .mem ps => (s.badPiece ps).map poisonInfo
  | .spad places => if s.badPlaces places then some (checkInfo 0 3) else none
def State.foundBad (s : State) (f : Found) : Option Word := f.spot.bind s.spotBad

/-- TINFO of a machine check of an element whose old value comes from a poisoned sector of another package, under the number of its
entry's free values (10 R234). -/
def State.foundRemote (s : State) (rem : Option Nat) (f : Found) : Option Word :=
  match f.spot, rem with
  | some (.mem ps), some n => if Config.remoteBad n f.el.elem then (ps.find? fun p => s.remoteUsable p.1).map fun p => remoteInfo p.1 else none
  | _, _ => none

/-- TINFO of a machine check of a store that no live port can carry (11 R257). -/
def State.foundDead (s : State) (f : Found) : Option Word :=
  match f.spot with
  | some (.mem ps) => s.linkDead s.ctx.core ps
  | some (.spad _) | none => none

/-- The bytes of a spot, and a store to it. -/
def State.readSpot (s : State) : Spot → List Byte
  | .mem ps => s.ctxBytes ps
  | .spad places => places.map s.spadByte
def State.storeSpot (s : State) (sync : List Sync) (bs : List Byte) : Spot → State
  | .mem ps => s.emitAll true sync (pieceStores ps bs)
  | .spad places => s.emitAll true sync (spadStores places bs)
/-- The vector stream has read a spot. -/
def State.markSpot (s : State) (ar : AcqRel) : Spot → State
  | .mem ps => s.readPieces ar ps
  | .spad places => s.readPlaces ar places

/-- The trap of a translation fault that the pipeline found (01 R26, R36, R37). -/
def State.foundTrap (s : State) (sp : Bool) (k : Acc) (f : Found) : Trap :=
  match f.x with
  | .fault va reason level =>
    { cause := xlCause k, addr := va,
      info := xlInfo s.ctx.asid (if sp then 1 else 0) (!sp && decide (0 < f.seg)) true level reason }
  | .ok _ | .hold | .later => { cause := xlCause k, addr := 0#64, info := 0#64 }

/-- The position of an element comes before another's. -/
def VEl.before (a b : VEl) : Bool := decide (a.row < b.row) || (decide (a.row = b.row) && decide (a.elem < b.elem))

/-- The mask of elements. -/
def maskOf (l : List Found) : Pred := BitVec.ofNat 512 (l.map fun f => 2 ^ f.el.elem).sum

/-- How a class of entries meets a fault (11 R246): precise at element, ordered or not; fault trim, of an access whose first active
element is among those it takes now, or not; the fault mask. -/
inductive VClass
  | elem (ord : Bool) | trim (whole : Bool) | mask
  deriving DecidableEq, Repr

/-- Perform elements in order; `reads` says whether they consume what they read, `rem` numbers what another package answers. -/
def State.performEls (s : State) (cls : VClass) (sp reads : Bool) (k : Acc) (fs : List Found)
    (go : List (VEl × Spot) → State → State) (rem : Option Nat := none) : VRes :=
  if fs.any (·.parked) then .stall s
  else
    let read (f : Found) : Option Word := if reads then (s.foundBad f).or (s.foundRemote rem f) else none
    let info (f : Found) : Option Word := (read f).or (s.foundDead f)
    let bad (f : Found) : Bool := (info f).isSome
    let fault := fs.find? (·.faults)
    let poison := fs.find? bad
    let check (p : Found) : Trap := { cause := Cause.machineCheck, addr := p.el.addr, info := (info p).getD 0#64 }
    let some_ (p : Found → Bool) : List (VEl × Spot) := fs.filterMap fun f =>
      if p f && !bad f then f.spot.map fun x => (f.el, x) else none
    /- consumption comes first in a revocable strip (11 R247 rank 1) where the element would have performed -/
    let early := match poison, fault with
      | some p, some f => if decide (cls = VClass.mask) || p.el.before f.el then some p else none
      | some p, none => some p
      | none, _ => none
    let revocable := (s.ctx.strip.map (·.revocable)).getD false
    match early with
    | some p =>
      if revocable && (read p).isSome then
        match s.consume true p.el.addr ((read p).getD 0#64) with
        | .rewind t => .rewind t
        | .trap t _ => stop s cls sp k fs go bad some_ none (some p) t
        | .ok _ | .stall _ _ => .stall s
      else stop s cls sp k fs go bad some_ fault (some p) (check p)
    | none => stop s cls sp k fs go bad some_ fault none { cause := Cause.machineCheck, addr := 0#64, info := 0#64 }
where
  /-- The entry with its lowest translation fault and its lowest poisoned element, if any, and that element's trap. -/
  stop (s : State) (cls : VClass) (sp : Bool) (k : Acc) (fs : List Found) (go : List (VEl × Spot) → State → State)
      (bad : Found → Bool) (some_ : (Found → Bool) → List (VEl × Spot)) (fault poison : Option Found) (check : Trap) : VRes :=
    let at_ (f : Found) (t : Trap) : VRes :=
      let first := match poison with
        | some p => if p.el.before f.el then p.el else f.el
        | none => f.el
      match cls with
      | .mask => .trap first.row first.elem (some (maskOf (fs.filter fun g => g.spot.isNone || bad g))) t (go (some_ fun _ => true) s)
      | .trim _ => .trap first.row first.elem none t (go (some_ fun g => g.el.before first) s)
      | .elem ord =>
        let (n, s) := s.draw
        .trap first.row first.elem none t
          (go (some_ fun g => g.el.before first || (!ord && decide (g.el ≠ first) && Config.mayPerform n g.el.num)) s)
    match fault, poison with
    | none, none => .done (go (some_ fun _ => true) s)
    | none, some p => at_ p check
    | some f, _ =>
      let t := s.foundTrap sp k f
      match cls, poison with
      | .trim _, some p => at_ p check
      | .trim whole, none => if whole && decide (fs.head? = some f) then at_ f t else .done (go (some_ fun g => g.el.before f.el) s)
      | .elem _, _ | .mask, _ => at_ f t

/-! ## Loads and stores -/

/-- Write what an element read into its registers. -/
def Vec.loadEl (v : Vec) (w : Nat) (e : VEl) (bs : List Byte) : Vec :=
  match e.hi with
  | some h => (e.regs.foldl fun v d => v.setElem 4 d e.row e.elem (bits (ofBytes bs) (if h then 4 else 0) 4)) v
  | none => ((e.regs.zipIdx).foldl fun v (d, f) => v.setElem w d e.row e.elem (ofBytes ((bs.drop (f * (w / 8))).take (w / 8)))) v

/-- The bytes that an element stores; `old` is the byte that holds a nibble. -/
def Vec.storeEl (v : Vec) (w : Nat) (e : VEl) (old : List Byte) : List Byte :=
  match e.hi with
  | some h => toBytes 1 (setBits (ofBytes old) (if h then 4 else 0) 4 ((e.regs.map fun d => v.elem 4 d e.row e.elem).getD 0 0))
  | none => e.regs.flatMap fun d => toBytes (w / 8) (v.elem w d e.row e.elem)

/-- Loads of elements in order. -/
def loadEls (w : Nat) (ar : AcqRel) (l : List (VEl × Spot)) (s : State) : State :=
  l.foldl (fun s (e, p) => (s.setCtx { s.ctx with v := s.ctx.v.loadEl w e (s.readSpot p) }).markSpot ar p) s

/-- Under `.ord` an element performs after those before it have performed at the instruction's scope (04 R104): at system scope, those on
their way to another package have arrived. -/
def State.ordered (s : State) (ord : Bool) (ar : AcqRel) : State :=
  match if ord then ar.relScope.or ar.acqScope else none with
  | some sc =>
    let s := s.raise (fun w => decide (w.own = s.party)) sc
    if sc = .sys then s.arrive s.party else s
  | none => s

/-- Stores of elements in order; a release comes first, and every element carries it (04 R107). -/
def storeEls (w : Nat) (ar : AcqRel) (ord : Bool) (l : List (VEl × Spot)) (s : State) : State :=
  let (sync, s) := s.releaseFor ar
  l.foldl (fun s (e, p) => (s.ordered ord ar).storeSpot sync (s.ctx.v.storeEl w e (s.readSpot p)) p) s

/-! ## Scatter-add and vector atomics (02 R62, R63, 16 R340, R341) -/

/-- One update of memory at an element, under `.ord` after the updates before it: the value to write from the old one, with its flags, and what follows the old value. -/
def State.update (s : State) (sp : Bool) (e : VEl) (ar : AcqRel) (ord : Bool) (op : Nat → FRes) (f : Nat → State → State) : State :=
  match (s.ordered ord ar).atomicAt true sp e.addr e.len ar
      (fun old s => let (x, fl) := op old; .ok (some x, s.setCtx { s.ctx with v := { s.ctx.v with lfstat := s.ctx.v.lfstat ||| fl } }))
      (fun old s => .ok (f old s)) with
  | .ok t => t
  | .trap _ _ | .stall _ _ | .rewind _ => s

/-- `vsca`: equal addresses combine in element order, then each location is updated once. -/
def scaEls (sp : Bool) (t : Ty) (rm : Rm) (d : Reg) (ar : AcqRel) (ord : Bool) (l : List (VEl × Spot)) (s : State) : State :=
  let firsts := l.foldl (fun (acc : List VEl) x => if acc.any fun y => y.addr = x.1.addr then acc else acc ++ [x.1]) []
  firsts.foldl (fun s e =>
    let vals := ((l.filter fun x => x.1.addr = e.addr).map fun x => s.ctx.v.elem t.width d 0 x.1.elem)
    match vals with
    | [] => s
    | x :: rest =>
      let sum := rest.foldl (fun (p : FRes) y => let (r, fl) := amoValue .add t rm p.1 y; (r, p.2 ||| fl)) ((x, 0#8) : FRes)
      s.update sp e ar ord (fun old => let (r, fl) := amoValue .add t rm old sum.1; (r, sum.2 ||| fl)) fun _ s => s) s

/-- `vamo`: one atomic per element, whose old value goes to the register. -/
def amoEls (sp : Bool) (op : AmoOp) (t : Ty) (rm : Rm) (d : Reg) (ar : AcqRel) (ord : Bool) (l : List (VEl × Spot)) (s : State) : State :=
  l.foldl (fun s x =>
    let b := s.ctx.v.elem t.width d 0 x.1.elem
    s.update sp x.1 ar ord (fun old => amoValue op t rm old b) fun old s =>
      s.setCtx { s.ctx with v := s.ctx.v.setElem t.width d 0 x.1.elem old }) s

/-- The ALIGN trap of `vsca` and `vamo` (16 R334). -/
def misaligned (els : List VEl) (n : Nat) : Option (VEl × Word) :=
  let bad := els.filter fun e => decide (e.addr.toNat % n ≠ 0)
  bad.head?.map fun e => (e, BitVec.ofNat 64 (bad.foldl (fun m x => min m x.addr.toNat) e.addr.toNat))

/-- An entry of the fault-mask class that updates memory; `old` says whether it keeps the old values. It waits for a request of its hart
in flight to bytes that it updates (04 R103). -/
def State.updateEls (s : State) (sp old : Bool) (els : List VEl) (n : Nat) (go : List (VEl × Spot) → State → State) : VRes :=
  match misaligned els n with
  | some (e, a) =>
    .trap e.row e.elem (some (BitVec.ofNat 512 (els.map fun x => 2 ^ x.elem).sum)) (alignTrap a n) s
  | none =>
    let (fs, t) := s.findAll sp (s.req .rmw .gather true) none (s.segmented sp els)
    let me : Requester := { core := t.ctx.core, bank := t.ctx.bank, hart := t.hart, cmd := none }
    let waits (f : Found) : Bool := match f.spot with
      | some (.mem ps) => t.irrevocable.inFlight me ps
      | some (.spad _) | none => false
    if fs.any waits then .stall t.irrevocable
    else
      let (k, t) := t.draw
      t.performEls .mask sp true .rmw fs (fun l s => go l s.irrevocable) (if old then some k else none)

/-! ## Spill and fill (07 R168, R169, 16 R343) -/

/-- The header that `vspill` writes. -/
def spillHeader (v : Vec) (cap : Capture) (d : Reg) : Nat :=
  cap.rc * 2 ^ 32 + cap.vl * 2 ^ 16 + (if vtNarrow cap.vtype then 2 ^ 10 else 0) + bits cap.vtype.toNat 0 2 * 2 ^ 8 + (v.mask d.toNat).toNat

/-- The element that stands for the header. -/
def headerEl (base : Word) (d : Reg) : VEl := { row := 0, elem := 0, num := 0, addr := base, len := 8, hi := none, regs := [d] }

/-- `vspill`: the header, which a restart writes again, then the rows. -/
def State.runSpill (s : State) (d : Reg) (sp : Bool) (base : Word) (cap : Capture) (els : List VEl) : VRes :=
  let w := if vtNarrow cap.vtype then 4 else vtEw cap.vtype
  let hdr := headerEl base d
  let all := hdr :: els
  let (fs, t) := s.findAll sp (s.req .write .plain) none (s.segmented sp all)
  t.performEls (.elem false) sp false .write fs fun l s =>
    l.foldl (fun s (e, p) =>
      s.storeSpot [] (if e = hdr then toBytes 8 (spillHeader s.ctx.v cap d) else s.ctx.v.storeEl w e (s.readSpot p)) p) s

/-- The fields of a header: GM, EW code, NIB, VL, RC. -/
def fillOk (h : Nat) : Bool :=
  let ew := bits h 8 2
  let nib := h.testBit 10
  let rc := bits h 32 5
  let vl := bits h 16 11
  decide (bits h 5 3 = 0) && decide (bits h 11 5 = 0) && decide (bits h 27 5 = 0) && decide (bits h 37 27 = 0) &&
  decide (1 ≤ rc) && decide (rc ≤ 16) && !(nib && decide (ew ≠ 0)) && decide (vl ≤ if nib then 1024 else 512 / 2 ^ ew)

/-- After a fill: the mask of the header, and free values in what the frame did not hold (07 R169, notes/assumptions 10). -/
def Vec.fillRest (v : Vec) (d : Reg) (k : BitVec 5) (rc n free : Nat) : Vec :=
  let v := (v.addGrades d k).setMask d.toNat k
  (rowsOf k).foldl (fun v r =>
    let x := Config.fillRow free r
    v.setRaw d.toNat r (if rc ≤ r then x
      else BitVec.ofNat 4096 (setBits x.toNat 0 n (v.raw d.toNat r).toNat))) v

/-- What the header of a `vfill` comes to: the outcome of the entry, or the header. -/
inductive Header
  | stop (r : VRes) | ok (h : Nat) (s : State)

/-- The width of a frame's elements by its header, and the elements that a `vfill` takes from a start. -/
def fillWidth (h : Nat) : Nat := if h.testBit 10 then 4 else 8 * 2 ^ bits h 8 2
def fillEls (h : Nat) (d : Reg) (base : Word) (st : VStart) : List VEl :=
  let w := fillWidth h
  let vl := bits h 16 11
  (frameEls w (base + 8#64) (rowBytes vl w) vl ((rowsOf (BitVec.ofNat 5 h)).filter (· < bits h 32 5)) d (fun _ => true) st).filter
    fun x => st.reaches (x.row, x.elem)

/-- Read the header. -/
def State.fillHeader (s : State) (d : Reg) (m : Addr) (base : Word) : Header :=
  let sp := m.sp
  let r := s.req .read .plain
  let hdr := headerEl base d
  match s.findEl sp r hdr with
  | (.hold, t) | (.later, t) => .stop (.stall t)
  | (.fault va reason level, t) =>
    let f : Found := { el := hdr, seg := 0, x := .fault va reason level }
    .stop (.trap 0 0 none (t.foundTrap sp .read f) t)
  | (.ok spot, t) =>
    match t.spotBad spot with
    | some info =>
      match t.consume true base info with
      | .rewind u => .stop (.rewind u)
      | .trap x u => .stop (.trap 0 0 none x u)
      | .ok _ | .stall _ _ => .stop (.stall t)
    | none =>
      let h := ofBytes (t.readSpot spot)
      if !fillOk h then .stop (.trap 0 0 none { cause := Cause.illegal, addr := base, info := (Instr.vfill d m).encode } t)
      else .ok h (t.markSpot .rlx spot)

/-- `vfill`. -/
def State.runFill (s : State) (d : Reg) (m : Addr) (base : Word) (st : VStart) : VRes :=
  match s.fillHeader d m base with
  | .stop r => r
  | .ok h t =>
    let (fs, t) := t.findAll m.sp (s.req .read .plain) none (t.segmented m.sp (fillEls h d base st))
    match t.performEls (.elem false) m.sp true .read fs (loadEls (fillWidth h) .rlx) with
    | .done u =>
      if st.stop.isSome then .done u
      else
        let (n, u) := u.draw
        .done (u.setCtx { u.ctx with
          v := u.ctx.v.fillRest d (BitVec.ofNat 5 h) (bits h 32 5) (bits h 16 11 * fillWidth h) n })
    | x => x

/-! ## One memory entry -/

/-- How an address shape touches a page (01 R41). -/
def VShape.touch : VShape → Touch
  | .unit => .stream
  | .stride _ | .seg _ => .direct
  | .index _ => .gather
def VShape.cls (sh : VShape) (ord : Bool) : VClass :=
  match sh with
  | .index _ => .mask
  | .unit | .stride _ | .seg _ => .elem ord

/-- FTR and the governing predicate after a `.ft` load that did not trap (11 R248). -/
def State.trimmed (s : State) (pg : PReg) (cap : Capture) (narrow : Bool) (fs : List Found) : State :=
  let c := s.ctx
  match fs.find? (·.faults) with
  | none => s.setCtx { c with sr := { c.sr with ftr := BitVec.ofNat 64 cap.vl } }
  | some f =>
    let k := f.el.elem
    let keep := BitVec.ofNat 512 ((c.v.pred pg).toNat % 2 ^ govBit narrow k)
    s.setCtx { c with sr := { c.sr with ftr := BitVec.ofNat 64 (2 ^ 63 + k) }, v := c.v.setPred pg keep }

/-- A memory entry from a start (16 R337 to R343). An `mvld` with VL = 0 leaves GM (07 R164), and a `.ft` load FTR (08 R178). DESIGN CHOICE: one that traps once an
element has performed has added all of its grades (notes/assumptions 61). -/
def State.runMem (s : State) (op : VOp) (pg : PReg) (cap : Capture) (st : VStart) : VRes :=
  let els := (s.ctx.v.elements op pg cap st).filter fun x => st.reaches (x.row, x.elem)
  let segs (sp : Bool) := s.segmented sp els
  match op with
  | .load sh t _ sp _ ar ord ft =>
    let start : VStart := { row := 0, elem := 0, mask := none, stop := none }
    let cls := if ft then VClass.trim (decide (els.head? = (s.ctx.v.elements op pg cap start).head?)) else sh.cls ord
    let (fs, u) := s.findAll sp (s.req .read sh.touch) none (segs sp)
    match u.performEls cls sp true .read fs (loadEls t.width ar) with
    | .done u => .done (if ft && decide (cap.vl ≠ 0) then u.trimmed pg cap (decide (t = .fp4)) fs else u)
    | x => x
  | .store sh t _ sp _ ar ord =>
    let (fs, u) := s.findAll sp (s.req .write sh.touch true) none (segs sp)
    u.performEls (sh.cls ord) sp false .write fs (storeEls t.width ar ord)
  | .sca t rm d sp _ _ ar ord => s.updateEls sp false els (tyBytes t) (scaEls sp t (resolveRm rm cap.fctl) d ar ord)
  | .amo op t rm d sp _ _ ar ord => s.updateEls sp true els (tyBytes t) (amoEls sp op t (resolveRm rm cap.fctl) d ar ord)
  | .mvLoad t d sp _ ar ord q =>
    if cap.vl = 0 then .done s else
    let (fs, u) := s.findAll sp (s.req .read .stream) none (segs sp)
    let k := q.getD 31#5
    match u.performEls (.elem ord) sp true .read fs (fun l s =>
        if l.isEmpty then s else loadEls t.width ar l (s.setCtx { s.ctx with v := s.ctx.v.addGrades d k })) with
    | .done u =>
      let v := u.ctx.v
      let v := v.addGrades d k
      .done (if st.stop.isSome then u else u.setCtx { u.ctx with v := if v.allActive cap pg false then v.setMask d.toNat k else v })
    | x => x
  | .mvStore t _ sp _ ar ord _ =>
    let (fs, u) := s.findAll sp (s.req .write .stream true) none (segs sp)
    u.performEls (.elem ord) sp false .write fs (storeEls t.width ar ord)
  | .spill d sp base => s.runSpill d sp base cap els
  | .fill d m base => s.runFill d m base st
  | _ => .done s

end Sys2Proof.Machine
end

