-- ==== Sys2Proof/Machine/VExec.lean ====
section
/-! DEFINITION. The vector stream: the oldest entry of the vector command queue executes, completes or traps (08 R179 to R181,
11 R239, R246, R249). The entry executes whole at one step. -/

namespace Sys2Proof.Machine

/-! ## When the oldest entry may execute -/

/-- Where an entry starts (11 R241). -/
def VEntry.start (e : VEntry) : VStart :=
  match e.resume with
  | .fresh => { row := 0, elem := 0, mask := none, stop := none }
  | .elem r k => { row := r, elem := k, mask := none, stop := none }
  | .mask m => { row := 0, elem := 0, mask := some m, stop := none }

/-- The width of the elements that an entry writes into vector registers at its positions. -/
def VOp.outWidth : VOp → Nat
  | .int _ t _ _ _ | .sel t _ _ _ | .bcastElem t _ _ _ | .bcastVal t _ _ | .idx t _ _ | .perm t _ _ _ | .slide t _ _ _ | .scan _ t _ _
  | .flt _ t _ _ _ _ _ _ | .mv _ t _ _ _ _ _ | .rowExt t _ _ _ | .rowIns t _ _ _ | .load _ t _ _ _ _ _ _ | .amo _ t _ _ _ _ _ _ _
  | .mvLoad t _ _ _ _ _ _ => t.width
  | .fcvt t _ _ _ _ _ | .qnt t _ _ _ _ _ _ _ | .dqn t _ _ _ _ _ _ => t.width
  | .bpx _ _ _ => 8
  | .red _ _ _ _ | .fred _ _ _ _ _ | .scl _ _ _ _ | .gmRd _ _ | .gmWr _ _ | .pcnt _ _ | .pfirst _ _ | .fill _ _ _ | .icmp _ _ _ _ _
  | .fcmp _ _ _ _ _ | .plim _ _ | .plog _ _ _ _ | .store _ _ _ _ _ _ _ | .sca _ _ _ _ _ _ _ _ | .mvStore _ _ _ _ _ _ _ | .spill _ _ _
  | .lanes _ _ => 0

/-- The governing bits of an entry's elements are those of nibbles. -/
def VOp.nibbles : VOp → Bool
  | .load _ t _ _ _ _ _ _ => decide (t = .fp4)
  | .qnt n _ _ _ _ _ _ _ | .dqn _ n _ _ _ _ _ => decide (n = .fp4)
  | _ => false

/-- An entry writes a half of row 0 of a register, and so registers of the virtual processors whose elements lie in it (08 R186). -/
def Vec.writesHalf (v : Vec) (e : VEntry) (half : Nat) : Bool :=
  let st := e.start
  let w := e.op.outWidth
  let at_ (k : Nat) : Bool := decide (k * w / 2048 = half)
  let here (k : Nat) : Bool := decide (st.elem ≤ k) && (st.mask.map fun m => m.getLsbD k).getD true && at_ k
  let takes (k : Nat) : Bool := v.active e.cap e.pg e.op.nibbles k
  let els : List Nat := if st.row = 0 then List.range e.cap.vl else []
  match e.op with
  | .gmWr _ _ | .fill _ _ _ => true
  | .gmRd _ _ | .pcnt _ _ | .pfirst _ _ | .red _ _ _ _ | .fred _ _ _ _ _ => decide (half = 0)
  | .scl _ _ _ i => (List.range e.cap.rc).any fun r => (List.range e.cap.vl).any fun k =>
      let p := scalePos e.cap.vtype r k i
      takes k && decide (p.1 = 0) && decide (p.2 * vtEw e.cap.vtype / 2048 = half)
  | .sel _ _ _ _ => els.any here
  | .mvLoad _ _ _ _ _ _ q => (q.getD 31#5).getLsbD 0 && els.any fun k => takes k && at_ k
  | .rowIns _ _ _ r => decide (r = 0) && els.any fun k => takes k && here k
  | op => !op.vw.isEmpty && els.any fun k => takes k && here k

/-- An entry may execute: the matrix entries before it, the pending tokens, the commands that use a predicate it writes, and the
virtual processors whose element groups it would write do not hold it back (08 R180, R181, R186, 04 R103, R107, R114). -/
def Context.entryFree (c : Context) (e : VEntry) : Bool :=
  let regs := e.op.vw ++ e.op.vr
  !c.matHolds e &&
  !(c.cmds.any fun k => decide (k.hart = .exe) && regs.contains k.tok.toNat) &&
  !(c.cmds.any fun k => (k.mask.map fun p => e.pw.contains p.toNat).getD false) &&
  !(c.vps.any fun p => decide (p.st = .running) && c.v.writesHalf e (p.elem * p.ew / 2048))

/-! ## The entry executes -/

/-- The virtual processors of some elements acquire what the execute hart knows, and nothing that earlier ones of the elements knew:
the start is a release at core scope from the hart to them (04 R118). The strip stays revocable, since a rewind runs its `vtsend` again
(10 R224, notes/assumptions 29). -/
def State.sendKeys (s : State) (es : List Nat) : State :=
  let keys := es.map s.ctx.vpKey
  let key := s.ctx.hartKey .exe
  let pass (who : List Nat) : List Nat :=
    let who := who.filter fun k => !keys.contains k
    if who.contains key then keys ++ who else who
  { s with stores := s.stores.map fun w => { w with who := pass w.who },
           remote := s.remote.map fun r => { r with who := pass r.who },
           ctx := { s.ctx with slog := s.ctx.slog.map fun e => { e with who := pass e.who } } }

/-- The virtual processors that `vtsend` starts, with the words of their block (08 R185, 13 R288). -/
def State.startVps (s : State) (p : PReg) (block : Word) (cap : Capture) : State :=
  let es := (List.range cap.vl).filter fun e => (s.ctx.v.pred p).getLsbD e
  let (words, s) := if es.isEmpty then ([], s) else s.readBlock block 64
  let s := s.sendKeys es
  s.setCtx { s.ctx with vps := s.ctx.vps ++ es.map fun e =>
      { elem := e, ew := vtEw cap.vtype, block := block, words := words, pc := block, fctl := cap.fctl, spz := cap.spz,
        strip := s.ctx.strip.isSome, regs := [], held := [], stores := 0, flags := 0#8, st := .running } }

/-- What an entry does, up to a position where it stops, if any, in a state whose SPZ is the one it captured. -/
def State.runEntryTo (s : State) (e : VEntry) (stop : Option (Nat × Nat)) : VRes :=
  let st := { e.start with stop := stop }
  let put (v : Vec) : State := s.setCtx { s.ctx with v := v }
  match e.op with
  | .mv op t rm k d a b =>
    match mvRun op t rm k d a b e.pg e.cap st (e.grades.getD (s.ctx.v.infers op a b)) s.ctx.v with
    | .done v => .done (put v)
    | .trap i cause info v => .trap 0 i none { cause := cause, addr := 0#64, info := info } (put v)
  | .lanes p block => .done (s.startVps p block e.cap)
  | op =>
    if op.isMem then s.runMem op e.pg e.cap st
    else
      match arith op e.pg e.cap st s.ctx.v with
      | .done v => .done (put v)
      | .trap r i fl v => .trap r i none (fpTrap' fl) (put v)
where
  fpTrap' (fl : BitVec 8) : Trap := { cause := Cause.fp, addr := 0#64, info := fpInfo fl }

/-- What an entry does. -/
def State.runEntry (s : State) (e : VEntry) : VRes := s.runEntryTo e none

/-- Set SPZ. -/
def State.withSpz (s : State) (z : Word) : State := s.setCtx { s.ctx with sr := { s.ctx.sr with spz := z } }

/-- An entry as it is saved when it traps, with the result mask that a multivector operation has inferred (07 R167). -/
def State.keepGrades (s : State) (e : VEntry) : VEntry :=
  match e.op with
  | .mv op _ _ _ _ a b => { e with grades := some (e.grades.getD (s.ctx.v.infers op a b)) }
  | _ => e

/-- The oldest entry traps at an element: it and every later entry are saved, and the execute hart takes the trap (11 R239, R240). -/
def State.entryTrap (s : State) (e : VEntry) (row elem : Nat) (mask : Option Pred) (t : Trap) : State :=
  if s.ctx.xh.handler then s.takeTrap .exe t e.pc s.ctx.xh.pc true
  else
  let s := s.interrupt .exe
  let c := s.ctx
  let saved := { e with resume := match mask with
    | some m => Resume.mask m
    | none => .elem row elem } :: c.v.vq.drop 1
  let tqp := BitVec.ofNat 64 (2 ^ 63 + saved.length % 64 * 256 + e.pos)
  let c := { c with
    v := { c.v with vq := [], saved := saved },
    sr := { c.sr with es := esOf row elem, fmr := mask.getD c.sr.fmr, tqp := tqp } }
  (s.setCtx c).takeTrap .exe t e.pc c.xh.pc true

/-- What the oldest entry comes to, made the machine's next state; `s` is the state before. One that waits keeps what its pipeline has set
in the page tables. -/
def State.concludeEntry (s : State) (e : VEntry) (r : VRes) : State :=
  let z := s.ctx.sr.spz
  let back (t : State) : State := { t.withSpz z with hart := s.hart }
  match r with
  | .done t => back (t.setCtx { t.ctx with v := { t.ctx.v with vq := t.ctx.v.vq.drop 1 } })
  | .trap row elem mask t u => back ((u.withSpz z).entryTrap (s.keepGrades e) row elem mask t)
  | .stall t => { back t with free := s.free }
  | .rewind t => back t

/-! ## Shadow lanes (11 R252) -/

/-- The position of the first element that an entry takes in an element group: the half of a row. A reduction writes one element of a
row, and is compared row by row; predicate logic, counts and grade masks are one group (notes/assumptions 46); lane blocks are not
checked. -/
def State.slipAt (s : State) (e : VEntry) (row : Nat) (high : Bool) : Option (Nat × Nat) :=
  let st := e.start
  let header := match e.op with
    | .fill d m base => s.fillHeader d m base
    | _ => .stop (.stall s)
  let per := 2048 / (match header with
    | .ok h _ => fillWidth h
    | .stop _ => if vtNarrow e.cap.vtype then 4 else vtEw e.cap.vtype)
  let lo := if high then per else 0
  let inGroup (p : Nat × Nat) : Bool := decide (p.1 = row) && decide (lo ≤ p.2) && decide (p.2 < lo + per)
  let whole : Option (Nat × Nat) := if row = 0 ∧ high = false then some (st.row, st.elem) else none
  match e.op with
  | .lanes _ _ => none
  | .plim _ _ | .plog _ _ _ _ | .pcnt _ _ | .pfirst _ _ | .gmRd _ _ | .gmWr _ _ => whole
  | .fill d _ base => match header with
    | .ok h _ => ((fillEls h d base st).map fun x => (x.row, x.elem)).find? inGroup
    | .stop _ => none
  | .red _ _ _ _ | .fred _ _ _ _ _ =>
    if st.row ≤ row ∧ row < e.cap.rc ∧ high = false then some (row, 0) else none
  | .mv _ _ _ _ _ _ _ | .rowExt _ _ _ _ | .rowIns _ _ _ _ => (st.positions 1 e.cap.vl).find? inGroup
  | op =>
    if op.isMem then ((s.ctx.v.elements op e.pg e.cap st).map fun x => (x.row, x.elem)).find? inGroup
    else (st.positions e.cap.rc e.cap.vl).find? inGroup

/-- The elements of an indexed access from a position on, which FMR names when the entry traps there. -/
def State.slipMask (s : State) (e : VEntry) (p : Nat × Nat) : Option Pred :=
  let rest : Pred := BitVec.ofNat 512
    (((s.ctx.v.elements e.op e.pg e.cap (e.start)).filter fun x => !before (x.row, x.elem) p).map fun x => 2 ^ x.elem).sum
  match e.op with
  | .load sh _ _ _ _ _ _ _ | .store sh _ _ _ _ _ _ => if sh.cls false = .mask then some rest else none
  | .sca _ _ _ _ _ _ _ _ | .amo _ _ _ _ _ _ _ _ _ => some rest
  | _ => none

/-- The two runs of an element group differ: what stands before the group is done, the group is not written, and the strip rewinds
or the entry traps MACHINE_CHECK at the group. An entry that traps before the group takes that trap. -/
def State.slip (s : State) (e : VEntry) (p : Nat × Nat) : VRes :=
  let full := s.runEntry e
  let early : Bool := match full with
    | .done _ => false
    | .trap r k none _ _ => before (r, k) p
    | .trap _ _ (some _) _ _ | .stall _ | .rewind _ => true
  if early then full
  else
    match s.runEntryTo e (some p) with
    | .done u =>
      match u.consume true 0#64 (checkInfo 0 5) with
      | .rewind t => .rewind t
      | .trap t v => .trap p.1 p.2 (s.slipMask e p) t v
      | .ok _ | .stall _ _ => .stall u
    | x => x

/-- The release of an entry at system scope waits for what the execute hart has on its way to another package (04 R107, R123). -/
def State.entryWaits (s : State) (e : VEntry) : Bool :=
  decide (e.op.release = some .sys) && s.irrevocable.unsent (s.ctx.hartKey .exe)

/-- VECTOR_ENTRY_EXECUTE; in a launch with SLC = 1 the two runs of one element group may differ. -/
def execVectorEntryExecute (slip : Option (BitVec 4 × Bool)) (s : State) : Out :=
  match s.ctx.v.vq with
  | [] => .next s
  | e :: _ =>
    if s.ctx.place = .active ∧ s.ctx.entryFree e then
      if s.entryWaits e then .next s.irrevocable
      else
      let u := ({ s with hart := .exe } : State).withSpz e.cap.spz
      match slip with
      | none => .next (s.concludeEntry e (u.runEntry e))
      | some g =>
        match if s.ctx.slc then u.slipAt e g.1.toNat g.2 else none with
        | none => .next s
        | some p => .next (s.concludeEntry e (u.slip e p))
    else .next s

/-! ## The progress timer (11 R249) -/

/-- The lowest unperformed element of an entry: its position and address, and for the fault-mask class the elements left. -/
def State.unperformed (s : State) (e : VEntry) : Nat × Nat × Word × Option Pred :=
  let st := e.start
  let els := s.ctx.v.elements e.op e.pg e.cap st
  let masked : Bool := match e.op with
    | .load sh _ _ _ _ _ _ _ | .store sh _ _ _ _ _ _ => decide (sh.cls false = .mask)
    | .sca _ _ _ _ _ _ _ _ | .amo _ _ _ _ _ _ _ _ _ => true
    | _ => false
  match els with
  | x :: _ => (x.row, x.elem, x.addr, if masked then some (BitVec.ofNat 512 (els.map fun y => 2 ^ y.elem).sum) else none)
  | [] =>
    let here : Word := match e.op with
      | .spill _ _ b => b
      | .fill _ _ b => b
      | _ => 0#64
    (st.row, st.elem, here, if masked then some 0#512 else none)

/-- The port of a unit that TINFO of PROGRESS can name. -/
def portUnitOk (port unit : Nat) : Bool :=
  if port = 1 then decide (unit ≤ 23) else if port = 2 then decide (unit ≤ 7) else decide (port ≤ 6) && decide (unit = 0)

/-- A `.ft` load has found a fault at which it trims: it leaves FTR as such a one does (11 R247 rank 6, R248). -/
def VOp.trims (op : VOp) (cap : Capture) (t : State) : Bool :=
  match op with
  | .load _ _ _ _ _ _ _ ft => ft && decide (cap.vl ≠ 0) && t.ctx.sr.ftr.getLsbD 63
  | _ => false

/-- The oldest entry, if it may execute, meets a condition of its own, which comes before the timer's: a trap, a rewind or a trim
(11 R247). -/
def State.entryMeets (s : State) (e : VEntry) : Bool :=
  s.ctx.entryFree e &&
  (match (({ s with hart := .exe } : State).withSpz e.cap.spz).runEntry e with
   | .trap _ _ _ _ _ | .rewind _ => true
   | .done t => e.op.trims e.cap t
   | .stall _ => false)

/-- PROGRESS_TIMEOUT: the oldest entry has made no progress for PTO cycles, at a port of a unit, and no other condition is pending for
it. -/
def execProgressTimeout (port unit : BitVec 8) (s : State) : Out :=
  match s.ctx.v.vq with
  | [] => .next s
  | e :: _ =>
    if s.ctx.place = .active ∧ s.ctx.sr.pto ≠ 0#64 ∧ portUnitOk port.toNat unit.toNat ∧ s.entryMeets e = false then
      let (row, elem, a, mask) := ({ s with hart := .exe }).unperformed e
      let t : Trap := { cause := Cause.progress, addr := a, info := BitVec.ofNat 64 (256 * unit.toNat + port.toNat) }
      .next (s.concludeEntry e (.trap row elem mask t { s with hart := .exe }))
    else .next s

end Sys2Proof.Machine
end

