-- ==== Sys2Proof/Machine/Dispatch.lean ====
section
/-! DEFINITION. Which meaning each step has: one arm per constructor of `Instr`. -/

namespace Sys2Proof.Machine

/-- The meaning of an instruction, micro-op or event on the context, hart or ray in focus. -/
def exec (i : Instr) (s : State) : Host.Outcome State Fault Refusal :=
  match i with
  | .add o => Sys2Proof.Machine.execAdd o s
  | .sub o => Sys2Proof.Machine.execSub o s
  | .mul o => Sys2Proof.Machine.execMul o s
  | .mulh o => Sys2Proof.Machine.execMulh o s
  | .mulhn o => Sys2Proof.Machine.execMulhn o s
  | .div o => Sys2Proof.Machine.execDiv o s
  | .divn o => Sys2Proof.Machine.execDivn o s
  | .rem o => Sys2Proof.Machine.execRem o s
  | .remn o => Sys2Proof.Machine.execRemn o s
  | .and o => Sys2Proof.Machine.execAnd o s
  | .or o => Sys2Proof.Machine.execOr o s
  | .xor o => Sys2Proof.Machine.execXor o s
  | .andn o => Sys2Proof.Machine.execAndn o s
  | .shl o => Sys2Proof.Machine.execShl o s
  | .shr o => Sys2Proof.Machine.execShr o s
  | .sra o => Sys2Proof.Machine.execSra o s
  | .rot o => Sys2Proof.Machine.execRot o s
  | .min o => Sys2Proof.Machine.execMin o s
  | .max o => Sys2Proof.Machine.execMax o s
  | .minn o => Sys2Proof.Machine.execMinn o s
  | .maxn o => Sys2Proof.Machine.execMaxn o s
  | .clz o => Sys2Proof.Machine.execClz o s
  | .ctz o => Sys2Proof.Machine.execCtz o s
  | .pop o => Sys2Proof.Machine.execPop o s
  | .bswap o => Sys2Proof.Machine.execBswap o s
  | .cmp cc o => Sys2Proof.Machine.execCmp cc o s
  | .sel t d a b c => Sys2Proof.Machine.execSel t d a b c s
  | .li d i_ => Sys2Proof.Machine.execLi d i_ s
  | .lih d i_ => Sys2Proof.Machine.execLih d i_ s
  | .lea d i_ => Sys2Proof.Machine.execLea d i_ s
  | .fadd o => Sys2Proof.Machine.execFadd o s
  | .fsub o => Sys2Proof.Machine.execFsub o s
  | .fmul o => Sys2Proof.Machine.execFmul o s
  | .fdiv o => Sys2Proof.Machine.execFdiv o s
  | .fsqrt t rm sat d a => Sys2Proof.Machine.execFsqrt t rm sat d a s
  | .ffma o c => Sys2Proof.Machine.execFfma o c s
  | .fmin o => Sys2Proof.Machine.execFmin o s
  | .fmax o => Sys2Proof.Machine.execFmax o s
  | .fcmp cc t d a b => Sys2Proof.Machine.execFcmp cc t d a b s
  | .fcvt dt st rm sat d a => Sys2Proof.Machine.execFcvt dt st rm sat d a s
  | .fcls o => Sys2Proof.Machine.execFcls o s
  | .fsgn op t d a b => Sys2Proof.Machine.execFsgn op t d a b s
  | .b i_ => Sys2Proof.Machine.execB i_ s
  | .bcc cc a b i_ => Sys2Proof.Machine.execBcc cc a b i_ s
  | .call i_ => Sys2Proof.Machine.execCall i_ s
  | .ret => Sys2Proof.Machine.execRet s
  | .jr a => Sys2Proof.Machine.execJr a s
  | .jcall a => Sys2Proof.Machine.execJcall a s
  | .bz a i_ => Sys2Proof.Machine.execBz a i_ s
  | .bnz a i_ => Sys2Proof.Machine.execBnz a i_ s
  | .qwr q a => Sys2Proof.Machine.execQwr q a s
  | .qrd d q => Sys2Proof.Machine.execQrd d q s
  | .bq nz cons q i_ => Sys2Proof.Machine.execBq nz cons q i_ s
  | .qlvl d q => Sys2Proof.Machine.execQlvl d q s
  | .sget d r => Sys2Proof.Machine.execSget d r s
  | .sset r a => Sys2Proof.Machine.execSset r a s
  | .sxchg d r a => Sys2Proof.Machine.execSxchg d r a s
  | .nop => Sys2Proof.Machine.execNop s
  | .pFormPair s0 s1 => Sys2Proof.Machine.execPFormPair s0 s1 s
  | .setvl d a mask vt => Sys2Proof.Machine.execSetvl d a mask vt s
  | .setrc n => Sys2Proof.Machine.execSetrc n s
  | .vlenq d => Sys2Proof.Machine.execVlenq d s
  | .plim d a => Sys2Proof.Machine.execPlim d a s
  | .pand d a b => Sys2Proof.Machine.execPand d a b s
  | .por d a b => Sys2Proof.Machine.execPor d a b s
  | .pxor d a b => Sys2Proof.Machine.execPxor d a b s
  | .pnot d a => Sys2Proof.Machine.execPnot d a s
  | .pcnt d pg a => Sys2Proof.Machine.execPcnt d pg a s
  | .pfirst d pg a => Sys2Proof.Machine.execPfirst d pg a s
  | .vadd o => Sys2Proof.Machine.execVadd o s
  | .vsub o => Sys2Proof.Machine.execVsub o s
  | .vmul o => Sys2Proof.Machine.execVmul o s
  | .vmac o => Sys2Proof.Machine.execVmac o s
  | .vmin o => Sys2Proof.Machine.execVmin o s
  | .vmax o => Sys2Proof.Machine.execVmax o s
  | .vabs t pg d a => Sys2Proof.Machine.execVabs t pg d a s
  | .vand o => Sys2Proof.Machine.execVand o s
  | .vor o => Sys2Proof.Machine.execVor o s
  | .vxor o => Sys2Proof.Machine.execVxor o s
  | .vshl o => Sys2Proof.Machine.execVshl o s
  | .vshr o => Sys2Proof.Machine.execVshr o s
  | .vsra o => Sys2Proof.Machine.execVsra o s
  | .vcmp cc t pg d a b => Sys2Proof.Machine.execVcmp cc t pg d a b s
  | .vsel o => Sys2Proof.Machine.execVsel o s
  | .vbcast t pg d s_ => Sys2Proof.Machine.execVbcast t pg d s_ s
  | .vidx t pg d i_ => Sys2Proof.Machine.execVidx t pg d i_ s
  | .vperm t pg d a b => Sys2Proof.Machine.execVperm t pg d a b s
  | .vslide t pg d a s_ => Sys2Proof.Machine.execVslide t pg d a s_ s
  | .vred op t pg d a => Sys2Proof.Machine.execVred op t pg d a s
  | .vscan op t pg d a => Sys2Proof.Machine.execVscan op t pg d a s
  | .vfadd o => Sys2Proof.Machine.execVfadd o s
  | .vfsub o => Sys2Proof.Machine.execVfsub o s
  | .vfmul o => Sys2Proof.Machine.execVfmul o s
  | .vfma o c => Sys2Proof.Machine.execVfma o c s
  | .vfmin o => Sys2Proof.Machine.execVfmin o s
  | .vfmax o => Sys2Proof.Machine.execVfmax o s
  | .vfdiv o => Sys2Proof.Machine.execVfdiv o s
  | .vfsqrt o => Sys2Proof.Machine.execVfsqrt o s
  | .vfrsq o => Sys2Proof.Machine.execVfrsq o s
  | .vfcmp cc t pg d a b => Sys2Proof.Machine.execVfcmp cc t pg d a b s
  | .vfcvt dt st rm sat pg d a => Sys2Proof.Machine.execVfcvt dt st rm sat pg d a s
  | .vfred op t rm pg d a => Sys2Proof.Machine.execVfred op t rm pg d a s
  | .vscl w pg d a i_ => Sys2Proof.Machine.execVscl w pg d a i_ s
  | .vqnt n w rm sat pg d a s_ i_ => Sys2Proof.Machine.execVqnt n w rm sat pg d a s_ i_ s
  | .vdqn w n rm pg d a s_ i_ => Sys2Proof.Machine.execVdqn w n rm pg d a s_ i_ s
  | .vbpx k pg d a => Sys2Proof.Machine.execVbpx k pg d a s
  | .mvgp o => Sys2Proof.Machine.execMvgp o s
  | .mvwd o => Sys2Proof.Machine.execMvwd o s
  | .mvjn o => Sys2Proof.Machine.execMvjn o s
  | .mvlc o => Sys2Proof.Machine.execMvlc o s
  | .mvsw o => Sys2Proof.Machine.execMvsw o s
  | .mvrv op o => Sys2Proof.Machine.execMvrv op o s
  | .mvdl o => Sys2Proof.Machine.execMvdl o s
  | .mvnm o => Sys2Proof.Machine.execMvnm o s
  | .mvexp o => Sys2Proof.Machine.execMvexp o s
  | .mvgmRd d a => Sys2Proof.Machine.execMvgmRd d a s
  | .mvgmWr d k => Sys2Proof.Machine.execMvgmWr d k s
  | .mvrowExt t pg d a r => Sys2Proof.Machine.execMvrowExt t pg d a r s
  | .mvrowIns t pg d a r => Sys2Proof.Machine.execMvrowIns t pg d a r s
  | .vectorEntryExecute slip => Sys2Proof.Machine.execVectorEntryExecute slip s
  | .progressTimeout port unit => Sys2Proof.Machine.execProgressTimeout port unit s
  | .ld o => Sys2Proof.Machine.execLd o s
  | .st o => Sys2Proof.Machine.execSt o s
  | .ldw t d w b off ar => Sys2Proof.Machine.execLdw t d w b off ar s
  | .vld o ft => Sys2Proof.Machine.execVld o ft s
  | .vlds o ft b => Sys2Proof.Machine.execVlds o ft b s
  | .vldg o ft nf => Sys2Proof.Machine.execVldg o ft nf s
  | .vst o => Sys2Proof.Machine.execVst o s
  | .vsts o b => Sys2Proof.Machine.execVsts o b s
  | .vstg o nf => Sys2Proof.Machine.execVstg o nf s
  | .vgth o b => Sys2Proof.Machine.execVgth o b s
  | .vsct o b => Sys2Proof.Machine.execVsct o b s
  | .vsca o pg ord => Sys2Proof.Machine.execVsca o pg ord s
  | .vamo op o pg ord => Sys2Proof.Machine.execVamo op o pg ord s
  | .mvld o q => Sys2Proof.Machine.execMvld o q s
  | .mvst o q => Sys2Proof.Machine.execMvst o q s
  | .vspill d m => Sys2Proof.Machine.execVspill d m s
  | .vfill d m => Sys2Proof.Machine.execVfill d m s
  | .tlook d a => Sys2Proof.Machine.execTlook d a s
  | .tset slot a => Sys2Proof.Machine.execTset slot a s
  | .tinv slot => Sys2Proof.Machine.execTinv slot s
  | .amo op o => Sys2Proof.Machine.execAmo op o s
  | .cas o => Sys2Proof.Machine.execCas o s
  | .mcld d a b ar => Sys2Proof.Machine.execMcld d a b ar s
  | .mcst d a b ar => Sys2Proof.Machine.execMcst d a b ar s
  | .mctag a b ar => Sys2Proof.Machine.execMctag a b ar s
  | .majorityAnswer k => Sys2Proof.Machine.execMajorityAnswer k s
  | .replicaWrite k => Sys2Proof.Machine.execReplicaWrite k s
  | .fence s_ kinds => Sys2Proof.Machine.execFence s_ kinds s
  | .bari a exp => Sys2Proof.Machine.execBari a exp s
  | .bara d a n => Sys2Proof.Machine.execBara d a n s
  | .barw dst a b ph => Sys2Proof.Machine.execBarw dst a b ph s
  | .barwRecheck => Sys2Proof.Machine.execBarwRecheck s
  | .barwExpiry => Sys2Proof.Machine.execBarwExpiry s
  | .tdesc n a b => Sys2Proof.Machine.execTdesc n a b s
  | .tclsSet n c => Sys2Proof.Machine.execTclsSet n c s
  | .tclsRd d n h => Sys2Proof.Machine.execTclsRd d n h s
  | .tld t n => Sys2Proof.Machine.execTld t n s
  | .tst sat n t => Sys2Proof.Machine.execTst sat n t s
  | .tzero t => Sys2Proof.Machine.execTzero t s
  | .mwld b n kp => Sys2Proof.Machine.execMwld b n kp s
  | .mswap => Sys2Proof.Machine.execMswap s
  | .mmul set f t n kp => Sys2Proof.Machine.execMmul set f t n kp s
  | .mmulx set f t n b c kp => Sys2Proof.Machine.execMmulx set f t n b c kp s
  | .mrd d t row => Sys2Proof.Machine.execMrd d t row s
  | .mwr t s_ row => Sys2Proof.Machine.execMwr t s_ row s
  | .tcvt n m => Sys2Proof.Machine.execTcvt n m s
  | .send sel td ta tb => Sys2Proof.Machine.execSend sel td ta tb s
  | .mtld a b => Sys2Proof.Machine.execMtld a b s
  | .mtq d sel ta tb => Sys2Proof.Machine.execMtq d sel ta tb s
  | .sdret => Sys2Proof.Machine.execSdret s
  | .tsave a => Sys2Proof.Machine.execTsave a s
  | .tload a => Sys2Proof.Machine.execTload a s
  | .matrixEntryExecute => Sys2Proof.Machine.execMatrixEntryExecute s
  | .accumulatorRowComplete pass => Sys2Proof.Machine.execAccumulatorRowComplete pass s
  | .rowRecompute pass => Sys2Proof.Machine.execRowRecompute pass s
  | .cpy o => Sys2Proof.Machine.execCpy o s
  | .cpy2 o => Sys2Proof.Machine.execCpy2 o s
  | .cpyr o => Sys2Proof.Machine.execCpyr o s
  | .cpys o => Sys2Proof.Machine.execCpys o s
  | .cpyk tok => Sys2Proof.Machine.execCpyk tok s
  | .gdg tok a b c mask ck => Sys2Proof.Machine.execGdg tok a b c mask ck s
  | .gda tok t a b c => Sys2Proof.Machine.execGda tok t a b c s
  | .dsp tok a => Sys2Proof.Machine.execDsp tok a s
  | .cmb tok a => Sys2Proof.Machine.execCmb tok a s
  | .chunkComplete cmd chunk => Sys2Proof.Machine.execChunkComplete cmd chunk s
  | .tokenWrite cmd => Sys2Proof.Machine.execTokenWrite cmd s
  | .nougatWindow cmd window => Sys2Proof.Machine.execNougatWindow cmd window s
  | .rtlay tok a => Sys2Proof.Machine.execRtlay tok a s
  | .rtprog tok a b => Sys2Proof.Machine.execRtprog tok a b s
  | .rtin tok a => Sys2Proof.Machine.execRtin tok a s
  | .rtout tok => Sys2Proof.Machine.execRtout tok s
  | .rtacc tok a b => Sys2Proof.Machine.execRtacc tok a b s
  | .tvFetch => Sys2Proof.Machine.execTvFetch s
  | .tvLd => Sys2Proof.Machine.execTvLd s
  | .tvBox => Sys2Proof.Machine.execTvBox s
  | .tvTri => Sys2Proof.Machine.execTvTri s
  | .tvCmp k => Sys2Proof.Machine.execTvCmp k s
  | .tvPush => Sys2Proof.Machine.execTvPush s
  | .tvPop => Sys2Proof.Machine.execTvPop s
  | .tvLeaf => Sys2Proof.Machine.execTvLeaf s
  | .tvAcc => Sys2Proof.Machine.execTvAcc s
  | .tvBr k target => Sys2Proof.Machine.execTvBr k target s
  | .tvMov k => Sys2Proof.Machine.execTvMov k s
  | .tvEnd => Sys2Proof.Machine.execTvEnd s
  | .ringProduce ray => Sys2Proof.Machine.execRingProduce ray s
  | .ringRetry ray => Sys2Proof.Machine.execRingRetry ray s
  | .rayFault => Sys2Proof.Machine.execRayFault s
  | .vtsend p a => Sys2Proof.Machine.execVtsend p a s
  | .vtwait kill => Sys2Proof.Machine.execVtwait kill s
  | .laneBlockRetire e => Sys2Proof.Machine.execLaneBlockRetire e s
  | .svc n => Sys2Proof.Machine.execSvc n s
  | .tret => Sys2Proof.Machine.execTret s
  | .end_ => Sys2Proof.Machine.execEnd s
  | .spawn a => Sys2Proof.Machine.execSpawn a s
  | .join d => Sys2Proof.Machine.execJoin d s
  | .kill d a => Sys2Proof.Machine.execKill d a s
  | .idle a => Sys2Proof.Machine.execIdle a s
  | .pwr d a => Sys2Proof.Machine.execPwr d a s
  | .chkm d a => Sys2Proof.Machine.execChkm d a s
  | .halt a => Sys2Proof.Machine.execHalt a s
  | .fetch a => Sys2Proof.Machine.execFetch a s
  | .walkComplete asid va k evict => Sys2Proof.Machine.execWalkComplete asid va k evict s
  | .holdReread => Sys2Proof.Machine.execHoldReread s
  | .holdStallBound p => Sys2Proof.Machine.execHoldStallBound p s
  | .xatbWrite v => Sys2Proof.Machine.execXatbWrite v s
  | .xinvPage asid vpn => Sys2Proof.Machine.execXinvPage asid vpn s
  | .xinvAsid asid => Sys2Proof.Machine.execXinvAsid asid s
  | .xinvAll => Sys2Proof.Machine.execXinvAll s
  | .xmsetReload => Sys2Proof.Machine.execXmsetReload s
  | .xinvComplete => Sys2Proof.Machine.execXinvComplete s
  | .xvqRead die => Sys2Proof.Machine.execXvqRead die s
  | .checkpointSave stks => Sys2Proof.Machine.execCheckpointSave stks s
  | .checkpointRestore stks => Sys2Proof.Machine.execCheckpointRestore stks s
  | .checkpointGranuleCopy g => Sys2Proof.Machine.execCheckpointGranuleCopy g s
  | .checkpointComplete elapsed => Sys2Proof.Machine.execCheckpointComplete elapsed s
  | .mcbaseFloor val count => Sys2Proof.Machine.execMcbaseFloor val count s
  | .mcbaseSetall val count => Sys2Proof.Machine.execMcbaseSetall val count s
  | .mcrenew mset ppn => Sys2Proof.Machine.execMcrenew mset ppn s
  | .mcscrub mset ppn => Sys2Proof.Machine.execMcscrub mset ppn s
  | .scrubCorrection sector seen seenTag => Sys2Proof.Machine.execScrubCorrection sector seen seenTag s
  | .stackFailure k => Sys2Proof.Machine.execStackFailure k s
  | .lsubSubmit die addr host => Sys2Proof.Machine.execLsubSubmit die addr host s
  | .itemPlacement launch item core => Sys2Proof.Machine.execItemPlacement launch item core s
  | .tick => Sys2Proof.Machine.execTick s
  | .shadowBankSwap core launch item => Sys2Proof.Machine.execShadowBankSwap core launch item s
  | .spillComplete core => Sys2Proof.Machine.execSpillComplete core s
  | .swapBack core => Sys2Proof.Machine.execSwapBack core s
  | .completionWordWrite launch => Sys2Proof.Machine.execCompletionWordWrite launch s
  | .lkill cw => Sys2Proof.Machine.execLkill cw s
  | .scanctl core => Sys2Proof.Machine.execScanctl core s
  | .scanComplete pass => Sys2Proof.Machine.execScanComplete pass s
  | .leaveGrant die => Sys2Proof.Machine.execLeaveGrant die s
  | .leaveTimeout => Sys2Proof.Machine.execLeaveTimeout s
  | .heavyOperationComplete k => Sys2Proof.Machine.execHeavyOperationComplete k s
  | .readinessSet die bit => Sys2Proof.Machine.execReadinessSet die bit s
  | .bootStage stage image => Sys2Proof.Machine.execBootStage stage image s
  | .deviceReset => Sys2Proof.Machine.execDeviceReset s
  | .linjctlArm port ctl n => Sys2Proof.Machine.execLinjctlArm port ctl n s
  | .flitReceive port ok => Sys2Proof.Machine.execFlitReceive port ok s
  | .portDown port => Sys2Proof.Machine.execPortDown port s
  | .remoteRequest op addr n val => Sys2Proof.Machine.execRemoteRequest op addr n val s
  | .hostAccess addr o => Sys2Proof.Machine.execHostAccess addr o s
  | .deviceRegisterWrite addr val => Sys2Proof.Machine.execDeviceRegisterWrite addr val s
  | .briocheAccess addr o => Sys2Proof.Machine.execBriocheAccess addr o s
  | .storeBecomesVisible k => Sys2Proof.Machine.execStoreBecomesVisible k s
  | .idleExpiry => Sys2Proof.Machine.execIdleExpiry s
  | .sectorError sector correctable => Sys2Proof.Machine.execSectorError sector correctable s

end Sys2Proof.Machine
end

