-- ==== Sys2Proof/Machine/Policy.lean ====
section
/-! DEFINITION. What the model does next when its agenda is empty (notes/assumptions 2): the hart in focus goes on, and where it
waits, the streams and engines of its context, the replicas, the scheduler and then the other hart are tried in a fixed order. -/

namespace Sys2Proof.Machine

/-- The placements of a launch that are tried: its first unplaced item of each die, on each core of the die. -/
def Launch.placements (l : Launch) : List (State → Out) :=
  l.dies.flatMap fun d =>
    match l.nextAt d with
    | none => []
    | some item => (List.range Config.coresPerDie).map fun i => execItemPlacement l.id item (Config.coresPerDie * d + i)

/-- The events tried, in this order, for the context in focus. -/
def State.candidates (s : State) : List (State → Out) :=
  (s.ctx.vps.map fun p => execLaneBlockRetire p.elem) ++
  (if s.ctx.v.vq.isEmpty then [] else [execVectorEntryExecute none]) ++
  (if s.ctx.m.pend.isEmpty then [] else [execAccumulatorRowComplete true]) ++
  (if s.ctx.m.mq.isEmpty then [] else [execMatrixEntryExecute]) ++
  (s.ctx.cmds.flatMap fun k => [execChunkComplete k.id k.next, execNougatWindow k.id k.next, execTokenWrite k.id]) ++
  (s.repWrites.zipIdx.map fun (_, k) => execReplicaWrite k) ++
  (s.repAnswers.zipIdx.map fun (_, k) => execMajorityAnswer k) ++
  (match s.hs.wait with
   | .barw _ _ _ _ => [execBarwRecheck]
   | .hold _ _ => [execHoldReread]
   | .none | .other | .queue _ _ | .idle _ | .leave _ | .majority | .ending => []) ++
  (s.remote.filterMap fun r => match r.way with
    | .over p => some (execFlitReceive (BitVec.ofNat 7 p) true)
    | .arrived | .lost _ => none) ++
  ((List.range 8).filterMap fun d => (s.pendingLsub d).map fun _ => execLsubSubmit (BitVec.ofNat 3 d) 0#44 false) ++
  (s.heavy.map fun l => execHeavyOperationComplete l.id) ++
  (s.launches.map fun l => execCompletionWordWrite l.id) ++
  s.launches.flatMap Launch.placements

end Sys2Proof.Machine
end

