-- ==== Sys2Proof/Machine/Step.lean ====
section
/-! DEFINITION. One step of the machine: the head of the agenda happens, or with an empty agenda the model's own order decides
what does. -/

namespace Sys2Proof.Machine

/-- The hart in focus takes its next instruction. The machine check of a request that it lost goes before it (11 R257), and then a ray
fault that is due before the access hart's (R247). An instruction in a majority operation goes on with it (03 R87). -/
def runHart (s : State) : Host.Outcome State Fault Refusal :=
  match s.lostRequest with
  | some (i, port) => .next (s.takeLost i port)
  | none =>
    if s.hart = .acc ∧ s.eventDue then execRayFault s
    else if s.issues then
      match s.midOp with
      | some i => exec i s
      | none =>
        match s.nextWord with
        | .word w t =>
          match decode w with
          | .ok i => exec i t
          | .illegal => rejected t Cause.illegal w
          | .pairing => rejected t (pairingCause t.hart w) w
        | .stop o => o
    else .next s

/-- The ray engine of the context in focus runs the next micro-op of a ray (18 R398). -/
def runRay (k : Nat) (s : State) : Host.Outcome State Fault Refusal :=
  match s.nextMicro k with
  | .op i t => exec i t
  | .stop t => .next t

/-- An event happens. An instruction of a hart or a micro-op is no event. -/
def runEvent (i : Instr) (s : State) : Host.Outcome State Fault Refusal :=
  if i.hasWord then .next s else exec i s

/-- The first candidate that changes the state happens; none, and the state stays. -/
def firstChange (s : State) : List (State → Out) → Out
  | [] => .next s
  | f :: t =>
    match f s with
    | .next u => if u = s then firstChange s t else .next u
    | .fault r => .fault r
    | .refused r => .refused r

/-- What happens with an empty agenda. -/
def runDefault (s : State) : Host.Outcome State Fault Refusal :=
  if s.issues && decide (s.hs.wait = .none) then runHart s
  else
    match firstChange s s.candidates with
    | .next u =>
      if u ≠ s then .next u
      else
        match runHart s with
        | .next v => if v = s then runHart { s with hart := HartId.other s.hart } else .next v
        | .fault r => .fault r
        | .refused r => .refused r
    | .fault r => .fault r
    | .refused r => .refused r

/-- One step. -/
def step (s : State) : Host.Outcome State Fault Refusal :=
  match s.agenda with
  | [] => runDefault s
  | m :: t =>
    let s := ({ s with agenda := t } : State).focus m.core m.bank m.hart
    match m.act with
    | .instr => runHart s
    | .micro k => runRay k s
    | .event i => runEvent i s

/-- The state with an instruction word stored where the next step fetches. -/
def State.withFetchWord (s : State) (nbits w : Nat) : State := s.loadWord nbits w

end Sys2Proof.Machine
end

