-- ==== Sys2Proof/Safety.lean ====
section
/-! DEFINITION. What a safe run is: every step answers a next state. -/

namespace Sys2Proof

/-- The first `k` steps from a state answer next states. -/
def runsFor : Nat → Machine.State → Prop
  | 0, _ => True
  | k + 1, s =>
    match Machine.step s with
    | .next t => runsFor k t
    | .fault _ => False
    | .refused _ => False

/-- No step from the state ever stops the machine. -/
def Safe (s : Machine.State) : Prop := ∀ k, runsFor k s

end Sys2Proof
end

