-- ==== Sys2Proof/Certificates/Slice0/Obligations.lean ====
section
/-! DEFINITION. The statements for the provers. A statement of an instruction's effect concludes that `exec` answers a next state, and
says what that state holds and what it leaves as it was. -/

namespace Sys2Proof.Claims
open Sys2Proof.Machine

/-! ## Frames -/

/-- Every party reads every byte of memory as before. -/
def SameMemory (s t : State) : Prop := ∀ v a, t.byte v a = s.byte v a

/-- The stores apart from who knows of them. -/
def bareStores (s : State) : List (Nat × List Byte × Nat × Scope) := s.stores.map fun w => (w.addr, w.bytes, w.core, w.level)

/-- The contexts out of focus apart from who knows of the stores to their scratchpads. -/
def bareOthers (s : State) : List Context := s.others.map fun c => { c with slog := [] }

/-- The requests to other packages apart from who knows of them. -/
def bareRemote (s : State) : List Remote := s.remote.map fun r => { r with who := [] }

/-- The open strip apart from who knows of the stores that it holds. -/
def bareStrip (s : State) : Option Strip := s.ctx.strip.map fun p => { p with held := p.held.map fun h => { h with who := [] } }

/-- Nothing differs but which parties know of which stores (04 R107): no byte, no level of visibility and no register does. -/
def Learns (s t : State) : Prop :=
  t = { s with nextId := t.nextId, stores := t.stores, remote := t.remote, others := t.others,
               ctx := { s.ctx with slog := t.ctx.slog, strip := t.ctx.strip } } ∧
  bareStores t = bareStores s ∧ bareRemote t = bareRemote s ∧ bareOthers t = bareOthers s ∧ bareStrip t = bareStrip s

/-- The same, but that stores which the open strip holds may also be bound to perform at a wider scope (04 R100). -/
def LearnsHeld (s t : State) : Prop :=
  Learns { s with ctx := { s.ctx with strip := t.ctx.strip } } t ∧
  let bare (p : Strip) : Strip := { p with held := p.held.map fun h => { h with who := [], level := .core } }
  t.ctx.strip.map bare = s.ctx.strip.map bare

/-- Nothing differs but the context in focus. -/
def OnlyCtx (s t : State) : Prop := t = { s with ctx := t.ctx } ∧ SameMemory s t

/-- Nothing differs but the hart in focus: its pc, its own FSTAT copy, the end of its wait, and its registers. -/
def OnlyHart (s t : State) : Prop :=
  OnlyCtx s t ∧
  t.ctx = { s.ctx with ah := t.ctx.ah, xh := t.ctx.xh, ax := t.ctx.ax, v := t.ctx.v } ∧
  t.ctx.v = { s.ctx.v with rows := t.ctx.v.rows, gm := t.ctx.v.gm } ∧
  t.hs = { s.hs with pc := t.pc, wait := .none, fstat := t.hs.fstat } ∧
  t.ctx.hs s.hart.other = s.ctx.hs s.hart.other ∧
  (s.hart = .acc → t.ctx.v = s.ctx.v) ∧ (s.hart = .exe → t.ctx.ax = s.ctx.ax)

/-- One scalar register of the hart in focus is written: on the execute hart, slot 0 of row 0 of its vector register. -/
def Wrote (s t : State) (d : Reg) (w : Word) : Prop :=
  OnlyHart s t ∧ (∀ r, t.x r = if r = d then w else s.x r) ∧
  (∀ r row, r < 32 → row < 16 → r ≠ d.toNat ∨ row ≠ 0 → t.ctx.v.row r row = s.ctx.v.row r row) ∧
  (∀ r, r ≠ d.toNat → t.ctx.v.mask r = s.ctx.v.mask r) ∧
  (t.ctx.v.row d.toNat 0).extractLsb' 64 4032 = (s.ctx.v.row d.toNat 0).extractLsb' 64 4032

/-- No register is written. -/
def Kept (s t : State) : Prop := OnlyHart s t ∧ t.ctx.v = s.ctx.v ∧ t.ctx.ax = s.ctx.ax

/-- The hart goes on to the next word with its FSTAT copy as it was. -/
def GoesOn (s t : State) : Prop := t.pc = s.pc + 8#64 ∧ t.hs.fstat = s.hs.fstat

/-- The instruction completes: it writes `w` to register `d` and nothing else, and the hart goes on. -/
def Writes (i : Instr) (s : State) (d : Reg) (w : Word) : Prop := ∃ t, exec i s = .next t ∧ Wrote s t d w ∧ GoesOn s t

/-- The instruction completes: it writes `w` to register `d`, raises flags, and does nothing else. -/
def WritesFlags (i : Instr) (s : State) (d : Reg) (w : Word) (fl : BitVec 8) : Prop :=
  ∃ t, exec i s = .next t ∧ Wrote s t d w ∧ t.pc = s.pc + 8#64 ∧ t.hs.fstat = s.hs.fstat ||| fl

/-- The instruction completes: the hart goes on at an address, and no register is written. -/
def Jumps (i : Instr) (s : State) (pc : Word) : Prop :=
  ∃ t, exec i s = .next t ∧ Kept s t ∧ t.pc = pc ∧ t.hs.fstat = s.hs.fstat

/-- The hart in focus may enter its handler: it is not in it, HWIN is valid, and on the execute hart the vector stream is empty
(11 R238, R239). -/
def CanTrap (s : State) : Prop :=
  s.hs.handler = false ∧ s.ctx.sr.hwin.getLsbD 63 = true ∧ (s.hart = .exe → s.ctx.v.vq = [])

/-- The trap entry of 11 R238 and R243 for the hart in focus, and nothing else: the saved registers, handler mode, the stack pointer
and the entry address; every other register, the other hart and memory stay. -/
def Entered (s t : State) (cause : Nat) (addr info pc npc : Word) : Prop :=
  OnlyCtx s t ∧
  t.ctx = { s.ctx with ah := t.ctx.ah, xh := t.ctx.xh, ax := t.ctx.ax, v := t.ctx.v } ∧
  t.ctx.v = { s.ctx.v with rows := t.ctx.v.rows, gm := t.ctx.v.gm } ∧
  t.ctx.hs s.hart.other = s.ctx.hs s.hart.other ∧
  t.hs = { s.hs with
    pc := entryOf s.ctx.sr.hwin s.hart, wait := .none,
    t := { s.hs.t with
      tcause := BitVec.ofNat 64 cause, taddr := addr, tinfo := info, tpc := pc, tnpc := npc, tsp := s.x 30#5,
      hstat := s.hs.t.hstat ||| 1#64 } } ∧
  (∀ r, t.x r = if r = 30#5 then stackTop s.ctx.sr.hwin s.hart else s.x r) ∧
  (∀ r row, r < 32 → row < 16 → r ≠ 30 ∨ row ≠ 0 → t.ctx.v.row r row = s.ctx.v.row r row)

/-- The instruction takes a trap that is precise at it: TPC and TNPC hold its address. -/
def Traps (i : Instr) (s : State) (cause : Nat) (addr info : Word) : Prop :=
  CanTrap s → ∃ t, exec i s = .next t ∧ Entered s t cause addr info s.pc s.pc

/-! ## Scalar integer -/

/-- The operation of an instruction of two integer sources (14 R291), with its operands. -/
def intOf : Instr → Option (IOp × IntArgs)
  | .add o => some (.add, o) | .sub o => some (.sub, o) | .mul o => some (.mul, o) | .mulh o => some (.mulh, o)
  | .mulhn o => some (.mulhn, o) | .div o => some (.div, o) | .divn o => some (.divn, o) | .rem o => some (.rem, o)
  | .remn o => some (.remn, o) | .and o => some (.and, o) | .or o => some (.or, o) | .xor o => some (.xor, o)
  | .andn o => some (.andn, o) | .shl o => some (.shl, o) | .shr o => some (.shr, o) | .sra o => some (.sra, o)
  | .rot o => some (.rot, o) | .min o => some (.min, o) | .max o => some (.max, o) | .minn o => some (.minn, o)
  | .maxn o => some (.maxn, o)
  | _ => none

/-- The operations of 14 R291 on bit vectors of the width of the type. -/
def intBits {w : Nat} (op : IOp) (a b : BitVec w) : BitVec w :=
  match op with
  | .add => a + b
  | .sub => a - b
  | .mul => a * b
  | .mulh => (a.signExtend (2 * w) * b.signExtend (2 * w)).extractLsb' w w
  | .mulhn => (a.zeroExtend (2 * w) * b.zeroExtend (2 * w)).extractLsb' w w
  | .div => if b = 0#w then BitVec.allOnes w else a.sdiv b
  | .divn => if b = 0#w then BitVec.allOnes w else a / b
  | .rem => if b = 0#w then a else a.srem b
  | .remn => if b = 0#w then a else a % b
  | .and => a &&& b
  | .or => a ||| b
  | .xor => a ^^^ b
  | .andn => a &&& ~~~b
  | .shl => a <<< (b.toNat % w)
  | .shr => a >>> (b.toNat % w)
  | .sra => a.sshiftRight (b.toNat % w)
  | .rot => a.rotateLeft (b.toNat % w)
  | .min => if a.sle b then a else b
  | .max => if a.sle b then b else a
  | .minn => if a.ule b then a else b
  | .maxn => if a.ule b then b else a

/-- Ext of 14 R289. -/
def extBits (t : Ty) {w : Nat} (x : BitVec w) : Word := if t.isSigned then x.signExtend 64 else x.zeroExtend 64

/-- The low w bits of a register, w the width of a type. -/
def lowBits (t : Ty) (x : Word) : BitVec t.width := x.setWidth t.width

/-- The comparison of 14 R294: signed under an .i type, unsigned under an .n type. -/
def cmpBits {w : Nat} (cc : Icc) (signed : Bool) (a b : BitVec w) : Bool :=
  let lt := if signed then a.slt b else a.ult b
  match cc with
  | .eq => decide (a = b)
  | .ne => decide (a ≠ b)
  | .lt | .ltn => lt
  | .ge | .gen => !lt
  | .le | .len => lt || decide (a = b)
  | .gt | .gtn => !(lt || decide (a = b))

/-! ## Scalar float -/

/-- What a scalar float instruction reads, its destination, its result and the flags it raises (14 R297 to R301). -/
def floatOf (s : State) : Instr → Option (List Reg × Reg × Word × BitVec 8)
  | .fadd o => some ([o.a, o.b], o.d, two o fun f rm a b => f.add rm o.sat a b)
  | .fsub o => some ([o.a, o.b], o.d, two o fun f rm a b => f.sub rm o.sat a b)
  | .fmul o => some ([o.a, o.b], o.d, two o fun f rm a b => f.mul rm o.sat a b)
  | .fdiv o => some ([o.a, o.b], o.d, two o fun f rm a b => f.div rm o.sat a b)
  | .fmin o => some ([o.a, o.b], o.d, two o fun f _ a b => f.minmax false a b)
  | .fmax o => some ([o.a, o.b], o.d, two o fun f _ a b => f.minmax true a b)
  | .fsqrt t rm sat d a =>
    let r := (ffmt t).sqrt (resolveRm rm s.ctx.sr.fctl) sat (low t (s.x a))
    some ([a], d, ext t r.1, r.2)
  | .ffma o c =>
    let r := (ffmt o.t).fma (resolveRm o.rm s.ctx.sr.fctl) o.sat (low o.t (s.x o.a)) (low o.t (s.x o.b)) (low o.t (s.x c))
    some ([o.a, o.b, c], o.d, ext o.t r.1, r.2)
  | .fcmp cc t d a b =>
    let r := (ffmt t).compare cc (low t (s.x a)) (low t (s.x b))
    some ([a, b], d, flagWord r.1, r.2)
  | .fcvt dt st rm sat d a =>
    let r := convert dt st (resolveRm rm s.ctx.sr.fctl) sat (low st (s.x a))
    some ([a], d, ext dt r.1, r.2)
  | _ => none
where
  two (o : FBinArgs) (op : FFmt → Rm → Nat → Nat → FRes) : Word × BitVec 8 :=
    let r := op (ffmt o.t) (resolveRm o.rm s.ctx.sr.fctl) (low o.t (s.x o.a)) (low o.t (s.x o.b))
    (ext o.t r.1, r.2)

/-- The value of a finite number. -/
def numVal : Machine.Num → ℚ
  | .fin neg m e => (if neg then -1 else 1) * (m : ℚ) * (2 : ℚ) ^ e
  | .nan _ | .inf _ => 0

/-- The finite value that a code of a format encodes (06 R135). -/
def codeVal (f : FFmt) (n : Nat) : Option ℚ :=
  match f.decode n with
  | .fin neg m e => some (numVal (.fin neg m e))
  | .nan _ | .inf _ => none

/-- A code of a format is what the mode rounds an exact value to, among the finite values of the format (06 R139). -/
def RoundsTo (f : FFmt) (rm : Rm) (v : ℝ) (n : Nat) : Prop :=
  n < 2 ^ f.width ∧ ∃ x, codeVal f n = some x ∧ ∀ k y, k < 2 ^ f.width → codeVal f k = some y →
    let q : ℝ := x
    let p : ℝ := y
    match rm with
    | .rne | .dyn => |q - v| ≤ |p - v| ∧ (|q - v| = |p - v| → p ≠ q → n % 2 = 0)
    | .rmm => |q - v| ≤ |p - v| ∧ (|q - v| = |p - v| → |p| ≤ |q|)
    | .rtz => |q| ≤ |v| ∧ 0 ≤ q * v ∧ (|p| ≤ |v| → 0 ≤ p * v → |p| ≤ |q|)
    | .rdn => q ≤ v ∧ (p ≤ v → p ≤ q)
    | .rup => v ≤ q ∧ (v ≤ p → q ≤ p)

/-- A result with its flags is an exact value rounded once: the value of the format that the mode takes it to, with NX where that differs from
it; or with OF, which no value up to the greatest of the format raises, an infinity or the greatest magnitude (06 R139, R143). -/
def Delivered (t : Ty) (rm : Rm) (sat neg : Bool) (v : ℝ) (r : FRes) : Prop :=
  let f := ffmt t
  let inf := match rm with
    | .rne | .rmm | .dyn => true
    | .rtz => false
    | .rdn => neg
    | .rup => !neg
  (r.2 &&& Flag.of = 0#8 → RoundsTo f rm v r.1 ∧ r.1.testBit (f.ew + f.mw) = neg ∧
    (r.2 &&& Flag.nx = 0#8 ↔ ∃ q, codeVal f r.1 = some q ∧ (q : ℝ) = v)) ∧
  (r.2 &&& Flag.of ≠ 0#8 → (∀ k p, k < 2 ^ f.width → codeVal f k = some p → |(p : ℝ)| < |v|) ∧ r.2 &&& Flag.nx ≠ 0#8 ∧
    r.1 = f.sign neg (if sat = false ∧ t ≠ .fp4 ∧ inf = true then (if t = .e4m3 then 0x7F else (2 ^ f.ew - 1) * 2 ^ f.mw) else f.maxCode))

/-- The canonical NaN of a format (06 R137), its infinity or what stands for it, and its greatest finite magnitude (06 R136, R143). E2M1 has
no NaN and gives +0. -/
def canonicalNan : Ty → Nat
  | .f64 => 0x7FF8000000000000 | .f32 => 0x7FC00000 | .bf16 => 0x7FC0 | .f16 => 0x7E00 | .e5m2 => 0x7E | .e4m3 => 0x7F | _ => 0
def infinityCode : Ty → Nat
  | .f64 => 0x7FF0000000000000 | .f32 => 0x7F800000 | .bf16 => 0x7F80 | .f16 => 0x7C00 | .e5m2 => 0x7C | .e4m3 => 0x7F | _ => 7
def greatestCode : Ty → Nat
  | .f64 => 0x7FEFFFFFFFFFFFFF | .f32 => 0x7F7FFFFF | .bf16 => 0x7F7F | .f16 => 0x7BFF | .e5m2 => 0x7B | .e4m3 => 0x7E | _ => 7

/-- An operation delivers a NaN, NV when it is invalid, and under E2M1 always (06 R137, R143). -/
def nanResult (t : Ty) (nv : Bool) : FRes := (canonicalNan t, if nv || decide (t = .fp4) then Flag.nv else 0#8)

/-- An operation delivers an exact infinity: the Infinite input column of 06 R143. -/
def infResult (t : Ty) (sat neg : Bool) : FRes :=
  ((if neg then 2 ^ (t.width - 1) else 0) + (if sat then greatestCode t else infinityCode t),
    (if t = .fp4 then Flag.sat ||| Flag.nv else if sat then Flag.sat else 0#8))

/-- A value that is not NaN, in the order of the extended numbers; −0 and +0 are one value. -/
def extVal : Machine.Num → WithBot (WithTop ℚ)
  | .inf false => ((⊤ : WithTop ℚ) : WithBot (WithTop ℚ))
  | .fin n m e => ((numVal (.fin n m e) : WithTop ℚ) : WithBot (WithTop ℚ))
  | .nan _ | .inf true => ⊥

/-- An integer is what the mode rounds an exact value to (06 R139, R144). -/
def RoundsToInt (rm : Rm) (v : ℚ) (k : Int) : Prop :=
  match rm with
  | .rne | .dyn => 2 * |(k : ℚ) - v| ≤ 1 ∧ (2 * |(k : ℚ) - v| = 1 → Even k)
  | .rmm => 2 * |(k : ℚ) - v| ≤ 1 ∧ (2 * |(k : ℚ) - v| = 1 → |v| ≤ |(k : ℚ)|)
  | .rtz => k = if v < 0 then ⌈v⌉ else ⌊v⌋
  | .rdn => k = ⌊v⌋
  | .rup => k = ⌈v⌉

/-- The class bit of 14 R302, from the fields of the operand. -/
def classBit (t : Ty) (n : Nat) : Nat :=
  let f := ffmt t
  let neg := n.testBit (f.ew + f.mw)
  let ex := n / 2 ^ f.mw % 2 ^ f.ew
  let fr := n % 2 ^ f.mw
  if t = .e4m3 ∧ n % 128 = 127 then 9
  else if t ≠ .e4m3 ∧ ex = 2 ^ f.ew - 1 then
    if fr = 0 then (if neg then 0 else 7) else if fr.testBit (f.mw - 1) then 9 else 8
  else if ex = 0 then
    if fr = 0 then (if neg then 3 else 4) else (if neg then 2 else 5)
  else (if neg then 1 else 6)

/-! ## The harts of an instruction (08 R172) -/

/-- The instructions of the execute hart alone. -/
def exeOnly : Instr → Bool
  | .fadd _ | .fsub _ | .fmul _ | .fdiv _ | .fsqrt _ _ _ _ _ | .ffma _ _ | .fmin _ | .fmax _ | .fcmp _ _ _ _ _ | .fcvt _ _ _ _ _ _
  | .fcls _ | .fsgn _ _ _ _ _ | .setvl _ _ _ _ | .setrc _ | .vlenq _ | .plim _ _ | .pand _ _ _ | .por _ _ _ | .pxor _ _ _
  | .pnot _ _ | .pcnt _ _ _ | .pfirst _ _ _ | .vadd _ | .vsub _ | .vmul _ | .vmac _ | .vmin _ | .vmax _ | .vabs _ _ _ _
  | .vand _ | .vor _ | .vxor _ | .vshl _ | .vshr _ | .vsra _ | .vcmp _ _ _ _ _ _ | .vsel _ | .vbcast _ _ _ _ | .vidx _ _ _ _
  | .vperm _ _ _ _ _ | .vslide _ _ _ _ _ | .vred _ _ _ _ _ | .vscan _ _ _ _ _ | .vfadd _ | .vfsub _ | .vfmul _ | .vfma _ _
  | .vfmin _ | .vfmax _ | .vfdiv _ | .vfsqrt _ | .vfrsq _ | .vfcmp _ _ _ _ _ _ | .vfcvt _ _ _ _ _ _ _ | .vfred _ _ _ _ _ _
  | .vscl _ _ _ _ _ | .vqnt _ _ _ _ _ _ _ _ _ | .vdqn _ _ _ _ _ _ _ _ | .vbpx _ _ _ _ | .mvgp _ | .mvwd _ | .mvjn _ | .mvlc _
  | .mvsw _ | .mvrv _ _ | .mvdl _ | .mvnm _ | .mvexp _ | .mvgmRd _ _ | .mvgmWr _ _ | .mvrowExt _ _ _ _ _ | .mvrowIns _ _ _ _ _
  | .vld _ _ | .vlds _ _ _ | .vldg _ _ _ | .vst _ | .vsts _ _ | .vstg _ _ | .vgth _ _ | .vsct _ _ | .vsca _ _ _ | .vamo _ _ _ _
  | .mvld _ _ | .mvst _ _ | .vspill _ _ | .vfill _ _ | .mcld _ _ _ _ | .mcst _ _ _ _ | .mctag _ _ _ | .tdesc _ _ _ | .tclsSet _ _
  | .tclsRd _ _ _ | .tld _ _ | .tst _ _ _ | .tzero _ | .mwld _ _ _ | .mswap | .mmul _ _ _ _ _ | .mmulx _ _ _ _ _ _ _ | .mrd _ _ _
  | .mwr _ _ _ | .tcvt _ _ | .send _ _ _ _ | .mtld _ _ | .mtq _ _ _ _ | .sdret | .tsave _ | .tload _ | .vtsend _ _ | .vtwait _
  | .spawn _ | .join _ | .kill _ _ | .pwr _ _ | .chkm _ _ => true
  | _ => false

end Sys2Proof.Claims

open Sys2Proof Sys2Proof.Machine Sys2Proof.Claims

/-! ## Encoding and the step -/

/-- 13 R271 to R285: the decoder reads every well-formed instruction back from its word; the micro-ops with the traversal store's
decoder. -/
def Obligations.DecodeReadsEveryEncodedInstruction : Prop :=
  ∀ i : Instr, i.wf = true → i.hasWord = true → decode i.encode = .ok i ∨ decodeMicro i.encode = some i

/-- 13 R275, R284: two words never decode to one instruction, what is decoded is well formed, and a word of the reserved form 11 is
no instruction. -/
def Obligations.WordOfAnInstructionIsUnique : Prop :=
  (∀ w i, decode w = .ok i → i.encode = w ∧ i.wf = true) ∧ ∀ w : Word, w.extractLsb' 62 2 = 3#2 → decode w = .illegal

/-- The encoded words of 13 to 18 decode to what they stand for, and the neighbours that those files name as illegal do not. -/
def Obligations.WordsOfTheSpecDecode : Prop :=
  decode 0x0046428000800000#64 = .ok (.sub { t := .i32, d := 3#5, a := 4#5, b := .reg 5#5 }) ∧
  decode 0x0C4011000001BFFD#64 = .ok (.bcc .ltn 1#5 2#5 0x3FFD#14) ∧
  decode 0x0950952C1A400000#64 = .ok (.ffma { t := .f32, rm := .rup, sat := false, d := 8#5, a := 9#5, b := 10#5 } 11#5) ∧
  decode 0x0F8A500000000001#64 = .ok (.sxchg 5#5 .fstat 5#5) ∧
  decode 0x50108000C0530000#64 = .ok (.pFormPair (.imm .add 2#5 2#5 1#15) (.ld .n64 5#5 6#5 0#15)) ∧
  decode 0x12845300C0808000#64 = .ok (.vcmp .lt .i32 3#4 2#4 5#5 (.vec 6#5)) ∧
  decode 0x190E110402600000#64 =
    .ok (.mvsw { t := .f32, rm := .rne, pg := 0#4, k := some 1#5, d := 7#5, a := 1#5, b := 2#5 }) ∧
  decode 0x20CA63E400C08000#64 =
    .ok (.amo .add { t := .i64, rm := .rne, d := 5#5, m := { sp := false, a := 6#5, off := 0#14 }, b := 7#5, ar := .acqrel .cluster }) ∧
  decode 0x249A200000104000#64 = .ok (.tst true 5#3 2#3) ∧
  decode 0x280A84A80004E009#64 =
    .ok (.cpy { tok := { d := 5#5, et := true }, rsp := false, ss := false, ds := true, a := 8#5, b := 9#5, c := 10#5,
                mask := some 3#4, ck := 2#4 }) ∧
  decodeMicro 0x2E40000000004008#64 = some (.tvBr .t 8#9) ∧
  decode 0x0000000000000000#64 = .illegal ∧ decode 0x0E48100000000001#64 = .illegal ∧ decode 0x190E110032400000#64 = .illegal ∧
  decode 0x2584900000800000#64 = .illegal ∧ decode 0x2948C6B800000000#64 = .illegal

/-- 13 R286, 14 R284, R285: the hart in focus issues, and the word at its pc, fetched ahead or else read with EX permission, is the word of
an instruction: the step is that instruction. A word that names none traps ILLEGAL there, one whose slots are mispaired PAIRING, or ILLEGAL
where a slot is not for the hart, with the word in TINFO and nothing else done. A hart in a majority operation goes on with the instruction
that began it, and fetches nothing (03 R87, R88). `t` is the state after the translation of the fetch. Which
hart moves (the head of the agenda) and the words fetched ahead are the model's choices of log entries 2 and 49; the machine check of a
lost request, log entry 69. -/
def Obligations.StepRunsTheDecodedInstruction : Prop :=
  ∀ (s : State) (m : Move) (rest : List Move),
    s.agenda = m :: rest → m.act = .instr →
    let u := ({ s with agenda := rest } : State).focus m.core m.bank m.hart
    u.lostRequest = none → (u.hart = .acc → u.eventDue = false) → u.issues = true →
    (∀ i, u.midOp = some i → step s = exec i u) ∧
    (u.midOp = none →
    let acts (w : Word) (t : State) : Prop :=
      (∀ i, decode w = .ok i → step s = exec i t) ∧
      (CanTrap t →
        (decode w = .illegal → ∃ v, step s = .next v ∧ Entered t v 0x00 0#64 w u.pc u.pc) ∧
        (decode w = .pairing → ∃ v x y, step s = .next v ∧ parseP w = some (.pFormPair x y) ∧
          Entered t v (if (slotIsFloat x || slotIsFloat y) = true ∧ t.hart = .acc then 0x00 else 0x01) 0#64 w u.pc u.pc))
    (∀ ps t, (∀ c ∈ u.hs.ibuf, c.1 ≠ u.pc.toNat) → u.xlAll (u.req .fetch) u.pc 8 = (.ok ps, t) → t.badPiece ps = none →
      acts (BitVec.ofNat 64 (ofBytes (t.ctxBytes ps))) t) ∧
    ∀ w, (∃ c ∈ u.hs.ibuf, c.1 = u.pc.toNat) → Sparse.get 0#64 u.hs.ibuf u.pc.toNat = w → acts w u)

/-! ## Scalar integer -/

/-- 14 R291, R289: each operation on the low bits of its operands, extended to the register. -/
def Sys2Proof.Claims.IntegerResultsAreBitVectorOperations : Prop :=
  ∀ (op : IOp) (t : Ty) (a b : Word), t.isInt = true →
    intResult op t a b = extBits t (intBits op (lowBits t a) (lowBits t b))

/-- 14 R291: the twenty-one instructions of two integer sources complete on either hart, write xd and nothing else. -/
def Sys2Proof.Claims.IntegerInstructionsComplete : Prop :=
  ∀ (i : Instr) (op : IOp) (o : IntArgs) (s : State), intOf i = some (op, o) → s.ready (o.a :: srcRegs o.b) [o.d] = true →
    Writes i s o.d (intResult op o.t (s.x o.a) (s.src o.b))

/-- 14 R289, R291: the twenty-one instructions of two integer sources complete on either hart and write xd and nothing else, with the
operation of the rule on the low bits of their operands, extended to the register. -/
def Obligations.IntegerInstructionsWriteTheirResult : Prop :=
  IntegerResultsAreBitVectorOperations ∧ IntegerInstructionsComplete

/-- 14 R292: the division members in each case of their operands, with the examples of the rule. -/
def Obligations.DivisionCoversEveryCase : Prop :=
  (∀ (t : Ty) (a b : Word), t.isInt = true →
    let w := t.width
    let x := lowBits t a
    let y := lowBits t b
    let ordinary := y ≠ 0 ∧ ¬(x = BitVec.intMin w ∧ y = BitVec.allOnes w)
    (y = 0 →
      intResult .div t a b = extBits t (BitVec.allOnes w) ∧ intResult .divn t a b = extBits t (BitVec.allOnes w) ∧
      intResult .rem t a b = extBits t x ∧ intResult .remn t a b = extBits t x) ∧
    (x = BitVec.intMin w → y = BitVec.allOnes w →
      intResult .div t a b = extBits t (BitVec.intMin w) ∧ intResult .rem t a b = 0) ∧
    (ordinary →
      intResult .div t a b = extBits t (BitVec.ofInt w (x.toInt.tdiv y.toInt)) ∧
      intResult .rem t a b = extBits t (BitVec.ofInt w (x.toInt.tmod y.toInt))) ∧
    (y ≠ 0 →
      intResult .divn t a b = extBits t (BitVec.ofNat w (x.toNat / y.toNat)) ∧
      intResult .remn t a b = extBits t (BitVec.ofNat w (x.toNat % y.toNat)))) ∧
  intResult .div .i8 0x80#64 0xFF#64 = 0xFFFFFFFFFFFFFF80#64 ∧ intResult .div .n8 0x80#64 0xFF#64 = 0x80#64 ∧
  intResult .divn .n8 0x80#64 0xFF#64 = 0#64 ∧ intResult .rem .n32 7#64 0#64 = 7#64

/-- 14 R293: `clz`, `ctz`, `pop` and `bswap` complete, with the counts and the reversal that the rule names. -/
def Sys2Proof.Claims.CountsAndByteReversal : Prop :=
  ∀ (o : UnArgs) (s : State), o.t.isInt = true → s.ready [o.a] [o.d] = true →
    let w := o.t.width
    let x := lowBits o.t (s.x o.a)
    (∃ n ≤ w, Writes (.clz o) s o.d (BitVec.ofNat 64 n) ∧ (∀ i < n, x.getMsbD i = false) ∧ (n < w → x.getMsbD n = true)) ∧
    (∃ n ≤ w, Writes (.ctz o) s o.d (BitVec.ofNat 64 n) ∧ (∀ i < n, x.getLsbD i = false) ∧ (n < w → x.getLsbD n = true)) ∧
    Writes (.pop o) s o.d (BitVec.ofNat 64 ((List.range w).countP fun i => x.getLsbD i)) ∧
    (∃ r : BitVec w, Writes (.bswap o) s o.d (extBits o.t r) ∧
      ∀ k < w / 8, r.extractLsb' (8 * k) 8 = x.extractLsb' (w - 8 - 8 * k) 8)

/-- 14 R294 to R296: `cmp`, `sel` and the constants complete on either hart with the values that the rules give. -/
def Sys2Proof.Claims.CompareSelectAndConstants : Prop :=
  (∀ (cc : Icc) (o : IntArgs) (s : State), cc.isCmp = true → o.t.isInt = true → s.ready (o.a :: srcRegs o.b) [o.d] = true →
    Writes (.cmp cc o) s o.d (if cmpBits cc o.t.isSigned (lowBits o.t (s.x o.a)) (lowBits o.t (s.src o.b)) then 1#64 else 0#64)) ∧
  (∀ (t : Ty) (d a b c : Reg) (s : State), s.ready [a, b, c] [d] = true →
    Writes (.sel t d a b c) s d (extBits t (lowBits t (if s.x c ≠ 0#64 then s.x a else s.x b)))) ∧
  (∀ (d : Reg) (i : BitVec 48) (s : State), s.ready [] [d] = true →
    Writes (.li d i) s d (i.signExtend 64) ∧ Writes (.lea d i) s d (s.pc + i.signExtend 64)) ∧
  (∀ (d : Reg) (i : BitVec 16) (s : State), s.ready [d] [d] = true → Writes (.lih d i) s d (i ++ (s.x d).extractLsb' 0 48))

/-- 14 R293 to R296: `clz`, `ctz`, `pop`, `bswap`, `cmp`, `sel` and the constants complete on either hart with the values that the rules give. -/
def Obligations.CountsComparesAndConstants : Prop :=
  CountsAndByteReversal ∧ CompareSelectAndConstants

/-! ## Scalar float -/

/-- 14 R297 to R301, 06 R141: on the execute hart, with no enabled flag among those raised, the result goes to xd and the flags join
the hart's own copy of FSTAT. -/
def Sys2Proof.Claims.FloatInstructionsWriteResultAndFlags : Prop :=
  ∀ (i : Instr) (s : State) (rs : List Reg) (d : Reg) (w : Word) (fl : BitVec 8), floatOf s i = some (rs, d, w, fl) →
    s.hart = .exe → s.ready rs [d] = true → trapping s.ctx.sr.fctl fl = false → WritesFlags i s d w fl

/-- 14 R297, 06 R142: an enabled flag takes the FP trap, TINFO holds the flags, and neither xd nor FSTAT changes. -/
def Sys2Proof.Claims.EnabledFloatFlagTraps : Prop :=
  ∀ (i : Instr) (s : State) (rs : List Reg) (d : Reg) (w : Word) (fl : BitVec 8), floatOf s i = some (rs, d, w, fl) →
    s.hart = .exe → s.ready rs [d] = true → trapping s.ctx.sr.fctl fl = true → Traps i s 0x0A 0#64 (BitVec.ofNat 64 (fl.toNat % 32))

/-- 14 R302: `fcls` writes a mask with exactly one bit set, by the class of its operand, and sets no flag. -/
def Sys2Proof.Claims.FclsNamesTheClass : Prop :=
  ∀ (o : UnArgs) (s : State), o.t.isFloat = true → s.hart = .exe → s.ready [o.a] [o.d] = true →
    Writes (.fcls o) s o.d (1#64 <<< classBit o.t (lowBits o.t (s.x o.a)).toNat)

/-- 14 R303: `fsgn` copies the low w − 1 bits of xa, forms the sign, and sets no flag. -/
def Sys2Proof.Claims.FsgnCopiesAndSigns : Prop :=
  ∀ (op : SgnOp) (t : Ty) (d a b : Reg) (s : State), t.isFloat = true → s.hart = .exe → s.ready [a, b] [d] = true →
    let x := lowBits t (s.x a)
    let y := lowBits t (s.x b)
    let sign := match op with
      | .inj => y.msb
      | .injn => !y.msb
      | .injx => x.msb != y.msb
    Writes (.fsgn op t d a b) s d (BitVec.ofNat 64 ((if sign then 2 ^ (t.width - 1) else 0) + x.toNat % 2 ^ (t.width - 1)))

/-- 06 R135, R139, R143: a finite value of a format is delivered as itself under every rounding, and raises nothing. -/
def Sys2Proof.Claims.FiniteValuesRoundToThemselves : Prop :=
  ∀ (t : Ty) (rm : Rm) (sat : Bool) (n : Nat), (t.isFloat = true ∨ t = .fp4) → n < 2 ^ t.width →
    (∃ neg m e, (ffmt t).decode n = .fin neg m e) → (ffmt t).give rm sat ((ffmt t).decode n) = (n, 0#8)

/-- 06 R139, R143: an exact value is delivered rounded once. -/
def Sys2Proof.Claims.ExactValuesRoundOnce : Prop :=
  ∀ (t : Ty) (rm : Rm) (sat neg : Bool) (m : Nat) (e : Int), t.isFloat = true ∨ t = .fp4 →
    Delivered t rm sat neg (numVal (.fin neg m e)) ((ffmt t).give rm sat (.fin neg m e))

/-- 14 R297, 06 R139: of finite operands, the sum, difference and product, and the product with a sum, are the exact value rounded once;
an exact zero has the sign that its terms share, else + under every mode but RDN. -/
def Sys2Proof.Claims.ArithmeticRoundsTheExactValue : Prop :=
  ∀ (f : FFmt) (rm : Rm) (sat : Bool) (a b c : Nat) (na nb nc : Bool) (ma mb mc : Nat) (ea eb ec : Int),
    f.decode a = .fin na ma ea → f.decode b = .fin nb mb eb → f.decode c = .fin nc mc ec →
    let x := numVal (.fin na ma ea)
    let y := numVal (.fin nb mb eb)
    let z := numVal (.fin nc mc ec)
    let sum (r : FRes) (v : ℚ) (n k : Bool) : Prop := ∃ neg m e, r = f.give rm sat (.fin neg m e) ∧ numVal (.fin neg m e) = v ∧
      (v = 0 → neg = if n = k then n else decide (rm = .rdn))
    sum (f.add rm sat a b) (x + y) na nb ∧ sum (f.sub rm sat a b) (x - y) na (!nb) ∧
    (∃ m e, f.mul rm sat a b = f.give rm sat (.fin (na != nb) m e) ∧ numVal (.fin (na != nb) m e) = x * y) ∧
    sum (f.fma rm sat a b c) (x * y + z) (na != nb) nc

/-- 06 R135, R136: the value that a code of a format encodes, from its sign, exponent and fraction fields. -/
def Sys2Proof.Claims.FormatsDecodeTheirFields : Prop :=
  ∀ (t : Ty) (n : Nat), t.isFloat = true ∨ t = .fp4 → n < 2 ^ t.width →
    let ew := match t with
      | .f64 => 11 | .bf16 => 8 | .f16 | .e5m2 => 5 | .e4m3 => 4 | .fp4 => 2 | _ => 8
    let mw := t.width - 1 - ew
    let bias : Int := 2 ^ (ew - 1) - 1
    let neg := n.testBit (t.width - 1)
    let ex := n / 2 ^ mw % 2 ^ ew
    let fr := n % 2 ^ mw
    let x := (ffmt t).decode n
    (t = .e4m3 → n % 128 = 127 → x = .nan false) ∧
    (t ≠ .e4m3 → t ≠ .fp4 → ex = 2 ^ ew - 1 → x = if fr = 0 then .inf neg else .nan (!fr.testBit (mw - 1))) ∧
    ((t = .e4m3 → n % 128 ≠ 127) → (t ≠ .e4m3 → t ≠ .fp4 → ex ≠ 2 ^ ew - 1) → ∃ m e, x = .fin neg m e ∧
      (m : ℚ) * 2 ^ e = if ex = 0 then (fr : ℚ) * 2 ^ (1 - bias - mw) else (1 + (fr : ℚ) / 2 ^ mw) * 2 ^ (ex - bias))

/-- 14 R297, 06 R137, R143: of finite operands the quotient and the root are the exact value rounded once; and what the sum, difference,
product, quotient and root of a NaN, an infinity or a zero divisor are. -/
def Sys2Proof.Claims.QuotientsRootsAndSpecialOperands : Prop :=
  ∀ (t : Ty) (rm : Rm) (sat : Bool) (a b c : Nat), t.isFloat = true → (sat = true → t.isFp8 = true) →
    let f := ffmt t
    let x := f.decode a
    let y := f.decode b
    let z := f.decode c
    let nan2 (r : FRes) : Prop := x.isNan = true ∨ y.isNan = true → r = nanResult t (x.isSig || y.isSig)
    let fin (x : Machine.Num) : Prop := x.isNan = false ∧ x.isInf = false
    let div := f.div rm sat a b
    let sqrt := f.sqrt rm sat a
    nan2 div ∧
    (fin x → fin y → y.isZero = false → Delivered t rm sat (x.isNeg != y.isNeg) ((numVal x / numVal y : ℚ) : ℝ) div) ∧
    ((x.isZero = true ∧ y.isZero = true) ∨ (x.isInf = true ∧ y.isInf = true) → div = nanResult t true) ∧
    (x.isInf = true → fin y → div = infResult t sat (x.isNeg != y.isNeg)) ∧
    (fin x → y.isInf = true → div = (if x.isNeg != y.isNeg then 2 ^ (t.width - 1) else 0, 0#8)) ∧
    (fin x → x.isZero = false → y.isZero = true →
      div = ((infResult t sat (x.isNeg != y.isNeg)).1, (infResult t sat (x.isNeg != y.isNeg)).2 ||| Flag.dz)) ∧
    (x.isNan = true → sqrt = nanResult t x.isSig) ∧
    (x.isZero = true → sqrt = (if x.isNeg then 2 ^ (t.width - 1) else 0, 0#8)) ∧
    (x.isNan = false → x.isZero = false → x.isNeg = true → sqrt = nanResult t true) ∧
    (x = .inf false → sqrt = infResult t sat false) ∧
    (fin x → x.isZero = false → x.isNeg = false → Delivered t rm sat false (Real.sqrt (numVal x : ℝ)) sqrt) ∧
    nan2 (f.add rm sat a b) ∧ nan2 (f.sub rm sat a b) ∧ nan2 (f.mul rm sat a b) ∧
    (x.isInf = true → y.isInf = true → f.add rm sat a b = (if x = y then infResult t sat x.isNeg else nanResult t true) ∧
      f.sub rm sat a b = (if x = y then nanResult t true else infResult t sat x.isNeg)) ∧
    (x.isInf = true → fin y → f.add rm sat a b = infResult t sat x.isNeg ∧ f.sub rm sat a b = infResult t sat x.isNeg) ∧
    (fin x → y.isInf = true → f.add rm sat a b = infResult t sat y.isNeg ∧ f.sub rm sat a b = infResult t sat (!y.isNeg)) ∧
    ((x.isInf = true ∧ y.isZero = true) ∨ (x.isZero = true ∧ y.isInf = true) →
      f.mul rm sat a b = nanResult t true ∧ f.fma rm sat a b c = nanResult t true) ∧
    ((x.isInf = true ∧ y.isNan = false ∧ y.isZero = false) ∨ (x.isNan = false ∧ x.isZero = false ∧ y.isInf = true) →
      f.mul rm sat a b = infResult t sat (x.isNeg != y.isNeg) ∧ (z.isNan = false → f.fma rm sat a b c =
        if z.isInf = true ∧ z.isNeg ≠ (x.isNeg != y.isNeg) then nanResult t true else infResult t sat (x.isNeg != y.isNeg))) ∧
    (fin x → fin y → z.isInf = true → f.fma rm sat a b c = infResult t sat z.isNeg) ∧
    (x.isNan = true ∨ y.isNan = true ∨ z.isNan = true → (f.fma rm sat a b c).1 = canonicalNan t ∧
      (f.fma rm sat a b c).2 = if x.isSig || y.isSig || z.isSig || (x.isInf && y.isZero) || (x.isZero && y.isInf) then Flag.nv else 0#8)

/-- 14 R299, R300: `fmin` and `fmax` return one of their operands, the canonical NaN of two NaNs, and order the zeros; the relations of `fcmp`,
and which of them raise NV. -/
def Sys2Proof.Claims.MinimaMaximaAndComparisons : Prop :=
  ∀ (t : Ty) (a b : Nat), t.isFloat = true → a < 2 ^ t.width → b < 2 ^ t.width →
    let f := ffmt t
    let x := f.decode a
    let y := f.decode b
    let un := x.isNan || y.isNan
    let sig := if x.isSig || y.isSig then Flag.nv else 0#8
    (∀ hi, let r := f.minmax hi a b
      r.2 = sig ∧ (x.isNan = true → y.isNan = true → r.1 = canonicalNan t) ∧ (x.isNan = true → y.isNan = false → r.1 = b) ∧
      (x.isNan = false → y.isNan = true → r.1 = a) ∧
      (un = false → (r.1 = a ∨ r.1 = b) ∧
        (hi = false → extVal (f.decode r.1) ≤ extVal x ∧ extVal (f.decode r.1) ≤ extVal y ∧
          (extVal x = extVal y → r.1.testBit (t.width - 1) = (a.testBit (t.width - 1) || b.testBit (t.width - 1)))) ∧
        (hi = true → extVal x ≤ extVal (f.decode r.1) ∧ extVal y ≤ extVal (f.decode r.1) ∧
          (extVal x = extVal y → r.1.testBit (t.width - 1) = (a.testBit (t.width - 1) && b.testBit (t.width - 1)))))) ∧
    ∀ cc, ((f.compare cc a b).1 = true ↔ match cc with
        | .eq => un = false ∧ extVal x = extVal y
        | .ne => un = true ∨ extVal x ≠ extVal y
        | .lt => un = false ∧ extVal x < extVal y
        | .ge => un = false ∧ extVal y ≤ extVal x
        | .le => un = false ∧ extVal x ≤ extVal y
        | .gt => un = false ∧ extVal y < extVal x
        | .un => un = true
        | .or => un = false) ∧
      (f.compare cc a b).2 = match cc with
        | .lt | .ge | .le | .gt => if un then Flag.nv else 0#8
        | .eq | .ne | .un | .or => sig

/-- 14 R301, 06 R143, R144: a conversion from a float to a float and from an integer rounds the exact value once; one to an integer rounds and
then clamps with NV; a NaN and an infinity. -/
def Sys2Proof.Claims.ConversionsRoundAndClamp : Prop :=
  ∀ (d s : Ty) (rm : Rm) (sat : Bool) (a : Nat), (sat = true → d.isFp8 = true) → a < 2 ^ s.width →
    let r := convert d s rm sat a
    let x := (ffmt s).decode a
    let floatD : Prop := d.isFloat = true ∨ d = .fp4
    let floatS : Prop := s.isFloat = true ∨ s = .fp4
    let lo : Int := if d.isSigned then -2 ^ (d.width - 1) else 0
    let hi : Int := if d.isSigned then 2 ^ (d.width - 1) - 1 else 2 ^ d.width - 1
    let int (k : Int) : Nat := (BitVec.ofInt d.width k).toNat
    (s.isInt = true → floatD → let v : Int := if s.isSigned then (BitVec.ofNat s.width a).toInt else a
      Delivered d rm sat (decide (v < 0)) (v : ℝ) r) ∧
    (floatS → floatD → (∀ sig, x = .nan sig → r = nanResult d sig) ∧ (∀ neg, x = .inf neg → r = infResult d sat neg) ∧
      ∀ neg m e, x = .fin neg m e → Delivered d rm sat neg (numVal x : ℝ) r) ∧
    (floatS → d.isInt = true → (∀ sig, x = .nan sig → r = (0, Flag.nv)) ∧
      (∀ neg, x = .inf neg → r = (int (if neg then lo else hi), Flag.nv)) ∧
      ∀ neg m e, x = .fin neg m e → ∃ k, RoundsToInt rm (numVal x) k ∧
        r = if k < lo then (int lo, Flag.nv) else if hi < k then (int hi, Flag.nv)
          else (int k, if (k : ℚ) = numVal x then 0#8 else Flag.nx))

/-- 14 R297 to R303, 06 R135 to R143: a scalar float instruction writes its result and raises its flags, or takes FP when one of them is
enabled; `fcls` and `fsgn` read the fields of their operand; a finite value of a format rounds to itself; sums, products, quotients and
roots of finite operands, those of the vector entries too, are the exact value rounded once; minima, maxima, comparisons and conversions,
and NaN, infinities and zeros. That `fmin` and `fmax` of .e5m2 return an infinity under SAT is the model's choice (log entry 87). -/
def Obligations.FloatInstructionsCompleteOrTrap : Prop :=
  FloatInstructionsWriteResultAndFlags ∧ EnabledFloatFlagTraps ∧ FclsNamesTheClass ∧ FsgnCopiesAndSigns ∧ FiniteValuesRoundToThemselves ∧
  ExactValuesRoundOnce ∧ ArithmeticRoundsTheExactValue ∧ FormatsDecodeTheirFields ∧ QuotientsRootsAndSpecialOperands ∧
  MinimaMaximaAndComparisons ∧ ConversionsRoundAndClamp

/-! ## Control, queues, state -/

/-- 14 R304, R308: the branches, calls and jumps go to their target or to the next word; `call` and `jcall` write x31, read before. -/
def Obligations.BranchesGoToTheirTarget : Prop :=
  (∀ (i : BitVec 48) (s : State), Jumps (.b i) s (s.pc + 8#64 * i.signExtend 64)) ∧
  (∀ (cc : Icc) (a b : Reg) (i : BitVec 14) (s : State), s.ready [a, b] [] = true →
    let signed := match cc with
      | .ltn | .gen | .len | .gtn => false
      | .eq | .ne | .lt | .ge | .le | .gt => true
    Jumps (.bcc cc a b i) s (if cmpBits cc signed (s.x a) (s.x b) then s.pc + 8#64 * i.signExtend 64 else s.pc + 8#64)) ∧
  (∀ (a : Reg) (i : BitVec 14) (s : State), s.ready [a] [] = true →
    Jumps (.bz a i) s (if s.x a = 0#64 then s.pc + 8#64 * i.signExtend 64 else s.pc + 8#64) ∧
    Jumps (.bnz a i) s (if s.x a = 0#64 then s.pc + 8#64 else s.pc + 8#64 * i.signExtend 64)) ∧
  (∀ (i : BitVec 48) (s : State), s.ready [] [31#5] = true →
    ∃ t, exec (.call i) s = .next t ∧ Wrote s t 31#5 (s.pc + 8#64) ∧ t.pc = s.pc + 8#64 * i.signExtend 64 ∧ t.hs.fstat = s.hs.fstat) ∧
  (∀ (s : State), s.ready [31#5] [] = true → (s.x 31#5).toNat % 8 = 0 → Jumps .ret s (s.x 31#5)) ∧
  (∀ (a : Reg) (s : State), s.ready [a] [] = true → (s.x a).toNat % 8 = 0 → Jumps (.jr a) s (s.x a)) ∧
  (∀ (a : Reg) (s : State), s.ready [a] [31#5] = true → (s.x a).toNat % 8 = 0 →
    ∃ t, exec (.jcall a) s = .next t ∧ Wrote s t 31#5 (s.pc + 8#64) ∧ t.pc = s.x a ∧ t.hs.fstat = s.hs.fstat) ∧
  ∀ (s : State), Jumps .nop s (s.pc + 8#64)

/-- 13 R287: a jump to a misaligned target takes ALIGN at the jump, with the target, the size 8 and x31 as it was. -/
def Obligations.MisalignedJumpTrapsAlign : Prop :=
  (∀ (a : Reg) (s : State), (s.x a).toNat % 8 ≠ 0 →
    (s.ready [a] [] = true → Traps (.jr a) s 0x06 (s.x a) 8#64) ∧ (s.ready [a] [31#5] = true → Traps (.jcall a) s 0x06 (s.x a) 8#64)) ∧
  ∀ (s : State), (s.x 31#5).toNat % 8 ≠ 0 → s.ready [31#5] [] = true → Traps .ret s 0x06 (s.x 31#5) 8#64

/-- 08 R172: an instruction that reaches a hart not listed for it is ILLEGAL, with its word in TINFO. -/
def Obligations.InstructionOfTheOtherHartIsIllegal : Prop :=
  ∀ (i : Instr) (s : State), (exeOnly i = true ∧ s.hart = .acc) ∨ (accOnly i = true ∧ s.hart = .exe) → Traps i s 0x00 0#64 i.encode

/-- 14 R305, 08 R174, R175: the queue instructions from the side that QDIR allows, with room or with an entry. A write first
releases at core scope, and what waits for the queue in `idle` on the other hart goes on. -/
def Sys2Proof.Claims.QueueInstructionsMoveEntries : Prop :=
  (∀ (q : Idx3) (a : Reg) (s : State), s.ready [a] [] = true → s.ctx.qWriter q = s.hart → (s.queue q).length < 32 → s.drained = true →
    let r := ((s.releaseBy .core).leaveKey s.party).2
    Learns (s.releaseBy .core) r ∧
    ∃ t, exec (.qwr q a) s = .next t ∧ t.queue q = s.queue q ++ [s.x a] ∧ (∀ p, p ≠ q → t.queue p = s.queue p) ∧
      t = { r with ctx := { r.ctx with q := t.ctx.q, qk := t.ctx.qk, ah := t.ctx.ah, xh := t.ctx.xh } } ∧ SameMemory r t ∧
      t.hs = { s.hs with pc := s.pc + 8#64, wait := .none } ∧ t.ctx.hs s.hart.other = (s.ctx.hs s.hart.other).wake ∧
      (s.ctx.strip = none → SameMemory s t)) ∧
  (∀ (d : Reg) (q : Idx3) (w : Word) (l : List Word) (s : State), s.ready [] [d] = true → s.ctx.qWriter q = s.hart.other →
    s.queue q = w :: l →
    ∃ r t, Learns { s with ctx := { s.ctx with q := r.ctx.q, qk := r.ctx.qk } } r ∧ exec (.qrd d q) s = .next t ∧
      t.queue q = l ∧ (∀ p, p ≠ q → t.queue p = s.queue p) ∧ Wrote r t d w ∧ GoesOn s t) ∧
  (∀ (nz cons : Bool) (q : Idx3) (i : BitVec 14) (w : Word) (l : List Word) (s : State),
    (cons = true → s.ctx.qWriter q = s.hart.other) → s.queue q = w :: l →
    ∃ r t, Learns { s with ctx := { s.ctx with q := r.ctx.q, qk := r.ctx.qk } } r ∧ exec (.bq nz cons q i) s = .next t ∧
      t.queue q = (if cons then l else w :: l) ∧ (∀ p, p ≠ q → t.queue p = s.queue p) ∧
      Kept r t ∧ t.hs.fstat = s.hs.fstat ∧
      t.pc = if (if nz then w ≠ 0#64 else w = 0#64) then s.pc + 8#64 * i.signExtend 64 else s.pc + 8#64) ∧
  ∀ (d : Reg) (q : Idx3) (s : State), s.ready [] [d] = true → Writes (.qlvl d q) s d (BitVec.ofNat 64 (s.queue q).length)

/-- The queue that an instruction of the hart in focus stalls on, and whether it is full or else empty (08 R175). -/
def Sys2Proof.Claims.stallsOn (s : State) : Instr → Option (Idx3 × Bool)
  | .qwr q a => if s.ready [a] [] ∧ s.ctx.qWriter q = s.hart ∧ (s.queue q).length = 32 then some (q, true) else none
  | .qrd d q => if s.ready [] [d] ∧ s.ctx.qWriter q ≠ s.hart ∧ s.queue q = [] then some (q, false) else none
  | .bq _ cons q _ => if (cons = true → s.ctx.qWriter q ≠ s.hart) ∧ s.queue q = [] then some (q, false) else none
  | _ => none

/-- 08 R175: a queue used from the wrong side is QUEUE_ILLEGAL. `qwr` on a full queue and `qrd` or `bq` on an empty one stall the hart,
which nothing else does. Where the other hart has stopped or is in its `end`, the stalled hart takes QUEUE_ILLEGAL; where it stands still
on a queue too, the execute hart does, whichever of the two stalls last, and TINFO names both queues. -/
def Sys2Proof.Claims.QueueMisuseAndDeadlock : Prop :=
  (∀ (q : Idx3) (a d : Reg) (nz : Bool) (i : BitVec 14) (s : State),
    let wrong := BitVec.ofNat 64 (q.toNat + 8)
    (s.ready [a] [] = true → s.ctx.qWriter q ≠ s.hart → Traps (.qwr q a) s 0x12 0#64 wrong) ∧
    (s.ready [] [d] = true → s.ctx.qWriter q = s.hart → Traps (.qrd d q) s 0x12 0#64 wrong) ∧
    (s.ctx.qWriter q = s.hart → Traps (.bq nz true q i) s 0x12 0#64 wrong)) ∧
  ∀ (i : Instr) (q p : Idx3) (full : Bool) (s : State), stallsOn s i = some (q, full) →
    let other := s.ctx.hs s.hart.other
    let stalls := exec i s = .next (s.setWait (.queue q full))
    (other.run ≠ .stopped → other.wait ≠ .ending → s.stuckOn s.hart.other = none → stalls) ∧
    (other.run = .stopped ∨ (other.run = .running ∧ other.wait = .ending) →
      Traps i s 0x12 0#64 (BitVec.ofNat 64 (q.toNat + 128))) ∧
    (s.hart = .exe → s.stuckOn .acc = some p → Traps i s 0x12 0#64 (BitVec.ofNat 64 (q.toNat + 16 * p.toNat))) ∧
    (s.hart = .acc → s.stuckOn .exe = some p → s.ctx.v.vq ≠ [] → stalls) ∧
    (s.hart = .acc → s.stuckOn .exe = some p → s.ctx.v.vq = [] →
      let t : Trap := { cause := 0x12, addr := 0#64, info := BitVec.ofNat 64 (p.toNat + 16 * q.toNat) }
      exec i s = .next ((s.takeTrap .exe t s.ctx.xh.pc s.ctx.xh.pc false).setWait (.queue q full)))

/-- 14 R305, 08 R174, R175: the queue instructions, their misuse, and the deadlock of the two harts. -/
def Obligations.QueueInstructionsAndDeadlock : Prop :=
  QueueInstructionsMoveEntries ∧ QueueMisuseAndDeadlock

/-- 14 R306, 08 R177, R181: an accepted access of a state register: the value read goes to xd, the value written takes its place. -/
def Sys2Proof.Claims.StateRegisterAccesses : Prop :=
  ∀ (d a : Reg) (r : Srn) (s : State), (r = .fstat → s.drained = true) →
    (s.ready [] [d] = true → Writes (.sget d r) s d (s.readReg r)) ∧
    (s.writePriv r = false → s.writeOk r (s.x a) = true →
      (s.ready [a] [] = true → exec (.sset r a) s = .next ((s.writeReg r (s.x a)).advance.setWait .none)) ∧
      (s.ready [a] [d] = true →
        exec (.sxchg d r a) s = .next (((s.writeReg r (s.x a)).setX d (s.readReg r)).advance.setWait .none)))

/-- 14 R306, R307: a register that accepts a value reads back as that value, every other one reads as before, but for the VL that a
write of VTYPE fits to it (08 R177), and nothing else of the machine changes. -/
def Sys2Proof.Claims.StateWriteReadsBack : Prop :=
  ∀ (s : State) (r : Srn) (w : Word), s.writePriv r = false → s.writeOk r w = true →
    let t := s.writeReg r w
    t.readReg r = w ∧ (∀ q, q ≠ r → ¬(r = .vtype ∧ q = .vl) → t.readReg q = s.readReg q) ∧
    (r = .vtype → t.ctx.v.vl = formVl (w.extractLsb' 0 8) s.ctx.v.vl) ∧
    OnlyCtx s t ∧
    t.ctx = { s.ctx with ah := t.ctx.ah, xh := t.ctx.xh, sr := t.ctx.sr,
                         v := { s.ctx.v with vl := t.ctx.v.vl, rc := t.ctx.v.rc, vtype := t.ctx.v.vtype, lfstat := t.ctx.v.lfstat } } ∧
    t.pc = s.pc ∧ ∀ x, t.x x = s.x x

/-- 14 R306, 11 R237, 13 R285: a refused write is PRIV for the hart, the mode or the field, whatever its operand waits for, else ILLEGAL for the value, or for QDIR
QUEUE_ILLEGAL; nothing is written. -/
def Sys2Proof.Claims.RefusedStateWritesTrap : Prop :=
  ∀ (d a : Reg) (r : Srn) (s : State),
    (s.writePriv r = true → Traps (.sset r a) s 0x02 0#64 (Instr.sset r a).encode ∧
      Traps (.sxchg d r a) s 0x02 0#64 (Instr.sxchg d r a).encode) ∧
    (s.ready [a] [d] = true →
      (s.writePriv r = false → s.writeOk r (s.x a) = false → r ≠ .qdir →
        Traps (.sset r a) s 0x00 0#64 (Instr.sset r a).encode ∧ Traps (.sxchg d r a) s 0x00 0#64 (Instr.sxchg d r a).encode) ∧
      (s.writeOk .qdir (s.x a) = false → Traps (.sset .qdir a) s 0x12 0#64 0x100#64))

/-- 14 R306, R307, 08 R177, 11 R237: the state registers: accepted accesses, what a write leaves, and the traps of refused writes. -/
def Obligations.StateRegistersReadWriteAndRefuse : Prop :=
  StateRegisterAccesses ∧ StateWriteReadsBack ∧ RefusedStateWritesTrap

/-- 13 R281 to R283: a P-form word of two slots that compute: both read the registers as they were, and both results are written;
one with a slot that accesses memory, a queue or the pc, which happens as the instruction that the slot names; and one with a slot that is
a nop, where the other alone acts. -/
def Obligations.PairRunsBothSlots : Prop :=
  ∀ (x y : Slot) (s : State), ((slotIsFloat x || slotIsFloat y) = true → s.hart = .exe) →
    s.ready (slotReads x ++ slotReads y) (x.dest.toList ++ y.dest.toList) = true → slotTrap s x = none → slotTrap s y = none →
    (∀ d w f e v g, slotValue s x = some (d, w, f) → slotValue s y = some (e, v, g) → d ≠ e →
      ∃ t, exec (.pFormPair x y) s = .next t ∧ OnlyHart s t ∧ t.pc = s.pc + 8#64 ∧ t.hs.fstat = s.hs.fstat ||| f ||| g ∧
        (∀ r, t.x r = if r = d then w else if r = e then v else s.x r) ∧
        ∀ r row, r < 32 → row < 16 → row ≠ 0 ∨ (r ≠ d.toNat ∧ r ≠ e.toNat) → t.ctx.v.row r row = s.ctx.v.row r row) ∧
    (∀ d w f u, slotValue s x = some (d, w, f) → slotRun s y = some (.ok u) →
      exec (.pFormPair x y) s = .next (((u.orFlags f).setX d w).setWait .none)) ∧
    (∀ e v g u, slotRun s x = some (.ok u) → slotValue s y = some (e, v, g) →
      exec (.pFormPair x y) s = .next (((u.orFlags g).setX e v).setWait .none)) ∧
    (∀ d w f, slotValue s x = some (d, w, f) → y = .nop → WritesFlags (.pFormPair x y) s d w f) ∧
    (∀ d w f, slotValue s y = some (d, w, f) → x = .nop → WritesFlags (.pFormPair x y) s d w f) ∧
    (∀ u, slotRun s x = some (.ok u) → y = .nop → exec (.pFormPair x y) s = .next (u.setWait .none)) ∧
    (∀ u, slotRun s y = some (.ok u) → x = .nop → exec (.pFormPair x y) s = .next (u.setWait .none)) ∧
    (x = .nop → y = .nop → Jumps (.pFormPair x y) s (s.pc + 8#64))

/-! ## Vector: issue -/

namespace Sys2Proof.Claims

/-- What an instruction puts into the vector command queue (15 R309 to R333, 16 R337 to R342): whether the captured shape allows it,
the scalars it reads, its governing predicate and its operation. `mvsw`, `vspill` and `vfill` have statements of their own. -/
def queuedOf (s : State) : Instr → Option (Bool × List Reg × PReg × VOp)
  | .vadd o => int .add o | .vsub o => int .sub o | .vmul o => int .mul o | .vmac o => int .mac o | .vmin o => int .min o
  | .vmax o => int .max o | .vand o => int .and o | .vor o => int .or o | .vxor o => int .xor o | .vshl o => int .shl o
  | .vshr o => int .shr o | .vsra o => int .sra o
  | .vabs t pg d a => some (v.fits t, [], pg, .int .abs t d a (.vec a))
  | .vcmp cc t pg d a b => some (v.fits t && v.oneRow, vsrcRegs b, pg, .icmp cc t d a (s.vsrc b))
  | .vsel o => some (v.fits o.t, vsrcRegs o.b, o.pg, .sel o.t o.d o.a (s.vsrc o.b))
  | .vbcast t pg d (.elem a i) => some (v.fits t && decide (i.toNat < vtMax v.vtype), [], pg, .bcastElem t d a i.toNat)
  | .vbcast t pg d (.scal r) => some (v.fits t, [r], pg, .bcastVal t d (s.x r))
  | .vidx t pg d i => some (v.fits t, [], pg, .idx t d i.toInt)
  | .vperm t pg d a b => some (v.fits t, [], pg, .perm t d a b)
  | .vslide t pg d a (.imm i) => some (v.fits t, [], pg, .slide t d a i.toInt)
  | .vslide t pg d a (.scal r) => some (v.fits t, [r], pg, .slide t d a (s.x r).toInt)
  | .vred op t pg d a => some (v.fits t, [], pg, .red op t d a)
  | .vscan op t pg d a => some (v.fits t, [], pg, .scan op t d a)
  | .vfadd o => flt .add o 0#5 | .vfsub o => flt .sub o 0#5 | .vfmul o => flt .mul o 0#5 | .vfma o c => flt .fma o c
  | .vfmin o => flt .min o 0#5 | .vfmax o => flt .max o 0#5 | .vfdiv o => flt .div o 0#5
  | .vfsqrt o => some (v.fits o.t, [], o.pg, .flt .sqrt o.t o.rm o.sat o.d o.a (.vec o.a) o.a)
  | .vfrsq o => some (v.fits o.t, [], o.pg, .flt .rsq o.t o.rm o.sat o.d o.a (.vec o.a) o.a)
  | .vfcmp cc t pg d a b => some (v.fits t && v.oneRow, vsrcRegs b, pg, .fcmp cc t d a (s.vsrc b))
  | .vfcvt dt st rm sat pg d a => some (v.cvtFits dt st, [], pg, .fcvt dt st rm sat d a)
  | .vfred op t rm pg d a => some (v.fits t, [], pg, .fred op t rm d a)
  | .vscl w pg d a i =>
    some (v.scaleFits w i.toNat && (vtFmta v.vtype == 0 || vtFmta v.vtype == 1 || vtFmta v.vtype == 3), [], pg, .scl w d a i.toNat)
  | .vqnt n w rm sat pg d a x i => some (v.scaleFits w i.toNat && v.narrowFits n, [], pg, .qnt n w rm sat d a x i.toNat)
  | .vdqn w n rm pg d a x i => some (v.scaleFits w i.toNat && v.narrowFits n, [], pg, .dqn w n rm d a x i.toNat)
  | .vbpx k pg d a => some (v.fits k, [], pg, .bpx k.planes d a)
  | .plim d a => some (true, [a], 0#4, .plim d (s.x a))
  | .pand d a b => some (true, [], 0#4, .plog .and d a b)
  | .por d a b => some (true, [], 0#4, .plog .or d a b)
  | .pxor d a b => some (true, [], 0#4, .plog .xor d a b)
  | .pnot d a => some (true, [], 0#4, .plog .not d a a)
  | .pcnt d pg a => some (true, [], pg, .pcnt d a)
  | .pfirst d pg a => some (true, [], pg, .pfirst d a)
  | .mvgp o => mv2 .gp o | .mvwd o => mv2 .wd o | .mvjn o => mv2 .jn o | .mvlc o => mv2 .lc o
  | .mvrv op o => mv1 (match op with | .rev => .rev | .inv => .inv | .conj => .conj) o
  | .mvdl o => mv1 .dl o | .mvnm o => mv1 .nm o | .mvexp o => mv1 .exp o
  | .mvgmRd d a => some (true, [], 0#4, .gmRd d a)
  | .mvgmWr d k => some (true, [], 0#4, .gmWr d k)
  | .mvrowExt t pg d a r => some (v.fits t, [], pg, .rowExt t d a r.toNat)
  | .mvrowIns t pg d a r => some (v.fits t, [], pg, .rowIns t d a r.toNat)
  | .vld o ft => load (!ft || v.oneRow) .unit [] o ft
  | .vlds o ft b => load (!ft || v.oneRow) (.stride (s.x b)) [b] o ft
  | .vldg o ft nf => load (!ft || v.oneRow) (.seg (nf.toNat + 1)) [] o ft
  | .vgth o b => load v.oneRow (.index b) [] o false
  | .vst o => store true .unit [] o
  | .vsts o b => store true (.stride (s.x b)) [b] o
  | .vstg o nf => store true (.seg (nf.toNat + 1)) [] o
  | .vsct o b => store v.oneRow (.index b) [] o
  | .vsca o pg ord => some (v.fits o.t && v.oneRow, [o.m.a], pg, .sca o.t o.rm o.d o.m.sp (s.addr o.m) o.b o.ar ord)
  | .vamo op o pg ord => some (v.fits o.t && v.oneRow, [o.m.a], pg, .amo op o.t o.rm o.d o.m.sp (s.addr o.m) o.b o.ar ord)
  | .mvld o q => some (v.fits o.t, [o.m.a], o.pg, .mvLoad o.t o.d o.m.sp (s.addr o.m) o.ar o.ord q)
  | .mvst o q => some (v.fits o.t, [o.m.a], o.pg, .mvStore o.t o.d o.m.sp (s.addr o.m) o.ar o.ord q)
  | _ => none
where
  v : Vec := s.ctx.v
  int (op : VIntOp) (o : VArgs) : Option (Bool × List Reg × PReg × VOp) :=
    some (v.fits o.t, vsrcRegs o.b, o.pg, .int op o.t o.d o.a (s.vsrc o.b))
  flt (op : VFltOp) (o : VFArgs) (c : Reg) : Option (Bool × List Reg × PReg × VOp) :=
    some (v.fits o.t, vsrcRegs o.b, o.pg, .flt op o.t o.rm o.sat o.d o.a (s.vsrc o.b) c)
  mv2 (op : MvOp) (o : MvArgs) : Option (Bool × List Reg × PReg × VOp) := some (v.fits o.t, [], o.pg, .mv op o.t o.rm o.k o.d o.a o.b)
  mv1 (op : MvOp) (o : MvUnArgs) : Option (Bool × List Reg × PReg × VOp) := some (v.fits o.t, [], o.pg, .mv op o.t o.rm o.k o.d o.a o.a)
  load (ok : Bool) (sh : VShape) (rs : List Reg) (o : VMemArgs) (ft : Bool) : Option (Bool × List Reg × PReg × VOp) :=
    some (v.fits o.t && ok, o.m.a :: rs, o.pg, .load sh o.t o.d o.m.sp (s.addr o.m) o.ar o.ord ft)
  store (ok : Bool) (sh : VShape) (rs : List Reg) (o : VMemArgs) : Option (Bool × List Reg × PReg × VOp) :=
    some (v.fits o.t && ok, o.m.a :: rs, o.pg, .store sh o.t o.d o.m.sp (s.addr o.m) o.ar o.ord)

/-- One entry joins the vector command queue with the state captured (08 R179), the hart goes on, and nothing else happens. -/
def Queues (s t : State) (op : VOp) (pg : PReg) (leave : Option Nat) : Prop :=
  OnlyCtx s t ∧
  t.ctx = { s.ctx with
    xh := { s.ctx.xh with pc := s.pc + 8#64, wait := .none },
    v := { s.ctx.v with
      vpos := (s.ctx.v.vpos + 1) % 64,
      vq := s.ctx.v.vq ++
        [{ op := op, pg := pg, pos := s.ctx.v.vpos, pc := s.pc, resume := .fresh, leave := leave,
           cap := { vl := s.ctx.v.vl, rc := s.ctx.v.rc, vtype := s.ctx.v.vtype, fctl := s.ctx.sr.fctl, spz := s.ctx.sr.spz } }] } }

/-- The vector integer operations of 15 R317 on bit vectors, `d` the old destination element. -/
def vintBits {w : Nat} (op : VIntOp) (signed : Bool) (d a b : BitVec w) : BitVec w :=
  match op with
  | .add => a + b
  | .sub => a - b
  | .mul => a * b
  | .mac => d + a * b
  | .min => if (if signed then a.sle b else a.ule b) then a else b
  | .max => if (if signed then a.sle b else a.ule b) then b else a
  | .abs => if a.msb then -a else a
  | .and => a &&& b
  | .or => a ||| b
  | .xor => a ^^^ b
  | .shl => a <<< (b.toNat % w)
  | .shr => a >>> (b.toNat % w)
  | .sra => a.sshiftRight (b.toNat % w)

/-- The head of the vector command queue may execute now. -/
def HeadRuns (s : State) (e : VEntry) (rest : List VEntry) : Prop :=
  s.ctx.place = .active ∧ s.ctx.v.vq = e :: rest ∧ s.ctx.entryFree e = true

end Sys2Proof.Claims

/-- 08 R179, 15 R312: a vector, predicate, multivector or vector memory instruction that the shape allows enters the queue with its
scalars captured, and the execute hart goes on. -/
def Sys2Proof.Claims.VectorInstructionsEnterTheQueue : Prop :=
  ∀ (i : Instr) (s : State) (rs : List Reg) (pg : PReg) (op : VOp), queuedOf s i = some (true, rs, pg, op) →
    s.hart = .exe → s.ready rs [] = true → s.ctx.v.vq.length < 64 → ∃ t, exec i s = .next t ∧ Queues s t op pg none

/-- 15 R311: an instruction whose type does not agree with the shape is ILLEGAL at issue, and enters nothing. -/
def Sys2Proof.Claims.ShapeMismatchIsIllegal : Prop :=
  ∀ (i : Instr) (s : State) (rs : List Reg) (pg : PReg) (op : VOp), queuedOf s i = some (false, rs, pg, op) →
    s.hart = .exe → Traps i s 0x00 0#64 i.encode

/-- 15 R329, 10 R221, R222: `mvsw` enters the queue; with VL = VLMAX it is a heavy operation of cost 6, which carries the leave granted to
it or the context's standing leave, which withdraws a request made before; without leave it asks at the tail of its die's queue, and waits. -/
def Sys2Proof.Claims.SandwichEntersWithLeave : Prop :=
  ∀ (o : MvArgs) (s : State), s.hart = .exe → s.ctx.v.fits o.t = true → s.ctx.v.vq.length < 64 →
    let op := VOp.mv .sw o.t o.rm o.k o.d o.a o.b
    (s.ctx.v.vl ≠ vtMax s.ctx.v.vtype → ∃ t, exec (.mvsw o) s = .next t ∧ Queues s t op o.pg none) ∧
    (s.ctx.v.vl = vtMax s.ctx.v.vtype →
      (∀ l, s.heavy.find? (fun l => s.ownLeave .exe l && !l.claimed && decide (l.cost = 6)) = some l →
        ∃ t, exec (.mvsw o) s = .next t ∧
          Queues { s with heavy := s.heavy.map fun x => if x.id = l.id then { x with claimed := true } else x } t op o.pg (some l.id)) ∧
      ((∀ l ∈ s.heavy, (s.ownLeave .exe l && !l.claimed && decide (l.cost = 6)) = false) →
        let others := s.leaveQ.filter fun r => !s.ownLeave .exe r
        (s.covered + 6 ≤ s.ctx.standing → ∃ t r, exec (.mvsw o) s = .next t ∧ r.id = s.nextId ∧ r.cost = 6 ∧ r.standing = true ∧
          Queues { s with nextId := s.nextId + 1, leaveQ := others, heavy := s.heavy ++ [r] } t op o.pg (some s.nextId)) ∧
        (s.ctx.standing < s.covered + 6 → s.hs.wait ≠ .none → (∃ r ∈ s.leaveQ, s.ownLeave .exe r = true ∧ r.cost = 6) →
          exec (.mvsw o) s = .next (s.setWait (.leave 6))) ∧
        (s.ctx.standing < s.covered + 6 → s.hs.wait = .none ∨ (∀ r ∈ s.leaveQ, s.ownLeave .exe r = true → r.cost ≠ 6) →
          (∀ r ∈ others, r.die ≠ dieOf s.ctx.core) → s.pwrbud (dieOf s.ctx.core) < s.pwruse (dieOf s.ctx.core) + 6 →
          ∃ t r, exec (.mvsw o) s = .next t ∧ t.hs = { s.hs with wait := .leave 6 } ∧ t.leaveQ = joinQueue others r ∧ r.id = s.nextId ∧
            r.cost = 6 ∧ r.die = dieOf s.ctx.core ∧ s.ownLeave .exe r = true ∧ t.asks r = true ∧
            t = { s with ctx := t.ctx, nextId := s.nextId + 1, leaveQ := t.leaveQ })))

/-- 16 R343, R334: `vspill` and `vfill` enter the queue with an aligned base; a misaligned one takes ALIGN. -/
def Sys2Proof.Claims.SpillAndFillEnterTheQueue : Prop :=
  ∀ (d : Reg) (m : Addr) (s : State), s.hart = .exe → s.ready [m.a] [] = true →
    ((s.addr m).toNat % 8 = 0 → s.ctx.v.vq.length < 64 →
      (∃ t, exec (.vspill d m) s = .next t ∧ Queues s t (.spill d m.sp (s.addr m)) 0#4 none) ∧
      (∃ t, exec (.vfill d m) s = .next t ∧ Queues s t (.fill d m (s.addr m)) 0#4 none)) ∧
    ((s.addr m).toNat % 8 ≠ 0 →
      Traps (.vspill d m) s 0x06 (s.addr m) 8#64 ∧ Traps (.vfill d m) s 0x06 (s.addr m) 8#64)

/-- 08 R179, 15 R311, R312, R329, 16 R334, R343, 10 R221, R222: every vector, predicate, multivector and vector memory instruction enters
the queue with its scalars captured, or traps at issue. That the check is made at issue is the reading of log entry 50; the order against
other streams is log entry 7. -/
def Obligations.VectorInstructionsAreIssued : Prop :=
  VectorInstructionsEnterTheQueue ∧ ShapeMismatchIsIllegal ∧ SandwichEntersWithLeave ∧ SpillAndFillEnterTheQueue

/-- 15 R309, R310, 06 R148, 08 R177: `setvl` forms VL from its request, `setrc` sets RC, `vlenq` answers the bytes of a spill frame. In
a launch with SG = 1 `setvl` then commits the open strip, whose held stores perform in program order (02 R70), and opens one, with its
own address, VL, RC, VTYPE and the x registers of its mask checkpointed (11 R250), VTYPE as it has written it and VL as that write left it
(log entry 35); the stores of a block that reach the scratchpad show the others of the block to all (the model's choice of log entry 57). -/
def Obligations.LengthAndShape : Prop :=
  (∀ (d a : Reg) (mask : Option Reg) (vt : Option (BitVec 8)) (s : State), s.hart = .exe → s.ready (a :: mask.toList) [d] = true →
    (∀ x, vt = some x → vtOk x = true) →
    let next := vt.getD s.ctx.v.vtype
    let n := formVl next (s.x a).toNat
    (s.ctx.sg = false → ∃ t, exec (.setvl d a mask vt) s = .next t ∧
      Wrote { s with ctx := { s.ctx with v := { s.ctx.v with vl := n, vtype := next } } } t d (BitVec.ofNat 64 n) ∧ GoesOn s t) ∧
    let named (r : Nat) : Bool := (mask.map fun m => (s.x m).getLsbD r).getD false
    (s.ctx.sg = true → s.ctx.v.vq = [] → (∀ r < 32, named r = true → s.ctx.rdBusy .exe (BitVec.ofNat 5 r) = false) →
      let done := s.commitStrip
      (∀ p, s.ctx.strip = some p → p.revocable = true →
        let u := p.held.reverse.foldl (fun u h => u.performHeld (u.ctx.stripKey h) [] h)
          { s with ctx := { s.ctx with strip := some { p with revocable := false, held := [] } } }
        done = { u.showBlocks p.held with ctx := done.ctx } ∧ ((∀ h ∈ p.held, h.grp = 0) → u.showBlocks p.held = u)) ∧
      ∃ t p, exec (.setvl d a mask vt) s = .next t ∧ SameMemory done t ∧ t = { done with ctx := t.ctx } ∧
        t.ctx.v.vl = n ∧ t.ctx.v.vtype = next ∧ (∀ r, t.x r = if r = d then BitVec.ofNat 64 n else s.x r) ∧ GoesOn s t ∧
        t.ctx.strip = some p ∧ p.pc = s.pc ∧ p.vl = (vt.map fun x => formVl x s.ctx.v.vl).getD s.ctx.v.vl ∧ p.rc = s.ctx.v.rc ∧
        p.vtype = next ∧
        (∀ x : Nat × Word, x ∈ p.xs ↔ x.1 < 32 ∧ named x.1 = true ∧ x.2 = s.ctx.v.x x.1) ∧
        p.revocable = true ∧ p.held = [] ∧ p.rewound = false ∧
        p.rewinds = match s.ctx.strip with
          | some q => if q.rewound = true ∧ q.pc = s.pc then q.rewinds else 0
          | none => 0)) ∧
  (∀ (vt : BitVec 8) (request : Nat), vtOk vt = true →
    let n := formVl vt request
    n ≤ request ∧ n ≤ vtMax vt ∧ (vtBlock vt ≠ 0 → vtBlock vt ∣ n) ∧ min request (vtMax vt) < n + max (vtBlock vt) 1) ∧
  (∀ (n : Src) (s : State), s.hart = .exe → s.ready (srcRegs n) [] = true →
    let k := match n with
      | .imm i => i.toNat
      | .reg r => (s.x r).toNat
    (1 ≤ k → k ≤ 16 → ∃ t, exec (.setrc n) s = .next t ∧
      Kept { s with ctx := { s.ctx with v := { s.ctx.v with rc := k } } } t ∧ GoesOn s t) ∧
    (∀ r, n = .reg r → k = 0 ∨ 16 < k → Traps (.setrc n) s 0x00 0#64 (Instr.setrc n).encode)) ∧
  ∀ (d : Reg) (s : State), s.hart = .exe → s.ready [] [d] = true →
    let w := if vtNarrow s.ctx.v.vtype then 4 else vtEw s.ctx.v.vtype
    Writes (.vlenq d) s d (BitVec.ofNat 64 (8 + s.ctx.v.rc * (((s.ctx.v.vl * w + 7) / 8 + 7) / 8 * 8)))

/-! ## Vector: execution -/

/-- 08 R179, R180: the oldest entry that comes to its end leaves the queue; SPZ is then again as the hart has it. -/
def Sys2Proof.Claims.HeadEntryCompletes : Prop :=
  ∀ (s u : State) (e : VEntry) (rest : List VEntry), HeadRuns s e rest → s.entryWaits e = false →
    (({ s with hart := .exe } : State).withSpz e.cap.spz).runEntry e = .done u →
    ∃ t, exec (.vectorEntryExecute none) s = .next t ∧ t.ctx.v = { u.ctx.v with vq := u.ctx.v.vq.drop 1 } ∧
      t.ctx.sr = { u.ctx.sr with spz := s.ctx.sr.spz } ∧ t.hart = s.hart ∧ t = { u with hart := t.hart, ctx := t.ctx } ∧
      t.ctx = { u.ctx with v := t.ctx.v, sr := t.ctx.sr } ∧ SameMemory u t

/-- 15 R312, R317, 06 R147, 07 R162, 08 R177: an integer element-wise entry gives each active element of the tile its result, whatever
register the sources share with the destination, and leaves every other element and register as it read. -/
def Sys2Proof.Claims.IntegerEntryComputesEachElement : Prop :=
  (∀ (op : VIntOp) (t : Ty) (d a b : Nat), t.isInt = true →
    BitVec.ofNat t.width (vint op t (d % 2 ^ t.width) (a % 2 ^ t.width) (b % 2 ^ t.width)) =
      vintBits op t.isSigned (BitVec.ofNat t.width d) (BitVec.ofNat t.width a) (BitVec.ofNat t.width b)) ∧
  ∀ (s : State) (e : VEntry) (rest : List VEntry) (op : VIntOp) (t : Ty) (d a : Reg) (b : ESrc), HeadRuns s e rest →
    e.op = .int op t d a b → e.resume = .fresh → t.isInt = true → e.cap.rc ≤ 16 → e.cap.vl * t.width ≤ 4096 →
    let v := s.ctx.v
    ∃ u, exec (.vectorEntryExecute none) s = .next u ∧ u.ctx.v.vq = rest ∧ SameMemory s u ∧
      (∀ r x, r < 16 → x < 4096 / t.width →
        u.ctx.v.elem t.width d r x =
          if r < e.cap.rc ∧ x < e.cap.vl ∧ (v.pred e.pg).getLsbD x = true then
            vint op t (v.elem t.width d r x) (v.elem t.width a r x) (v.src t.width b r x)
          else v.elem t.width d r x) ∧
      (∀ q r, q < 32 → q ≠ d.toNat → r < 16 → u.ctx.v.row q r = v.row q r) ∧
      u.ctx.v = { v with vq := rest, rows := u.ctx.v.rows, gm := u.ctx.v.gm } ∧ u = { s with ctx := u.ctx } ∧
      u.ctx = { s.ctx with v := u.ctx.v }

/-- PL of 15 R316. -/
def Sys2Proof.Claims.planes (e : VEntry) : Nat := if vtNarrow e.cap.vtype then (e.cap.vl + 1) / 2 else e.cap.vl

/-- 15 R314 to R316, 08 R178: predicate logic, limits, counts and the first bit, which write nothing with VL = 0; p0 stays all ones. -/
def Sys2Proof.Claims.PredicateEntriesCompute : Prop :=
  ∀ (s : State) (e : VEntry) (rest : List VEntry), HeadRuns s e rest → e.resume = .fresh →
    let v := s.ctx.v
    let end_ (u : State) : Prop :=
      exec (.vectorEntryExecute none) s = .next u ∧ u.ctx.v.vq = rest ∧ SameMemory s u ∧ u.ctx.v.pred 0#4 = BitVec.allOnes 512
    (∀ op d a b, e.op = .plog op d a b → ∃ u, end_ u ∧ (∀ p, p ≠ d → u.ctx.v.pred p = v.pred p) ∧
      (d ≠ 0#4 → u.ctx.v.pred d = match op with
        | .and => v.pred a &&& v.pred b
        | .or => v.pred a ||| v.pred b
        | .xor => v.pred a ^^^ v.pred b
        | .not => ~~~(v.pred a))) ∧
    (∀ d n, e.op = .plim d n → d ≠ 0#4 →
      ∃ u, end_ u ∧ (∀ p, p ≠ d → u.ctx.v.pred p = v.pred p) ∧ ∀ i < 512, (u.ctx.v.pred d).getLsbD i = decide (i < n.toNat)) ∧
    (∀ d a, e.op = .pcnt d a → ∃ u, end_ u ∧ (∀ p, u.ctx.v.pred p = v.pred p) ∧
      ∀ r < 32, u.ctx.v.x r = if r = d.toNat ∧ e.cap.vl ≠ 0 then BitVec.ofNat 64 ((List.range (planes e)).countP fun i =>
        (v.pred a).getLsbD i && (v.pred e.pg).getLsbD i) else v.x r) ∧
    (∀ d a, e.op = .pfirst d a → ∃ u, end_ u ∧ (∀ p, u.ctx.v.pred p = v.pred p) ∧ (∀ r < 32, r ≠ d.toNat → u.ctx.v.x r = v.x r) ∧
      (e.cap.vl = 0 → u.ctx.v.x d.toNat = v.x d.toNat) ∧
      ((∀ i < planes e, ((v.pred a).getLsbD i && (v.pred e.pg).getLsbD i) = false) → e.cap.vl ≠ 0 →
        u.ctx.v.x d.toNat = BitVec.allOnes 64) ∧
      ∀ i < planes e, ((v.pred a).getLsbD i && (v.pred e.pg).getLsbD i) = true →
        (∀ j < i, ((v.pred a).getLsbD j && (v.pred e.pg).getLsbD j) = false) → u.ctx.v.x d.toNat = BitVec.ofNat 64 i)

/-- 08 R179, R180, 15 R314 to R316: the oldest entry completes and leaves; the predicate entries compute. That an entry happens whole at
one step is the model's choice of log entry 51. -/
def Obligations.EntriesCompleteInOrder : Prop :=
  HeadEntryCompletes ∧ PredicateEntriesCompute

/-- 11 R239, R240, R236: an entry that traps at an element takes the execute hart into its handler with VS = 1; the entry and every
later one are saved, ES names the element, TQP the count and the position, TNPC the first instruction not yet issued. -/
def Sys2Proof.Claims.EntryTrapSavesTheQueue : Prop :=
  ∀ (s u : State) (e : VEntry) (rest : List VEntry) (row elem : Nat) (mask : Option Pred) (tr : Trap), HeadRuns s e rest →
    s.entryWaits e = false → (({ s with hart := .exe } : State).withSpz e.cap.spz).runEntry e = .trap row elem mask tr u →
    u.ctx.xh.handler = false → u.ctx.sr.hwin.getLsbD 63 = true → tr.cause ≠ 0x10 → tr.lb = false →
    ∃ t, exec (.vectorEntryExecute none) s = .next t ∧ t.ctx.v.vq = [] ∧
      t.ctx.v.saved = { e with resume := (mask.map Resume.mask).getD (.elem row elem) } :: u.ctx.v.vq.drop 1 ∧
      t.ctx.sr.es = BitVec.ofNat 64 (row * 2048 + elem) ∧ t.ctx.sr.fmr = mask.getD u.ctx.sr.fmr ∧
      t.ctx.sr.tqp = BitVec.ofNat 64 (2 ^ 63 + t.ctx.v.saved.length % 64 * 256 + e.pos) ∧
      t.ctx.xh.t.tcause = BitVec.ofNat 64 (tr.cause + 0x100) ∧ t.ctx.xh.t.taddr = tr.addr ∧ t.ctx.xh.t.tinfo = tr.info ∧
      t.ctx.xh.t.tpc = e.pc ∧ t.ctx.xh.t.tnpc = u.ctx.xh.pc ∧ t.ctx.xh.pc = hwinBase u.ctx.sr.hwin ∧ t.ctx.xh.handler = true

/-- 11 R251, R252, R255: in a launch with SLC = 1 the two runs of an element-wise integer entry's first element group differ: a
revocable strip rewinds, below its eighth rewind; without one the entry traps MACHINE_CHECK with SRC 5 at the group, and the group
is not written. -/
def Sys2Proof.Claims.ShadowLanesDiffer : Prop :=
  ∀ (s : State) (e : VEntry) (rest : List VEntry) (op : VIntOp) (ty : Ty) (d a : Reg) (b : ESrc), HeadRuns s e rest →
    e.op = .int op ty d a b → e.resume = .fresh → 1 ≤ e.cap.rc → 1 ≤ e.cap.vl → s.ctx.slc = true →
    ((∀ p, s.ctx.strip = some p → p.revocable = false) → s.ctx.xh.handler = false → s.ctx.sr.hwin.getLsbD 63 = true →
      ∃ t, exec (.vectorEntryExecute (some (0#4, false))) s = .next t ∧ t.ctx.v.vq = [] ∧
        t.ctx.v.saved = { e with resume := .elem 0 0 } :: rest ∧ t.ctx.sr.es = 0#64 ∧ t.ctx.xh.t.tcause = 0x110#64 ∧
        t.ctx.xh.t.taddr = 0#64 ∧ t.ctx.xh.t.tinfo = 5#64 ∧ t.ctx.xh.t.tpc = e.pc ∧ t.ctx.xh.t.tnpc = s.ctx.xh.pc ∧
        t.ctx.xh.pc = hwinBase s.ctx.sr.hwin ∧ t.ctx.xh.handler = true ∧ SameMemory s t ∧
        t.notices = s.notices ++ [.machineCheck s.ctx.core 0#64 5#64] ∧ t.msix = s.msix ++ [1] ∧
        ∀ r row, r < 32 → row < 16 → r ≠ 30 → t.ctx.v.row r row = s.ctx.v.row r row) ∧
    ∀ p, s.ctx.strip = some p → p.revocable = true → p.rewinds < 7 →
      ∃ t, exec (.vectorEntryExecute (some (0#4, false))) s = .next t ∧ t.ctx.v.vq = [] ∧ t.ctx.xh.pc = p.pc ∧ t.ctx.v.vl = p.vl ∧
        t.ctx.v.rc = p.rc ∧ t.ctx.v.vtype = p.vtype ∧
        t.ctx.strip = some { p with held := [], rewinds := p.rewinds + 1, rewound := true } ∧ SameMemory s t ∧
        (p.xs = [] → t.ctx.v.rows = s.ctx.v.rows) ∧ t.notices = s.notices ∧ t.msix = s.msix

/-- 11 R249, R247: an entry that has made no progress for PTO cycles, and that meets no other condition, traps PROGRESS, with the port and
a unit that the port has, at its lowest unperformed element. -/
def Sys2Proof.Claims.ProgressTimeoutTraps : Prop :=
  ∀ (s : State) (e : VEntry) (rest : List VEntry) (port unit : BitVec 8), s.ctx.place = .active → s.ctx.v.vq = e :: rest →
    s.ctx.sr.pto ≠ 0#64 → portUnitOk port.toNat unit.toNat = true → s.entryMeets e = false → s.ctx.xh.handler = false → s.ctx.sr.hwin.getLsbD 63 = true →
    let p := ({ s with hart := .exe } : State).unperformed e
    ∃ t, exec (.progressTimeout port unit) s = .next t ∧ t.ctx.v.vq = [] ∧ t.ctx.v.saved.length = rest.length + 1 ∧
      t.ctx.sr.es = BitVec.ofNat 64 (p.1 * 2048 + p.2.1) ∧ t.ctx.xh.t.taddr = p.2.2.1 ∧
      t.ctx.xh.t.tcause = 0x10B#64 ∧ t.ctx.xh.t.tinfo = BitVec.ofNat 64 (256 * unit.toNat + port.toNat) ∧
      t.ctx.xh.t.tpc = e.pc ∧ t.ctx.xh.t.tnpc = s.ctx.xh.pc ∧ t.ctx.xh.pc = hwinBase s.ctx.sr.hwin ∧ SameMemory s t

/-- 11 R236, R239, R240, R249, R252: an entry that traps at an element, whose shadow lanes differ, or that makes no progress, saves the
queue and enters the handler, or rewinds its strip. Which group differs is an argument of the step (log entry 46), and so is when a
timeout happens (log entry 8). -/
def Obligations.EntryTrapsSaveTheQueue : Prop :=
  EntryTrapSavesTheQueue ∧ ShadowLanesDiffer ∧ ProgressTimeoutTraps

/-- 07 R157, R158: the generators square to 0, 1, 1, 1, distinct ones anticommute, and the blade product is associative. -/
def Obligations.BladeProductIsAnAlgebra : Prop :=
  (∀ i j, 1 ≤ i → i ≤ 4 → 1 ≤ j → j ≤ 4 →
    bladeProduct i j = if i = j then (if bladeMask i = 1 then none else some (false, 0))
      else (bladeProduct j i).map fun p => (!p.1, p.2)) ∧
  ∀ i j k, i < 16 → j < 16 → k < 16 →
    ((bladeProduct i j).bind fun p => (bladeProduct p.2 k).map fun q => (p.1 != q.1, q.2)) =
      ((bladeProduct j k).bind fun p => (bladeProduct i p.2).map fun q => (p.1 != q.1, q.2))

/-! ## Vector: the elements of an entry -/

namespace Sys2Proof.Claims

/-- Element `x` of a row is active: below VL, with the bit that governs it set (06 R147, 15 R312). -/
def ActiveAt (v : Vec) (e : VEntry) (narrow : Bool) (x : Nat) : Bool :=
  decide (x < e.cap.vl) && (v.pred e.pg).getLsbD (if narrow then x / 2 else x)

/-- A float operation on the elements of a format (15 R321). -/
def fltOf (op : VFltOp) (f : FFmt) (rm : Rm) (sat : Bool) (a b c : Nat) : FRes :=
  match op with
  | .add => f.add rm sat a b
  | .sub => f.sub rm sat a b
  | .mul => f.mul rm sat a b
  | .fma => f.fma rm sat a b c
  | .min => f.minmax false a b
  | .max => f.minmax true a b
  | .div => f.div rm sat a b
  | .sqrt => f.sqrt rm sat a
  | .rsq => f.rsqrt rm sat a

/-- The scale of element `x` of row `r` under group member `i` (06 R149). -/
def scaleOf (v : Vec) (vt : BitVec 8) (s : Reg) (r x i : Nat) : Nat :=
  let k := x / vtBlock vt + r * (vtMax vt / vtBlock vt) + i * 16 * (vtMax vt / vtBlock vt)
  v.elem (vtEw vt) s (k / (4096 / vtEw vt)) (k % (4096 / vtEw vt)) % 256

/-- The value that planes 0 to k − 1 of a block give for its element `j` (06 R154, R155, 15 R328). -/
def planesValue (k : Nat) (row : Row) (block j : Nat) : Nat :=
  let y := ((List.range k).map fun p => if row.getLsbD (2048 * block + 256 * p + j) then 2 ^ (k - 1 - p) else 0).sum
  ((BitVec.ofNat k y).signExtend 8).toNat

/-- What an element-wise entry does to the registers `v` (15 R319, R321, R323, R325, R327, R328, R333): its destination and the width of
an element of it, and for each row and element the bits that are written there with the flags raised, none where the element stays. The
operands that the members forbid to overlap do not. -/
def newElem (v : Vec) (e : VEntry) : Option (Reg × Nat × (Nat → Nat → Option (Nat × BitVec 8))) :=
  let each (narrow : Bool) (f : Nat → Nat → Nat × BitVec 8) (r x : Nat) : Option (Nat × BitVec 8) :=
    if r < e.cap.rc ∧ ActiveAt v e narrow x = true then some (f r x) else none
  let rm (m : Rm) : Rm := resolveRm m e.cap.fctl
  match e.op with
  | .sel t d a b => some (d, t.width, fun r x =>
      if r < e.cap.rc ∧ x < e.cap.vl then some (if (v.pred e.pg).getLsbD x then v.elem t.width a r x else v.src t.width b r x, 0#8)
      else none)
  | .bcastElem t d a i => some (d, t.width, each false fun r _ => (if i * t.width < 4096 then v.elem t.width a r i else (Config.pastRow (v.row a.toNat r) i).toNat, 0#8))
  | .bcastVal t d w => some (d, t.width, each false fun _ _ => (w.toNat, 0#8))
  | .idx t d i => some (d, t.width, each false fun r x => (((i + r * e.cap.vl + x) % (2 ^ t.width : Nat)).toNat, 0#8))
  | .perm t d a b =>
    if d = a ∨ d = b then none
    else some (d, t.width, each false fun r x =>
      let j := v.elem t.width b r x
      (if j < e.cap.vl then v.elem t.width a r j else 0, 0#8))
  | .slide t d a k =>
    if d = a then none
    else some (d, t.width, each false fun r x =>
      let j := (x : Int) - k
      (if 0 ≤ j ∧ j < e.cap.vl then v.elem t.width a r j.toNat else 0, 0#8))
  | .flt op t m sat d a b c => some (d, t.width, each false fun r x =>
      fltOf op (ffmt t) (rm m) sat (v.elem t.width a r x) (v.src t.width b r x) (v.elem t.width c r x))
  | .fcvt dt st m sat d a =>
    if d = a ∧ dt.width ≠ st.width then none
    else some (d, dt.width, each false fun r x => convert dt st (rm m) sat (v.elem st.width a r x))
  | .qnt n w m sat d a s i =>
    if d = a ∨ d = s then none
    else some (d, n.width, each (decide (n = .fp4)) fun r x => qnt1 n w (rm m) sat (v.elem w.width a r x) (scaleOf v e.cap.vtype s r x i))
  | .dqn w n m d a s i =>
    if d = a ∨ d = s then none
    else some (d, w.width, each (decide (n = .fp4)) fun r x => dqn1 w n (rm m) (v.elem n.width a r x) (scaleOf v e.cap.vtype s r x i))
  | .bpx k d a =>
    if d = a then none else some (d, 8, each false fun r x => (planesValue k (v.row a.toNat r) (x / 256) (x % 256), 0#8))
  | .rowExt t d a k => some (d, t.width, fun r x => if r = 0 ∧ ActiveAt v e false x = true then some (v.elem t.width a k x, 0#8) else none)
  | .rowIns t d a k => some (d, t.width, fun r x => if r = k ∧ ActiveAt v e false x = true then some (v.elem t.width a 0 x, 0#8) else none)
  | _ => none

/-- An entry at the head of the queue completes: it leaves the queue, and nothing changes but registers, grade masks, predicates and the
vector stream's flags; memory is as it was. -/
def Completes (s u : State) (rest : List VEntry) : Prop :=
  exec (.vectorEntryExecute none) s = .next u ∧ SameMemory s u ∧ u = { s with ctx := u.ctx } ∧ u.ctx = { s.ctx with v := u.ctx.v } ∧
  u.ctx.v = { s.ctx.v with vq := rest, rows := u.ctx.v.rows, gm := u.ctx.v.gm, preds := u.ctx.v.preds, lfstat := u.ctx.v.lfstat }

/-- No register but `d` is written. -/
def OthersKept (s u : State) (d : Reg) : Prop := ∀ q r, q < 32 → q ≠ d.toNat → r < 16 → u.ctx.v.row q r = s.ctx.v.row q r

/-- The stream's flags gain those that the elements raise. -/
def FlagsJoin (s u : State) (raised : BitVec 8 → Prop) : Prop :=
  ∀ k < 8, u.ctx.v.lfstat.getLsbD k = true ↔ s.ctx.v.lfstat.getLsbD k = true ∨ ∃ fl, raised fl ∧ fl.getLsbD k = true

/-- The execute hart enters its handler with VS = 1 for a trap of the head entry at an element (11 R238, R240). -/
def EntryTraps (s u : State) (e : VEntry) (cause : Nat) (info : Word) (row elem : Nat) : Prop :=
  exec (.vectorEntryExecute none) s = .next u ∧ u.ctx.v.vq = [] ∧ u.ctx.sr.es = BitVec.ofNat 64 (row * 2048 + elem) ∧
  u.ctx.xh.t.tcause = BitVec.ofNat 64 (cause + 0x100) ∧ u.ctx.xh.t.taddr = 0#64 ∧ u.ctx.xh.t.tinfo = info ∧ u.ctx.xh.t.tpc = e.pc ∧
  u.ctx.xh.pc = hwinBase s.ctx.sr.hwin ∧ u.ctx.xh.handler = true ∧ SameMemory s u

/-- Combine two integers (15 R320). -/
def redBits {w : Nat} (op : RedOp) (signed : Bool) (a b : BitVec w) : BitVec w :=
  match op with
  | .add => a + b
  | .min => if (if signed then a.sle b else a.ule b) then a else b
  | .max => if (if signed then a.sle b else a.ule b) then b else a
  | .and => a &&& b
  | .or => a ||| b
  | .xor => a ^^^ b

/-- The identity of a combination (15 R320). -/
def redUnit (w : Nat) (op : RedOp) (signed : Bool) : BitVec w :=
  match op with
  | .add | .or | .xor => 0#w
  | .and => BitVec.allOnes w
  | .min => if signed then BitVec.ofNat w (2 ^ (w - 1) - 1) else BitVec.allOnes w
  | .max => if signed then BitVec.ofNat w (2 ^ (w - 1)) else 0#w

/-- The active elements of a row below a bound, in order. -/
def activeBelow (v : Vec) (e : VEntry) (w : Nat) (a : Reg) (r n : Nat) : List Nat :=
  ((List.range n).filter fun x => ActiveAt v e false x).map fun x => v.elem w a r x

end Sys2Proof.Claims

/-- 15 R312, R319, R321, R323, R325, R327, R328, R333: an element-wise entry writes each element that it governs and no other, and its
flags join FSTAT. -/
def Sys2Proof.Claims.ElementEntriesWriteTheirElements : Prop :=
  ∀ (s : State) (e : VEntry) (rest : List VEntry) (d : Reg) (w : Nat) (f : Nat → Nat → Option (Nat × BitVec 8)), HeadRuns s e rest →
    e.resume = .fresh → newElem s.ctx.v e = some (d, w, f) → e.cap.rc ≤ 16 → e.cap.vl * w ≤ 4096 →
    (∀ r x p, f r x = some p → trapping e.cap.fctl p.2 = false) →
    ∃ u, Completes s u rest ∧ OthersKept s u d ∧ u.ctx.v.preds = s.ctx.v.preds ∧
      (∀ r x, r < 16 → x < 4096 / w → u.ctx.v.elem w d r x = match f r x with
        | some p => p.1 % 2 ^ w
        | none => s.ctx.v.elem w d r x) ∧
      FlagsJoin s u fun fl => ∃ r x p, f r x = some p ∧ p.2 = fl

/-- 15 R312, 06 R142: the first element in row-major order that raises an enabled flag traps FP there; those before it are written, it and
those after it are not. -/
def Sys2Proof.Claims.ElementEntriesTrapAtTheirElement : Prop :=
  ∀ (s : State) (e : VEntry) (rest : List VEntry) (d : Reg) (w : Nat) (f : Nat → Nat → Option (Nat × BitVec 8)) (r x : Nat)
    (p : Nat × BitVec 8), HeadRuns s e rest → e.resume = .fresh → newElem s.ctx.v e = some (d, w, f) → e.cap.rc ≤ 16 →
    e.cap.vl * w ≤ 4096 → s.ctx.xh.handler = false → s.ctx.sr.hwin.getLsbD 63 = true →
    f r x = some p → trapping e.cap.fctl p.2 = true →
    (∀ i j q, f i j = some q → i < r ∨ (i = r ∧ j < x) → trapping e.cap.fctl q.2 = false) →
    ∃ u, EntryTraps s u e 0x0A (BitVec.ofNat 64 (p.2.toNat % 32)) r x ∧
      ∀ i j, i < 16 → j < 4096 / w → i ≠ 0 ∨ d ≠ 30#5 → u.ctx.v.elem w d i j =
        match if i < r ∨ (i = r ∧ j < x) then f i j else none with
        | some q => q.1 % 2 ^ w
        | none => s.ctx.v.elem w d i j

/-- 15 R318, R322: a compare writes the bits of its active elements and no other; p0 takes no write. -/
def Sys2Proof.Claims.CompareEntriesWriteTheirPredicate : Prop :=
  ∀ (s : State) (e : VEntry) (rest : List VEntry) (t : Ty) (d : PReg) (a : Reg) (b : ESrc), HeadRuns s e rest → e.resume = .fresh →
    e.cap.rc = 1 → e.cap.vl ≤ 512 →
    let v := s.ctx.v
    let x (j : Nat) := v.elem t.width a 0 j
    let y (j : Nat) := v.src t.width b 0 j
    let writes (u : State) (bit : Nat → Bool) : Prop := Completes s u rest ∧ u.ctx.v.rows = v.rows ∧ u.ctx.v.gm = v.gm ∧
      (∀ q, q ≠ d → u.ctx.v.pred q = v.pred q) ∧
      (d ≠ 0#4 → ∀ j < 512, (u.ctx.v.pred d).getLsbD j = if ActiveAt v e false j = true then bit j else (v.pred d).getLsbD j)
    (∀ cc, e.op = .icmp cc t d a b → cc.isCmp = true → ∃ u, u.ctx.v.lfstat = v.lfstat ∧
      writes u fun j => cmpBits cc t.isSigned (BitVec.ofNat t.width (x j)) (BitVec.ofNat t.width (y j))) ∧
    ∀ cc, e.op = .fcmp cc t d a b →
      (∀ j, ActiveAt v e false j = true → trapping e.cap.fctl ((ffmt t).compare cc (x j) (y j)).2 = false) →
      ∃ u, writes u (fun j => ((ffmt t).compare cc (x j) (y j)).1) ∧
        FlagsJoin s u fun fl => ∃ j, ActiveAt v e false j = true ∧ ((ffmt t).compare cc (x j) (y j)).2 = fl

/-- 15 R321, R327, 06 R137, R143: the reciprocal root is rounded once from the exact value; `vqnt` and `vdqn` round the element times or by the
power of two of its scale, once; and what NaN, infinities, zeros and the scale 0xFF give. -/
def Sys2Proof.Claims.ReciprocalRootsAndScaledConversions : Prop :=
  (∀ (t : Ty) (rm : Rm) (sat : Bool) (a : Nat), t.isFloat = true → (sat = true → t.isFp8 = true) →
    let x := (ffmt t).decode a
    let r := (ffmt t).rsqrt rm sat a
    (x.isNan = true → r = nanResult t x.isSig) ∧ (x = .inf false → r = (0, 0#8)) ∧
    (x.isNan = false → x.isZero = false → x.isNeg = true → r = nanResult t true) ∧
    (x.isZero = true → r = ((infResult t sat x.isNeg).1, (infResult t sat x.isNeg).2 ||| Flag.dz)) ∧
    (x.isNan = false → x.isInf = false → x.isZero = false → x.isNeg = false →
      Delivered t rm sat false (1 / Real.sqrt (numVal x : ℝ)) r)) ∧
  ∀ (n w : Ty) (rm : Rm) (sat : Bool) (a k : Nat), n = .e4m3 ∨ n = .e5m2 ∨ n = .fp4 → w = .f32 ∨ w = .bf16 ∨ w = .f16 →
    (sat = true → n ≠ .fp4) → k < 256 →
    let x := (ffmt w).decode a
    let q := qnt1 n w rm sat a k
    let y := (ffmt n).decode a
    let d := dqn1 w n rm a k
    (k = 255 → q = nanResult n true ∧ d = nanResult w true) ∧
    (k ≠ 255 → (∀ sig, x = .nan sig → q = nanResult n sig) ∧ (∀ sig, y = .nan sig → d = nanResult w sig) ∧
      (∀ neg, x = .inf neg → q = infResult n sat neg) ∧ (∀ neg, y = .inf neg → d = infResult w false neg) ∧
      (∀ neg m e, x = .fin neg m e → Delivered n rm sat neg ((numVal x * 2 ^ (127 - (k : Int)) : ℚ) : ℝ) q) ∧
      ∀ neg m e, y = .fin neg m e → Delivered w rm false neg ((numVal y * 2 ^ ((k : Int) - 127) : ℚ) : ℝ) d)

/-- 15 R312, R317 to R328, R333: the executed effect of the integer, movement, float, conversion, scaling, plane, compare and component-row
entries, and of one that traps at an element. The float operations are those of FloatInstructionsCompleteOrTrap, rounded once; the reciprocal
root and the scaled conversions too. That an
entry happens whole at one step is the model's choice of log entry 51; what an index of `vbcast` past a row reads is free (log entry 80). -/
def Obligations.ElementEntriesCompute : Prop :=
  IntegerEntryComputesEachElement ∧ ElementEntriesWriteTheirElements ∧ ElementEntriesTrapAtTheirElement ∧
  CompareEntriesWriteTheirPredicate ∧ ReciprocalRootsAndScaledConversions

/-- 15 R320, 08 R178: `vred` writes the combination of a row's active elements, or the identity, to element 0 of each row, `vscan` the
running combination to each active element; with VL = 0 nothing is written. -/
def Sys2Proof.Claims.IntegerReductionsAndScans : Prop :=
  ∀ (s : State) (e : VEntry) (rest : List VEntry) (op : RedOp) (t : Ty) (d a : Reg), HeadRuns s e rest → e.resume = .fresh →
    t.isInt = true → e.cap.rc ≤ 16 → e.cap.vl * t.width ≤ 4096 →
    let v := s.ctx.v
    let total (r n : Nat) : Nat :=
      (((activeBelow v e t.width a r n).map (BitVec.ofNat t.width)).foldl (redBits op t.isSigned) (redUnit t.width op t.isSigned)).toNat
    (e.op = .red op t d a → ∃ u, Completes s u rest ∧ OthersKept s u d ∧ u.ctx.v.preds = v.preds ∧ u.ctx.v.lfstat = v.lfstat ∧
      ∀ r x, r < 16 → x < 4096 / t.width → u.ctx.v.elem t.width d r x =
        if r < e.cap.rc ∧ x = 0 ∧ e.cap.vl ≠ 0 then total r e.cap.vl else v.elem t.width d r x) ∧
    (e.op = .scan op t d a → ∃ u, Completes s u rest ∧ OthersKept s u d ∧ u.ctx.v.preds = v.preds ∧ u.ctx.v.lfstat = v.lfstat ∧
      ∀ r x, r < 16 → x < 4096 / t.width → u.ctx.v.elem t.width d r x =
        if r < e.cap.rc ∧ ActiveAt v e false x = true then total r (x + 1) else v.elem t.width d r x)

/-- 15 R324: `vfred` writes the combination of a row's active elements in ascending order, and its flags join FSTAT; a row that raises an
enabled flag traps FP at its element 0. An empty row gives +0, or an infinity; one element is delivered as it is but for a NaN. -/
def Sys2Proof.Claims.FloatReductions : Prop :=
  (∀ (s : State) (e : VEntry) (rest : List VEntry) (op : RedOp) (t : Ty) (m : Rm) (d a : Reg), HeadRuns s e rest → e.resume = .fresh →
    e.op = .fred op t m d a → t.isFloat = true → e.cap.rc ≤ 16 → e.cap.vl * t.width ≤ 4096 → e.cap.vl ≠ 0 →
    let v := s.ctx.v
    let total (r : Nat) : FRes := vfredRow op (ffmt t) (resolveRm m e.cap.fctl) (activeBelow v e t.width a r e.cap.vl)
    ((∀ r < e.cap.rc, trapping e.cap.fctl (total r).2 = false) → ∃ u, Completes s u rest ∧ OthersKept s u d ∧ u.ctx.v.preds = v.preds ∧
      (∀ r x, r < 16 → x < 4096 / t.width → u.ctx.v.elem t.width d r x =
        if r < e.cap.rc ∧ x = 0 then (total r).1 % 2 ^ t.width else v.elem t.width d r x) ∧
      FlagsJoin s u fun fl => ∃ r < e.cap.rc, (total r).2 = fl) ∧
    ∀ r < e.cap.rc, trapping e.cap.fctl (total r).2 = true → (∀ i < r, trapping e.cap.fctl (total i).2 = false) →
      s.ctx.xh.handler = false → s.ctx.sr.hwin.getLsbD 63 = true →
      ∃ u, EntryTraps s u e 0x0A (BitVec.ofNat 64 ((total r).2.toNat % 32)) r 0) ∧
  ∀ (f : FFmt) (rm : Rm) (x y : Nat) (l : List Nat),
    vfredRow .add f rm [] = (0, 0#8) ∧ vfredRow .min f rm [] = (f.sign false ((2 ^ f.ew - 1) * 2 ^ f.mw), 0#8) ∧
    vfredRow .max f rm [] = (f.sign true ((2 ^ f.ew - 1) * 2 ^ f.mw), 0#8) ∧
    (∀ op, (f.decode x).isNan = false → vfredRow op f rm [x] = (x, 0#8)) ∧
    (∀ op sig, f.decode x = .nan sig → vfredRow op f rm [x] = (f.qnan, if sig then Flag.nv else 0#8)) ∧
    (let p := vfredRow .add f rm (x :: l)
     vfredRow .add f rm (x :: l ++ [y]) = ((f.add rm false p.1 y).1, p.2 ||| (f.add rm false p.1 y).2)) ∧
    (let p := vfredRow .min f rm (x :: l)
     vfredRow .min f rm (x :: l ++ [y]) = ((f.minmax false p.1 y).1, p.2 ||| (f.minmax false p.1 y).2)) ∧
    let p := vfredRow .max f rm (x :: l)
    vfredRow .max f rm (x :: l ++ [y]) = ((f.minmax true p.1 y).1, p.2 ||| (f.minmax true p.1 y).2)

/-- 15 R326, 06 R149: `vscl` writes the scale of each block with an active element to its place in the scale register and no other, sets
no flag, and takes the scale from the block's greatest magnitude. -/
def Sys2Proof.Claims.BlockScales : Prop :=
  (∀ (s : State) (e : VEntry) (rest : List VEntry) (w : Ty) (d a : Reg) (i : Nat), HeadRuns s e rest → e.resume = .fresh →
    e.op = .scl w d a i → e.cap.rc ≤ 16 →
    let vt := e.cap.vtype
    vtEw vt = 8 → vtBlock vt ≠ 0 → e.cap.vl ≤ vtMax vt → e.cap.vl * w.width ≤ 4096 → i < vtBlock vt →
    (vtNarrow vt = true → i < vtBlock vt / 2) →
    let v := s.ctx.v
    let blocks := vtMax vt / vtBlock vt
    let actives (r b : Nat) : List Machine.Num := ((List.range (vtBlock vt)).filter fun j => ActiveAt v e (vtNarrow vt) (b * vtBlock vt + j)).map
      fun j => (ffmt w).decode (v.elem w.width a r (b * vtBlock vt + j))
    ∃ u, Completes s u rest ∧ OthersKept s u d ∧ u.ctx.v.preds = v.preds ∧ u.ctx.v.lfstat = v.lfstat ∧
      (∀ r b, r < e.cap.rc → b < blocks → actives r b ≠ [] →
        let k := b + r * blocks + i * 16 * blocks
        u.ctx.v.elem 8 d (k / 512) (k % 512) = sclOf (vtFmta vt) (actives r b)) ∧
      ∀ k, k < 16 * 512 → (∀ r b, r < e.cap.rc → b < blocks → actives r b ≠ [] → k ≠ b + r * blocks + i * 16 * blocks) →
        u.ctx.v.elem 8 d (k / 512) (k % 512) = v.elem 8 d (k / 512) (k % 512)) ∧
  ∀ (fmta : Nat) (l : List Machine.Num), l ≠ [] →
    let emax : Int := if fmta = 0 then 8 else if fmta = 1 then 15 else 2
    ((∃ x ∈ l, x.isNan = true) → sclOf fmta l = 0xFF) ∧
    ((∀ x ∈ l, x.isNan = false) → (∃ x ∈ l, x.isInf = true) → sclOf fmta l = 0xFE) ∧
    ((∀ x ∈ l, ∃ n e, x = .fin n 0 e) → sclOf fmta l = 0) ∧
    ∀ n m e, (.fin n m e : Machine.Num) ∈ l → m ≠ 0 → (∀ x ∈ l, ∃ n' m' e', x = .fin n' m' e' ∧ (m' = 0 ∨ (m'.log2 : Int) + e' ≤ m.log2 + e)) →
      sclOf fmta l = (max 0 (min 254 ((m.log2 : Int) + e - emax + 127))).toNat

/-- 15 R320, R324, R326: the reductions, scans and block scales. That an entry happens whole at one step is the model's choice of log
entry 51. -/
def Obligations.ReductionsScansAndScales : Prop :=
  IntegerReductionsAndScans ∧ FloatReductions ∧ BlockScales

/-- 07 R164 to R167, 15 R329 to R331: a multivector entry writes all sixteen components of each active column: those whose grade is
inferred and kept, rounded, and +0 elsewhere; the grade mask becomes K, or K with the old one where not every element is active. A column
that raises an enabled flag, or whose dropped grades are not zero under GXT, traps there, with the columns before it written. -/
def Sys2Proof.Claims.MultivectorEntriesWriteColumns : Prop :=
  ∀ (s : State) (e : VEntry) (rest : List VEntry) (op : MvOp) (t : Ty) (m : Rm) (kk : Option (BitVec 5)) (d a b : Reg),
    HeadRuns s e rest → e.resume = .fresh → e.op = .mv op t m kk d a b → t.isFloat = true → vtEw e.cap.vtype = t.width →
    vtNarrow e.cap.vtype = false → e.cap.vl ≤ vtMax e.cap.vtype →
    let v := s.ctx.v
    let i := inferred op (v.mask a.toNat) (v.mask b.toNat)
    let k := kk.getD i
    let col (x : Nat) := mvColumn op (ffmt t) (resolveRm m e.cap.fctl) i k (v.column (ffmt t) a x) (v.column (ffmt t) b x)
    let fine (x : Nat) : Prop := trapping e.cap.fctl (col x).2.1 = false ∧ ((col x).2.2 = 0#5 ∨ gxt e.cap.fctl = false)
    (e.cap.vl = 0 → ∃ u, Completes s u rest ∧ u.ctx.v = { v with vq := rest }) ∧
    (e.cap.vl ≠ 0 → (∀ x, ActiveAt v e false x = true → fine x) →
      ∃ u, Completes s u rest ∧ OthersKept s u d ∧ u.ctx.v.preds = v.preds ∧
        (∀ r x, r < 16 → x < 4096 / t.width → u.ctx.v.elem t.width d r x =
          if ActiveAt v e false x = true then (col x).1.getD r 0 % 2 ^ t.width else v.elem t.width d r x) ∧
        (∀ q, q ≠ d.toNat → u.ctx.v.mask q = v.mask q) ∧
        (u.ctx.v.mask d.toNat = if (∀ x < vtMax e.cap.vtype, ActiveAt v e false x = true) then k else v.mask d.toNat ||| k) ∧
        FlagsJoin s u fun fl => ∃ x, ActiveAt v e false x = true ∧ fl = (col x).2.1 ||| if (col x).2.2 = 0#5 then 0#8 else Flag.gx) ∧
    ∀ x, ActiveAt v e false x = true → ¬fine x → (∀ y < x, ActiveAt v e false y = true → fine y) → s.ctx.xh.handler = false →
      s.ctx.sr.hwin.getLsbD 63 = true →
      let fp := trapping e.cap.fctl (col x).2.1
      ∃ u, EntryTraps s u e (if fp then 0x0A else 0x09)
          (BitVec.ofNat 64 (if fp then (col x).2.1.toNat % 32 else (col x).2.1.toNat % 32 * 32 + (col x).2.2.toNat)) 0 x ∧
        (∀ r y, r < 16 → y < 4096 / t.width → r ≠ 0 ∨ d ≠ 30#5 → u.ctx.v.elem t.width d r y =
          if y < x ∧ ActiveAt v e false y = true then (col y).1.getD r 0 % 2 ^ t.width else v.elem t.width d r y) ∧
        (d ≠ 30#5 → u.ctx.v.mask d.toNat = if x = 0 then v.mask d.toNat else v.mask d.toNat ||| k)

/-- 07 R163: the grades that an operation infers from those of its operands. -/
def Sys2Proof.Claims.InferredGrades : Prop :=
  ∀ (a b : BitVec 5),
    let grades (i : BitVec 5) (p : Nat → Nat → Nat → Prop) : Prop :=
      ∀ g < 5, i.getLsbD g = true ↔ ∃ x < 5, ∃ y < 5, a.getLsbD x = true ∧ b.getLsbD y = true ∧ p x y g
    grades (inferred .gp a b) (fun x y g => x ≤ y + g ∧ y ≤ x + g ∧ g ≤ x + y ∧ g + (x + y) ≤ 8 ∧ (g + x + y) % 2 = 0) ∧
    grades (inferred .wd a b) (fun x y g => g = x + y) ∧ grades (inferred .jn a b) (fun x y g => g + 4 = x + y) ∧
    grades (inferred .lc a b) (fun x y g => g + x = y) ∧
    (a &&& 0b01010#5 = 0#5 ∨ a &&& 0b10101#5 = 0#5 → inferred .sw a b = b) ∧
    (a &&& 0b01010#5 ≠ 0#5 → a &&& 0b10101#5 ≠ 0#5 → inferred .sw a b = inferred .gp (inferred .gp a b) a) ∧
    (∀ g < 5, (inferred .dl a b).getLsbD g = a.getLsbD (4 - g)) ∧
    inferred .rev a b = a ∧ inferred .inv a b = a ∧ inferred .conj a b = a ∧ inferred .nm a b = 0b00001#5 ∧ inferred .exp a b = 0b10101#5

/-- 07 R159, R160, R165, R166, 15 R331: a column: which components are kept, their flags, and the grades that escape; the exact sum that a
component is rounded from, and its terms. `mvexp` is stated for the components that are no transcendental value: of a NaN or an infinity,
of no rotation, and those that are exactly zero. -/
def Sys2Proof.Claims.MultivectorColumns : Prop :=
  (∀ (op : MvOp) (f : FFmt) (rm : Rm) (i k : BitVec 5) (a b : Column),
    let c := mvColumn op f rm i k a b
    c.1.length = 16 ∧
    (∀ r < 16, c.1.getD r 0 = if i.getLsbD (gradeOfRow r) && k.getLsbD (gradeOfRow r) then (mvComp op f rm a b r).1 else 0) ∧
    (∀ j < 8, c.2.1.getLsbD j = true ↔ ∃ r < 16, (i.getLsbD (gradeOfRow r) && k.getLsbD (gradeOfRow r)) = true ∧
      (mvComp op f rm a b r).2.getLsbD j = true) ∧
    ∀ g < 5, c.2.2.getLsbD g = true ↔ i.getLsbD g = true ∧ k.getLsbD g = false ∧
      ∃ r < 16, gradeOfRow r = g ∧ (f.decode (mvComp op f rm a b r).1).isZero = false) ∧
  (∀ (op : MvOp) (f : FFmt) (rm : Rm) (a b : Column) (r : Nat), op ≠ .exp →
    mvComp op f rm a b r = f.roundComp rm (exactSum ((mvTerms op r).map (termValue a b)))) ∧
  (∀ (f : FFmt) (rm : Rm) (n : Bool) (e : Int), f.roundComp rm (.fin n 0 e) = (0, 0#8)) ∧
  (∀ r, r < 16 → let g := gradeOfRow r
    mvTerms .rev r = [{ neg := g == 2 || g == 3, as_ := [r], bs := [] }] ∧ mvTerms .inv r = [{ neg := g == 1 || g == 3, as_ := [r], bs := [] }] ∧
    mvTerms .conj r = [{ neg := g == 1 || g == 2, as_ := [r], bs := [] }] ∧ mvTerms .dl r = [{ neg := false, as_ := [complement r], bs := [] }] ∧
    complement r = [15, 12, 13, 14, 11, 8, 9, 10, 5, 6, 7, 4, 1, 2, 3, 0].getD r 0) ∧
  (∀ r x, r < 16 →
    (x ∈ mvTerms .gp r ↔ ∃ i j n, i < 16 ∧ j < 16 ∧ bladeProduct i j = some (n, r) ∧ x = { neg := n, as_ := [i], bs := [j] }) ∧
    (x ∈ mvTerms .wd r ↔ ∃ i j n, i < 16 ∧ j < 16 ∧ bladeProduct i j = some (n, r) ∧ gradeOfRow r = gradeOfRow i + gradeOfRow j ∧
      x = { neg := n, as_ := [i], bs := [j] }) ∧
    (x ∈ mvTerms .lc r ↔ ∃ i j n, i < 16 ∧ j < 16 ∧ bladeProduct i j = some (n, r) ∧ gradeOfRow r + gradeOfRow i = gradeOfRow j ∧
      x = { neg := n, as_ := [i], bs := [j] }) ∧
    (x ∈ mvTerms .jn r ↔ ∃ i j n, i < 16 ∧ j < 16 ∧ bladeProduct i j = some (n, complement r) ∧
      gradeOfRow (complement r) = gradeOfRow i + gradeOfRow j ∧
      x = { neg := n, as_ := [complement i], bs := [complement j] }) ∧
    (x ∈ mvTerms .sw r ↔ ∃ i j l k n m, i < 16 ∧ j < 16 ∧ l < 16 ∧ bladeProduct i j = some (n, k) ∧ bladeProduct k l = some (m, r) ∧
      x = { neg := (n != m) != (gradeOfRow l == 2 || gradeOfRow l == 3), as_ := [i, l], bs := [j] }) ∧
    (x ∈ mvTerms .nm r ↔ r = 0 ∧ ∃ i ∈ [0, 1, 2, 3, 5, 6, 7, 11], x = { neg := false, as_ := [i, i], bs := [] })) ∧
  ∀ (f : FFmt) (rm : Rm) (a : Column) (r : Nat), r < 16 →
    ((∃ i < 6, (a.at_ (5 + i)).isNan = true ∨ (a.at_ (5 + i)).isInf = true) → f.expComp rm a r = f.giveNan true) ∧
    ((∀ i < 6, ∃ n m e, a.at_ (5 + i) = .fin n m e) →
      (5 ≤ r → r ≤ 7 → (∃ n e, a.at_ r = .fin n 0 e) → f.expComp rm a r = (0, 0#8)) ∧
      (r = 15 → (∀ i < 3, ∃ n e, a.at_ (8 + i) = .fin n 0 e) → f.expComp rm a r = (0, 0#8))) ∧
    ((∀ i < 3, ∃ n e, a.at_ (5 + i) = .fin n 0 e) → (∀ i < 3, ∃ n m e, a.at_ (8 + i) = .fin n m e) →
      (r = 0 → f.expComp rm a r = f.roundComp rm (.fin false 1 0)) ∧ (r = 15 → f.expComp rm a r = (0, 0#8)) ∧
      (5 ≤ r → r ≤ 7 → f.expComp rm a r = (0, 0#8)))

/-- 15 R332: `mvgm.rd` reads a grade mask; `mvgm.wr` sets one, with the rows of the grades that it adds zeroed. -/
def Sys2Proof.Claims.GradeMaskEntries : Prop :=
  ∀ (s : State) (e : VEntry) (rest : List VEntry) (d a : Reg) (k : BitVec 5), HeadRuns s e rest → e.resume = .fresh →
    let v := s.ctx.v
    (e.op = .gmRd d a → ∃ u, Completes s u rest ∧
      ∀ r < 32, u.ctx.v.x r = if r = d.toNat then (v.mask a.toNat).zeroExtend 64 else v.x r) ∧
    (e.op = .gmWr d k → ∃ u, Completes s u rest ∧ OthersKept s u d ∧ u.ctx.v.mask d.toNat = k ∧
      ∀ r < 16, u.ctx.v.row d.toNat r =
        if (k.getLsbD (gradeOfRow r) && (v.mask d.toNat).getLsbD (gradeOfRow r)) = true then v.row d.toNat r else 0#4096)

/-- 07 R159 to R167, 15 R329 to R332: the executed effect of the multivector entries. That an entry happens whole at one step is the
model's choice of log entry 51; that an active column has all its sixteen components written, with +0 in the rows of the old mask that the
result mask lacks, is the model's choice of log entry 26. -/
def Obligations.MultivectorEntriesCompute : Prop :=
  MultivectorEntriesWriteColumns ∧ InferredGrades ∧ MultivectorColumns ∧ GradeMaskEntries

/-! ## Translation and memory -/

namespace Sys2Proof.Claims

/-- No entry of the hart's streams that is older may touch the place of a scalar access or acquire, by a chunk mask or by a pending token
that it reads (log 7); an ordered access comes after all of them. -/
def Ordered (s : State) (sp : Bool) (ar : AcqRel) : Prop :=
  s.drained = true ∨
    (ar = .rlx ∧ (∀ e ∈ s.ctx.v.vq, e.op.isMem = false ∧ e.readsMask = false) ∧ (sp = true → s.ctx.m.mq = [] ∧ s.ctx.m.pend = []) ∧
      ∀ k ∈ s.ctx.cmds, k.hart = .exe →
        (∀ e ∈ s.ctx.v.vq, k.tok.toNat ∉ e.op.vr) ∧ ∀ e ∈ s.ctx.m.mq, k.tok.toNat ∉ e.op.vr)

/-- A release at system scope that a modifier asks has nothing to wait for: all that its party made or acquired has arrived at the other
packages (04 R107, R123). -/
def Arrived (s : State) (ar : AcqRel) : Prop :=
  AcqRel.relScope ar = some .sys → ∀ r ∈ s.irrevocable.remote, r.flying = true → s.party ∉ r.who

/-- A store of the hart in focus performs at once: it is no store of an open revocable strip (02 R69). -/
def Performs (s : State) (ar : AcqRel) : Prop :=
  s.hart = .acc ∨ (AcqRel.relScope ar).isSome = true ∨ ∀ p, s.ctx.strip = some p → p.revocable = false

/-- A physical address of this package's memory, not of another's. -/
def Local (a : Nat) : Prop := ∀ q off, partOf a ≠ .remote q off

/-- The hart in focus goes on to the next word; its context has no other change but of the parts named. -/
def Advanced (s t : State) : Prop :=
  t.hs = { s.hs with pc := s.pc + 8#64, wait := .none } ∧ t.ctx.hs s.hart.other = s.ctx.hs s.hart.other ∧ t.hart = s.hart ∧
  ∀ r, t.x r = s.x r

/-- `n` bytes from a physical address are written, visible in the writer's core (04 R99); every other byte, and these to every other
party, reads as before. -/
def Stored (s t : State) (pa : Nat) (bs : List Byte) : Prop :=
  ∀ v a, t.byte v a = if v = .core s.ctx.core ∧ pa ≤ a ∧ a < pa + bs.length then bs.getD (a - pa) 0#8 else s.byte v a

/-- The bytes of an access to the scratchpad at logical offset `a` hold `bs`, every other byte of it what it held, and memory is as
it was. -/
def SpadStored (s t : State) (a : Nat) (bs : List Byte) : Prop :=
  (∀ i < bs.length, t.ctx.spad.byte (swizzle s.ctx.sr.spz (a + i)) = bs.getD i 0#8) ∧
  (∀ p, (∀ i < bs.length, p ≠ swizzle s.ctx.sr.spz (a + i)) → t.ctx.spad.byte p = s.ctx.spad.byte p) ∧
  t.ctx.spad.tags = s.ctx.spad.tags ∧ SameMemory s t

/-- The slot of a tag table is valid and holds a tag (02 R59). -/
def Holds (tags : Sparse Word) (j t : Nat) : Prop :=
  (Sparse.get 0#64 tags j).getLsbD 63 = true ∧ (Sparse.get 0#64 tags j).toNat % 2 ^ 48 = t

end Sys2Proof.Claims

/-- 02 R57: the swizzle of the scratchpad only moves bytes about: no two offsets name one place. -/
def Sys2Proof.Claims.SwizzleMovesNoTwoBytesTogether : Prop :=
  ∀ (spz : Word) (a b : Nat), a < 0x400000 → b < 0x400000 → swizzle spz a < 0x400000 ∧ (swizzle spz a = swizzle spz b → a = b)

/-- The state after the stores to the entries at some addresses have reached the die cache, as each compare-and-write of an entry brings
them there (01 R22, 04 R110). -/
def Sys2Proof.Claims.gatherEntries (l : List Nat) (s : State) : State := l.foldl (fun s a => s.gatherStores .walk a 8) s

/-- The leaf that a translation uses, its eight bytes, and the address that it gives: the walk's, or the one that the core's die has
cached, of its group the member that maps the address. -/
def Sys2Proof.Claims.LeafOf (s : State) (r : XlReq) (va : Word) (e at_ pa : Nat) : Prop :=
  (∃ level, s.walk r.asid va.toNat = .leaf e at_ level ∧ pa = leafPA e level va.toNat) ∨
  ∃ c, s.cached r.core r.asid va.toNat = some c ∧ e = c.entry (c.member va.toNat) ∧ at_ = c.pteAddr + 8 * c.member va.toNat ∧
    pa = ptePA c.pte.toNat + (va.toNat - c.vpn * 4096) % (c.pages * 4096)

/-- 01 R22, R41: a translation changes nothing but the cached translations and, to set A, D, UO and G, page table entries; so long
as no save runs, which copies ahead of a store (02 R74), nothing but the eight bytes of the leaf it uses, and that the stores to entries
which it compared have reached the die cache. The eight bytes it finds then as its walk read them, and leaves for every party with no other
field changed, A set, and D set by a write. -/
def Sys2Proof.Claims.TranslationChangesOnlyEntries : Prop :=
  (∀ (s : State) (r : XlReq) (va : Word) (n : Nat), let t := (s.xlAll r va n).2
    t = { s with mem := t.mem, stores := t.stores, poison := t.poison, tlb := t.tlb, dev := { s.dev with ckpt := t.dev.ckpt } }) ∧
  ∀ (s : State) (r : XlReq) (va : Word), s.dev.ckpt.saving = false → let t := (s.xl r va).2
    t.poison = s.poison ∧ t.dev = s.dev ∧ ∃ l, let g := gatherEntries l s
    (SameMemory g t ∨ ∃ e at_ pa, let u := g.gatherStores .walk at_ 8
      LeafOf g r va e at_ pa ∧ u.num .walk at_ 8 = e ∧
      (∀ v a, ¬(at_ ≤ a ∧ a < at_ + 8) → t.byte v a = u.byte v a) ∧
      ∀ v, pteStatic (t.num v at_ 8) = pteStatic e ∧ (t.num v at_ 8).testBit 6 = true ∧
        (t.num v at_ 8).testBit 7 = (e.testBit 7 || accWrites r.k))

/-- 01 R12, R18, R19, R26: a translation that succeeds has found a leaf, by its walk or cached, that permits the access and has no HOLD;
it gives the address that the leaf maps, with the offset in the page kept, which is backed, or which a remote-package window serves. A walk
that starts again finds its leaf in the tables with the stores to the entries compared before. -/
def Sys2Proof.Claims.TranslationGrantsOnlyPermittedAccess : Prop :=
  ∀ (s : State) (r : XlReq) (va : Word) (pa : Nat), (s.xl r va).1 = .ok pa →
    canonical va = true ∧ s.dev.xatb.getLsbD 0 = true ∧ pa % 4096 = va.toNat % 4096 ∧
    ∃ l e at_, LeafOf (gatherEntries l s) r va e at_ pa ∧ permits e r.k = true ∧ pteHOLD e = false ∧ pteMAJ e = accIsMaj r.k ∧
      (pteMAJ e = false → s.backed pa = true ∨ (r.remote = true ∧ s.remoteUsable pa = true))

/-- 01 R12 to R22, R41: what a translation grants, and what it may change. -/
def Obligations.TranslationGrantsAndRecords : Prop :=
  TranslationChangesOnlyEntries ∧ TranslationGrantsOnlyPermittedAccess

/-- 16 R335, 01 R11, R26: `ld` of either space. `t` is the state after the translation, `r` after what the load acquires (04 R107): with
no acquire nothing but who knows of which store. -/
def Sys2Proof.Claims.LoadWritesTheRegister : Prop :=
  ∀ (o : MemArgs) (s : State), s.ready [o.m.a] [o.d] = true → Ordered s o.m.sp o.ar →
    let a := s.addr o.m
    let n := o.t.width / 8
    let value (bs : List Byte) : Word := extBits o.t (BitVec.ofNat o.t.width (ofBytes bs))
    8 ≤ o.t.width → a.toNat % n = 0 →
    (o.m.sp = false → ∀ pa t, s.xlAll (s.req .read .direct) a n = (.ok [(pa, n)], t) → t.badPiece [(pa, n)] = none →
      let r := t.readPieces o.ar [(pa, n)]
      (o.ar.acqScope = none → Learns t r) ∧
      ∃ u, exec (.ld o) s = .next u ∧ Wrote r u o.d (value (t.ctxBytes [(pa, n)])) ∧ GoesOn t u) ∧
    (o.m.sp = true → a.toNat + n ≤ 0x400000 →
      let places := (List.range n).map fun i => swizzle s.ctx.sr.spz (a.toNat + i)
      s.badPlaces places = false →
      let r := s.readPlaces o.ar places
      (o.ar.acqScope = none → Learns s r) ∧ LearnsHeld s r ∧ ∃ u, exec (.ld o) s = .next u ∧ Wrote r u o.d (value (places.map s.spadByte)) ∧ GoesOn s u)

/-- 01 R11, R12, R26: a scalar access whose translation faults takes LOAD_XLATE, or STORE_XLATE where it writes, with the lowest faulting
address in TADDR and its ASID, LEVEL and REASON in TINFO; one beyond the scratchpad takes them with SPACE 1 and REASON 9 at the
lowest offset beyond, and does nothing else. -/
def Sys2Proof.Claims.FaultingAccessesTrap : Prop :=
  ∀ (s : State), CanTrap s → s.drained = true →
    (let faults (i : Instr) (r : XlReq) (a : Word) (n cause : Nat) : Prop := ∀ va reason level t,
        s.xlAll r a n = (.fault va reason level, t) →
        ∃ u, exec i s = .next u ∧ Entered t u cause va (BitVec.ofNat 64 (s.ctx.asid.toNat * 4096 + level * 16 + reason)) s.pc s.pc
     (∀ o : MemArgs, o.m.sp = false → (s.addr o.m).toNat % (o.t.width / 8) = 0 →
       (s.ready [o.m.a] [o.d] = true → faults (.ld o) (s.req .read .direct) (s.addr o.m) (o.t.width / 8) 0x04) ∧
       (8 ≤ o.t.width → s.ready [o.m.a, o.d] [] = true →
         faults (.st o) (s.req .write .direct true) (s.addr o.m) (o.t.width / 8) 0x05)) ∧
     ∀ (op : AmoOp) (o : AmoArgs), o.m.sp = false → (s.addr o.m).toNat % (o.t.width / 8) = 0 →
       (s.ready [o.m.a, o.b] [o.d] = true → (o.t.isInt = true ∨ s.hart = .exe) →
         faults (.amo op o) (s.req .rmw .gather true) (s.addr o.m) (o.t.width / 8) 0x05) ∧
       (s.ready [o.m.a, o.b, o.d] [o.d] = true →
         faults (.cas o) (s.req .rmw .gather true) (s.addr o.m) (o.t.width / 8) 0x05)) ∧
    let beyond (i : Instr) (a : Word) (n cause : Nat) : Prop := a.toNat % n = 0 → 0x400000 < a.toNat + n →
      Traps i s cause (BitVec.ofNat 64 (max a.toNat 0x400000)) (BitVec.ofNat 64 (s.ctx.asid.toNat * 4096 + 1024 + 7 * 16 + 9))
    (∀ o : MemArgs, o.m.sp = true → 8 ≤ o.t.width →
      (s.ready [o.m.a] [o.d] = true → beyond (.ld o) (s.addr o.m) (o.t.width / 8) 0x04) ∧
      (s.ready [o.m.a, o.d] [] = true → beyond (.st o) (s.addr o.m) (o.t.width / 8) 0x05)) ∧
    ∀ (op : AmoOp) (o : AmoArgs), o.m.sp = true → 8 ≤ o.t.width →
      (s.ready [o.m.a, o.b] [o.d] = true → (o.t.isInt = true ∨ s.hart = .exe) →
        beyond (.amo op o) (s.addr o.m) (o.t.width / 8) 0x05) ∧
      (s.ready [o.m.a, o.b, o.d] [o.d] = true → beyond (.cas o) (s.addr o.m) (o.t.width / 8) 0x05)

/-- What the consumption of uncorrectable data at an address does, in state `t`, to the instruction of a hart that began in `s`: a rewind of
a revocable strip of the execute hart before its eighth in a row, then a machine check with SRC 6; else the machine check of the data,
which Brioche has too, on MSI-X vector 1. -/
def Sys2Proof.Claims.Consumes (i : Instr) (s t : State) (a info : Word) : Prop :=
  let checks (info : Word) : Prop := CanTrap s →
    let r := ({ t with notices := t.notices ++ [Notice.machineCheck s.ctx.core a info], msix := t.msix ++ [1] } : State).pkgEvent
    ∃ u, exec i s = .next u ∧ Entered r u 0x10 a info s.pc s.pc
  (s.hart = .acc ∨ (∀ p, s.ctx.strip = some p → p.revocable = false) → checks info) ∧
  ∀ p, s.hart = .exe → s.ctx.strip = some p → p.revocable = true →
    (p.rewinds < 7 → exec i s = .next (t.rewind p)) ∧ (p.rewinds = 7 → checks 6#64)

/-- SRC and UNIT of a poisoned physical address (11 R255): 1 and the stack, or 2 and the port. -/
def Sys2Proof.Claims.poisonSource (pa : Nat) : Word :=
  match partOf pa with
  | .hbm k => BitVec.ofNat 64 (256 * k + 1)
  | .cxl p _ => BitVec.ofNat 64 (256 * p + 2)
  | .aperture _ _ | .device _ | .remote _ _ | .hole => 1#64

/-- 11 R251, R255: a scalar load, window load or atomic of poisoned data consumes it at its address; SRC is 3 for the scratchpad. -/
def Sys2Proof.Claims.PoisonedAccessesTrapOrRewind : Prop :=
  ∀ (s : State),
    (let reads (i : Instr) (q : XlReq) (a : Word) (n : Nat) : Prop := a.toNat % n = 0 → ∀ ps t pa, s.xlAll q a n = (.ok ps, t) →
        (q.k = .rmw → t.linkDead t.ctx.core ps = none ∧ ∀ p ∈ ps, t.remoteUsable p.1 = false) → t.badPiece ps = some pa →
        Consumes i s t a (poisonSource pa)
     let places (i : Instr) (a : Word) (n : Nat) : Prop := a.toNat % n = 0 → a.toNat + n ≤ 0x400000 →
        s.badPlaces ((List.range n).map fun k => swizzle s.ctx.sr.spz (a.toNat + k)) = true → Consumes i s s a 3#64
     (∀ o : MemArgs, s.ready [o.m.a] [o.d] = true → Ordered s o.m.sp o.ar → 8 ≤ o.t.width →
       (o.m.sp = false → reads (.ld o) (s.req .read .direct) (s.addr o.m) (o.t.width / 8)) ∧
       (o.m.sp = true → places (.ld o) (s.addr o.m) (o.t.width / 8))) ∧
     ∀ (op : AmoOp) (o : AmoArgs), Ordered s o.m.sp o.ar → 8 ≤ o.t.width →
       (s.ready [o.m.a, o.b] [o.d] = true → (o.t.isInt = true ∨ s.hart = .exe) →
         (o.m.sp = false → reads (.amo op o) (s.req .rmw .gather true) (s.addr o.m) (o.t.width / 8)) ∧
         (o.m.sp = true → places (.amo op o) (s.addr o.m) (o.t.width / 8))) ∧
       (s.ready [o.m.a, o.b, o.d] [o.d] = true →
         (o.m.sp = false → reads (.cas o) (s.req .rmw .gather true) (s.addr o.m) (o.t.width / 8)) ∧
         (o.m.sp = true → places (.cas o) (s.addr o.m) (o.t.width / 8)))) ∧
    ∀ (t : Ty) (d : Reg) (w : Idx3) (b : Reg) (off : BitVec 14) (ar : AcqRel), s.ready [b] [d] = true → Ordered s false ar →
      8 ≤ t.width →
      let o := s.x b + off.signExtend 64
      let va := winBase (Sparse.get 0#128 s.ctx.win w.toNat) + o
      let size := winSize (Sparse.get 0#128 s.ctx.win w.toNat)
      va.toNat % (t.width / 8) = 0 → o.toNat < size → ∀ ps u pa,
      s.xlAll (s.req .read .direct) va (min (t.width / 8) (size - o.toNat)) = (.ok ps, u) → u.badPiece ps = some pa →
      Consumes (.ldw t d w b off ar) s u va (poisonSource pa)

/-- 01 R11, R12, R26, 11 R251, R255: the traps of scalar accesses that a translation, a bound or poison stops. -/
def Obligations.FaultsAndPoisonTrap : Prop :=
  FaultingAccessesTrap ∧ PoisonedAccessesTrapOrRewind

/-- 16 R335, 04 R99, R107, R123, 02 R69: `st` writes the low bytes of xd. `t` is the state after the translation, `r` after the release
that the modifier asks; one at system scope waits for what is on its way to other packages. In a revocable strip the store is held, and
nothing is written yet, unless it would fill more than 2048 sectors: then the strip becomes irrevocable, and the store performs after those
held. -/
def Sys2Proof.Claims.StoreWritesMemory : Prop :=
  ∀ (o : MemArgs) (s : State), s.ready [o.m.a, o.d] [] = true → Ordered s o.m.sp o.ar →
    let a := s.addr o.m
    let n := o.t.width / 8
    let bs := toBytes n (s.x o.d).toNat
    8 ≤ o.t.width → a.toNat % n = 0 →
    (o.m.sp = false → ∀ pa t, s.xlAll (s.req .write .direct true) a n = (.ok [(pa, n)], t) →
      let r := (t.releaseFor o.ar).2
      (t.linkDead t.ctx.core [(pa, n)] = none → ¬Arrived t o.ar → exec (.st o) s = .next (t.irrevocable.setWait .other)) ∧
      (Local pa → Performs s o.ar → Arrived t o.ar → ∃ u, exec (.st o) s = .next u ∧ Stored r u pa bs ∧ Advanced s u ∧
        u = { r with ctx := u.ctx, mem := u.mem, stores := u.stores } ∧
        u.ctx = { r.ctx with ah := u.ctx.ah, xh := u.ctx.xh }) ∧
      (¬Performs s o.ar → t.linkDead t.ctx.core [(pa, n)] = none → ∀ p, s.ctx.strip = some p →
        let h : Held := { spad := false, addr := pa, bytes := bs, vp := s.ctx.lane }
        ((heldSectors (h :: p.held)).length ≤ 2048 →
          ∃ u, exec (.st o) s = .next u ∧ SameMemory t u ∧ Advanced s u ∧ u = { t with ctx := u.ctx } ∧
            u.ctx = { t.ctx with ah := u.ctx.ah, xh := u.ctx.xh, strip := some { p with held := h :: p.held } }) ∧
        (2048 < (heldSectors (h :: p.held)).length → s.ctx.lane = none → Local pa →
          let r := t.irrevocable
          ∃ u, exec (.st o) s = .next u ∧ Stored r u pa bs ∧ Advanced s u ∧ u = { r with ctx := u.ctx, mem := u.mem, stores := u.stores } ∧
            u.ctx = { r.ctx with ah := u.ctx.ah, xh := u.ctx.xh }))) ∧
    (o.m.sp = true → a.toNat + n ≤ 0x400000 →
      let performs (r : State) : Prop := ∃ u, exec (.st o) s = .next u ∧ SpadStored r u a.toNat bs ∧ Advanced s u ∧
        u = { r with ctx := u.ctx } ∧ u.ctx = { r.ctx with ah := u.ctx.ah, xh := u.ctx.xh, spad := u.ctx.spad, slog := u.ctx.slog }
      (¬Arrived s o.ar → exec (.st o) s = .next (s.irrevocable.setWait .other)) ∧
      (Performs s o.ar → Arrived s o.ar → performs (s.releaseFor o.ar).2) ∧
      (¬Performs s o.ar → ∀ p, s.ctx.strip = some p →
        let h : Held := { spad := true, addr := swizzle s.ctx.sr.spz a.toNat, bytes := bs, vp := s.ctx.lane }
        ((heldSectors (h :: p.held)).length ≤ 2048 →
          ∃ u, exec (.st o) s = .next u ∧ SameMemory s u ∧ Advanced s u ∧ u = { s with ctx := u.ctx } ∧
            u.ctx = { s.ctx with ah := u.ctx.ah, xh := u.ctx.xh, strip := some { p with held := h :: p.held } } ∧
            (∀ i < n, u.spadByte (swizzle s.ctx.sr.spz (a.toNat + i)) = bs.getD i 0#8)) ∧
        (2048 < (heldSectors (h :: p.held)).length → s.ctx.lane = none → performs s.irrevocable)))

/-- 16 R334, 11 R235: a scalar access that is not naturally aligned takes ALIGN with its address and size, and nothing else. -/
def Sys2Proof.Claims.MisalignedAccessTrapsAlign : Prop :=
  ∀ (o : MemArgs) (s : State), (s.addr o.m).toNat % (o.t.width / 8) ≠ 0 →
    (s.ready [o.m.a] [o.d] = true → Traps (.ld o) s 0x06 (s.addr o.m) (BitVec.ofNat 64 (o.t.width / 8))) ∧
    (s.ready [o.m.a, o.d] [] = true → Traps (.st o) s 0x06 (s.addr o.m) (BitVec.ofNat 64 (o.t.width / 8)))

/-- 16 R334, R335, 04 R99, R107, 02 R69: `st` of either space, and the ALIGN trap of `ld` and `st`. The condition that no older entry may
touch the place, and that a store performs at once in its core's instance, are the model's choices of log entry 7. -/
def Obligations.StoresWriteAndAlign : Prop :=
  StoreWritesMemory ∧ MisalignedAccessTrapsAlign

/-- 01 R28, 16 R336: `ldw` reads the bytes below the bound; those beyond it are zero and set PWB; an empty window traps WINDOW. -/
def Sys2Proof.Claims.WindowLoadStaysInBounds : Prop :=
  ∀ (t : Ty) (d : Reg) (w : Idx3) (b : Reg) (off : BitVec 14) (ar : AcqRel) (s : State), s.ready [b] [d] = true → Ordered s false ar →
    let o := s.x b + off.signExtend 64
    let n := t.width / 8
    let win := Sparse.get 0#128 s.ctx.win w.toNat
    let va := winBase win + o
    let size := winSize win
    let i := Instr.ldw t d w b off ar
    let value (bs : List Byte) : Word := extBits t (BitVec.ofNat t.width (ofBytes bs))
    8 ≤ t.width → va.toNat % n = 0 →
    (size = 0 → Traps i s 0x07 o (BitVec.ofNat 64 w.toNat)) ∧
    (0 < size → size ≤ o.toNat → WritesFlags i s d 0#64 Flag.pwb) ∧
    (o.toNat < size →
      let k := min n (size - o.toNat)
      (∀ pa u, s.xlAll (s.req .read .direct) va k = (.ok [(pa, k)], u) → u.badPiece [(pa, k)] = none →
        let r := u.readPieces ar [(pa, k)]
        (ar.acqScope = none → Learns u r) ∧
        ∃ v, exec i s = .next v ∧ Wrote r v d (value (u.ctxBytes [(pa, k)])) ∧ v.pc = s.pc + 8#64 ∧
          v.hs.fstat = if o.toNat + n ≤ size then s.hs.fstat else s.hs.fstat ||| Flag.pwb) ∧
      ∀ at_ reason level u, s.xlAll (s.req .read .direct) va k = (.fault at_ reason level, u) → CanTrap s →
        ∃ v, exec i s = .next v ∧
          Entered u v 0x04 at_ (BitVec.ofNat 64 (s.ctx.asid.toNat * 4096 + 2 * 1024 + level * 16 + 8)) s.pc s.pc)

/-- 16 R335, R336, 01 R11, R26, R28: `ld` of either space, and `ldw` within its window. The condition that no older entry may touch the
place is the model's choice of log entry 7. -/
def Obligations.LoadsWriteTheirRegister : Prop :=
  LoadWritesTheRegister ∧ WindowLoadStaysInBounds

/-- 02 R59, R60: the tag table: `tlook` answers the slot that holds the tag, `tset` leaves the tag in its slot and in no other, `tinv`
clears V of its slot and keeps the tag. -/
def Sys2Proof.Claims.TagTableHoldsATagOnce : Prop :=
  ∀ (s : State), Ordered s true .rlx → Sparse.wf 0#64 s.ctx.spad.tags = true →
    let tags := s.ctx.spad.tags
    (∀ (d a : Reg), s.ready [a] [d] = true → ∃ j, Writes (.tlook d a) s d (BitVec.ofNat 64 j) ∧
      (Holds tags j ((s.x a).toNat % 2 ^ 48) ∨ (j = 0xFFFF ∧ ∀ k, ¬Holds tags k ((s.x a).toNat % 2 ^ 48)))) ∧
    (∀ (slot : BitVec 12) (a : Reg), s.ready [a] [] = true → ∃ t, exec (.tset slot a) s = .next t ∧
      Kept { s with ctx := { s.ctx with spad := { s.ctx.spad with tags := t.ctx.spad.tags } } } t ∧ GoesOn s t ∧
      (∀ k, Holds t.ctx.spad.tags k ((s.x a).toNat % 2 ^ 48) ↔ k = slot.toNat) ∧
      ∀ k u, k ≠ slot.toNat → u ≠ (s.x a).toNat % 2 ^ 48 → (Holds t.ctx.spad.tags k u ↔ Holds tags k u)) ∧
    ∀ (slot : BitVec 12), ∃ t, exec (.tinv slot) s = .next t ∧
      Kept { s with ctx := { s.ctx with spad := { s.ctx.spad with tags := t.ctx.spad.tags } } } t ∧ GoesOn s t ∧
      ∀ k, Sparse.get 0#64 t.ctx.spad.tags k =
        if k = slot.toNat then Sparse.get 0#64 tags k &&& 0xFFFFFFFFFFFF#64 else Sparse.get 0#64 tags k

/-- 02 R52 to R60: the physical places of the scratchpad, and its tag table. The condition that no older entry may touch the tags is the
model's choice of log entry 7. -/
def Obligations.ScratchpadPlacesAndTags : Prop :=
  SwizzleMovesNoTwoBytesTogether ∧ TagTableHoldsATagOnce

/-- 16 R345: the operations of an atomic of an integer type, on bit vectors of its width: min and max signed under an .i type, unsigned
under an .n type. -/
def Sys2Proof.Claims.amoBits (op : AmoOp) (signed : Bool) {w : Nat} (old b : BitVec w) : BitVec w :=
  let le := if signed then old.sle b else old.ule b
  match op with
  | .swap => b
  | .add => old + b
  | .and => old &&& b
  | .or => old ||| b
  | .xor => old ^^^ b
  | .min => if le then old else b
  | .max => if le then b else old

/-- 16 R345, 13 R278: what an atomic writes, and the flags it raises: of an integer type by the operation on bit vectors, and none; of a float
type by `fadd`, `fmin` and `fmax`, or the operand itself. -/
def Sys2Proof.Claims.AtomicValues : Prop :=
  ∀ (t : Ty) (rm : Rm),
    (t.isInt = true → ∀ (op : AmoOp) (old b : BitVec t.width),
      amoValue op t rm old.toNat b.toNat = ((amoBits op t.isSigned old b).toNat, 0#8)) ∧
    (t.isInt = false → ∀ old b : Nat, amoValue .swap t rm old b = (b, 0#8) ∧ amoValue .add t rm old b = (ffmt t).add rm false old b ∧
      amoValue .min t rm old b = (ffmt t).minmax false old b ∧ amoValue .max t rm old b = (ffmt t).minmax true old b)

/-- 16 R345, R346, 04 R110: `amo` and `cas` read and write their bytes in one step; the old value goes to xd. `t` is the state after the
translation, `g` after the stores to these bytes have reached the party, `r` after the release that the modifier asks. -/
def Sys2Proof.Claims.AtomicsReadAndWriteAtOnce : Prop :=
  ∀ (o : AmoArgs) (s : State), Ordered s o.m.sp o.ar →
    let a := s.addr o.m
    let n := o.t.width / 8
    8 ≤ o.t.width → a.toNat % n = 0 → o.m.sp = false →
    ∀ pa t, s.xlAll (s.req .rmw .gather true) a n = (.ok [(pa, n)], t) → t.remoteUsable pa = false → t.badPiece [(pa, n)] = none →
      t.linkDead t.ctx.core [(pa, n)] = none → Arrived t o.ar →
    let g := t.irrevocable.gatherStores (.core t.ctx.core) pa n
    let old := ofBytes (g.ctxBytes [(pa, n)])
    (∀ op v fl, (o.t.isInt = true ∨ s.hart = .exe) → s.ready [o.m.a, o.b] [o.d] = true →
      amoValue op o.t (resolveRm o.rm s.ctx.sr.fctl) old (low o.t (s.x o.b)) = (v, fl) → trapping s.ctx.sr.fctl fl = false →
      let r := (((g.orFlags fl).readPieces o.ar [(pa, n)]).releaseFor o.ar).2
      ∃ u, exec (.amo op o) s = .next u ∧ Stored r u pa (toBytes n v) ∧ u.pc = s.pc + 8#64 ∧ u.hs.fstat = s.hs.fstat ||| fl ∧
        ∀ q, u.x q = if q = o.d then ext o.t old else s.x q) ∧
    (s.ready [o.m.a, o.b, o.d] [o.d] = true →
      let r := ((g.readPieces o.ar [(pa, n)]).releaseFor o.ar).2
      ∃ u, exec (.cas o) s = .next u ∧ u.pc = s.pc + 8#64 ∧ u.hs.fstat = s.hs.fstat ∧
        (∀ q, u.x q = if q = o.d then ext o.t old else s.x q) ∧
        (old = low o.t (s.x o.d) → Stored r u pa (toBytes n (low o.t (s.x o.b)))) ∧
        (old ≠ low o.t (s.x o.d) → SameMemory r u))

/-- 16 R345, R346, 02 R70, R71: the same in the scratchpad, the stores that the strip holds read and performed before it. `r` is the state
after what the modifier acquires, and the release that it asks. -/
def Sys2Proof.Claims.ScratchpadAtomics : Prop :=
  ∀ (o : AmoArgs) (s : State), Ordered s true o.ar → o.m.sp = true →
    let a := (s.addr o.m).toNat
    let n := o.t.width / 8
    let places := (List.range n).map fun i => swizzle s.ctx.sr.spz (a + i)
    let old := ofBytes (places.map s.spadByte)
    8 ≤ o.t.width → a % n = 0 → a + n ≤ 0x400000 → s.badPlaces places = false → Arrived s o.ar →
    (∀ op v fl, (o.t.isInt = true ∨ s.hart = .exe) → s.ready [o.m.a, o.b] [o.d] = true →
      amoValue op o.t (resolveRm o.rm s.ctx.sr.fctl) old (low o.t (s.x o.b)) = (v, fl) → trapping s.ctx.sr.fctl fl = false →
      let r := (((s.orFlags fl).irrevocable.readPlaces o.ar places).releaseFor o.ar).2
      ∃ u, exec (.amo op o) s = .next u ∧ SpadStored r u a (toBytes n v) ∧ u.pc = s.pc + 8#64 ∧ u.hs.fstat = s.hs.fstat ||| fl ∧
        ∀ q, u.x q = if q = o.d then ext o.t old else s.x q) ∧
    (s.ready [o.m.a, o.b, o.d] [o.d] = true →
      let r := ((s.irrevocable.readPlaces o.ar places).releaseFor o.ar).2
      ∃ u, exec (.cas o) s = .next u ∧ u.pc = s.pc + 8#64 ∧ (∀ q, u.x q = if q = o.d then ext o.t old else s.x q) ∧
        (old = low o.t (s.x o.d) → SpadStored r u a (toBytes n (low o.t (s.x o.b)))) ∧
        (old ≠ low o.t (s.x o.d) → u.ctx.spad = r.ctx.spad ∧ SameMemory r u))

/-- 16 R345: an atomic of a float type runs on the execute hart alone, and traps FP, with nothing changed, on an enabled flag. -/
def Sys2Proof.Claims.FloatAtomicsTrap : Prop :=
  ∀ (op : AmoOp) (o : AmoArgs) (s : State), o.t.isInt = false →
    (s.hart = .acc → Traps (.amo op o) s 0x00 0#64 (Instr.amo op o).encode) ∧
    (s.hart = .exe → s.ready [o.m.a, o.b] [o.d] = true → Ordered s true o.ar → o.m.sp = true →
      let a := (s.addr o.m).toNat
      let n := o.t.width / 8
      let places := (List.range n).map fun i => swizzle s.ctx.sr.spz (a + i)
      let r := amoValue op o.t (resolveRm o.rm s.ctx.sr.fctl) (ofBytes (places.map s.spadByte)) (low o.t (s.x o.b))
      a % n = 0 → a + n ≤ 0x400000 → s.badPlaces places = false → Arrived s o.ar → trapping s.ctx.sr.fctl r.2 = true →
      Traps (.amo op o) s 0x0A 0#64 (BitVec.ofNat 64 (r.2.toNat % 32)))

/-- 16 R345, R346, 04 R110: `amo` and `cas` in both spaces. The condition that no older entry may touch the place is the model's choice of
log entry 7. -/
def Obligations.AtomicsReadAndWrite : Prop :=
  AtomicsReadAndWriteAtOnce ∧ ScratchpadAtomics ∧ FloatAtomicsTrap ∧ AtomicValues

/-- 04 R100, R109, R123, 16 R348, 13 R288, 02 R71: `fence` makes the strip irrevocable, for a kind with stores or eng; performs at its scope
what the hart has acquired and those of its own stores that it has read, for every kind, those that the strip holds once they perform; its own stores, for a kind that orders earlier
stores, and those of its commands, for eng; and drops the words fetched ahead, for a kind that orders loads after it. At system scope it
waits for those of them that are on their way to another package. -/
def Sys2Proof.Claims.FenceReleasesAndRefetches : Prop :=
  ∀ (sc : Scope) (k : BitVec 5) (s : State), s.drained = true →
    (k.getLsbD 4 = true → s.hart = .acc → s.ctx.cmds = []) →
    let i := if k.getLsbD 1 || k.getLsbD 2 || k.getLsbD 3 || k.getLsbD 4 then s.irrevocable else s
    let own := k.getLsbD 2 || k.getLsbD 3
    let sent := ∃ r ∈ i.remote, r.flying = true ∧ s.party ∈ r.who ∧
      (own = true ∨ r.by_ ≠ { core := s.ctx.core, bank := s.ctx.bank, hart := s.hart, cmd := none })
    let h := i.raiseHeld (fun w => w.who.contains (if s.ctx.stripKey w = s.party then ownRead else s.party)) sc
    let r := h.raise (fun w => (w.who.contains s.party && (own || decide (w.own ≠ s.party) || w.who.contains ownRead)) ||
      (k.getLsbD 4 && decide (w.own = s.ctx.engKey))) sc
    (sc = .sys → sent → exec (.fence sc k) s = .next (i.setWait .other)) ∧
    (¬(sc = .sys ∧ sent) → ∃ t, exec (.fence sc k) s = .next t ∧ SameMemory r t ∧ t = { r with ctx := t.ctx } ∧
      t.ctx = { r.ctx with ah := t.ctx.ah, xh := t.ctx.xh } ∧ t.ctx.hs s.hart.other = s.ctx.hs s.hart.other ∧
      t.hs = { s.hs with pc := s.pc + 8#64, wait := .none, ibuf := if k.getLsbD 0 || k.getLsbD 2 then [] else s.hs.ibuf })

/-- 04 R99, R101, R107, R109, R118: what a fence or a release makes visible: each store that it takes, and every store of its block, is then
visible at the scope; every party reads of each byte the newest store that it sees with those, and at system scope every party sees them. A
store that the strip holds is bound to perform at the scope. -/
def Sys2Proof.Claims.RaisedStoresAreVisible : Prop :=
  (∀ (s : State) (p : PStore → Bool) (sc : Scope), s.dev.ckpt.saving = false →
    let t := s.raise p sc
    let taken (w : PStore) : PStore := if s.withBlock p w then { w with level := scopeMax w.level sc } else w
    t = { s with mem := t.mem, stores := t.stores } ∧
    (∀ w ∈ s.stores, s.withBlock p w = true → taken w ∈ t.stores ∨ (taken w).level = .sys) ∧
    (∀ v a, t.byte v a = s.byteBy (fun w => v.sees (taken w)) a) ∧
    (sc = .sys → ∀ v a, t.byte v a = s.byteBy (fun w => v.sees w || s.withBlock p w) a) ∧
    (∀ x : Scope, scopeRank sc ≤ scopeRank (scopeMax x sc)) ∧ (∀ w ∈ s.stores, p w = true → s.withBlock p w = true) ∧
    ∀ v a, (∀ w ∈ s.stores, s.withBlock p w = true → v.sees (taken w) = v.sees w) → t.byte v a = s.byte v a) ∧
  ∀ (s : State) (p : Held → Bool) (sc : Scope) (q : Strip), s.ctx.strip = some q → let t := s.raiseHeld p sc
    ∃ l : List Held, t = { s with ctx := { s.ctx with strip := some { q with held := l } } } ∧ l.length = q.held.length ∧
      ∀ (k : Nat) (h : Held), q.held[k]? = some h → ∃ sc' : Scope, l[k]? = some { h with level := sc' } ∧ (p h = true → sc' = scopeMax h.level sc)

/-- 04 R97, R107, R108: a release takes every store that its party made or has acquired; its write carries a key of them all; and a party
that reads the write by an acquire, each in the other's instance, has acquired them. A store that a strip holds performs at the scope that
it is bound to, known to every party that has read it. -/
def Sys2Proof.Claims.ReleasesAreAcquired : Prop :=
  (∀ (s : State) (key : Nat) (sc : Scope), s.release key sc = s.raise (fun w => w.who.contains key) sc) ∧
  (∀ (s : State) (core key : Nat) (sc : Scope), let r := s.syncs core key sc
    Learns s r.2 ∧ ∀ w ∈ s.stores, w.who.contains key = true → w.level ≠ .sys →
      ∃ y ∈ r.1, y.core = core ∧ y.scope = sc ∧
        ∃ x ∈ r.2.stores, x.who.contains y.key = true ∧ { x with who := w.who } = w) ∧
  (∀ (s : State) (core key : Nat) (sc : Scope) (l : List Sync) (y : Sync) (w : PStore), y ∈ l → sameInst y.scope y.core core = true →
    sameInst sc y.core core = true → w ∈ s.stores → w.who.contains y.key = true →
    Learns s (s.acquireSyncs core key sc l) ∧
    ∃ x ∈ (s.acquireSyncs core key sc l).stores, x.who.contains key = true ∧ { x with who := w.who } = w) ∧
  (∀ (s : State) (q : Strip) (acq : Option Scope) (sp : Bool) (as : List Nat) (a k : Nat) (h : Held), s.ctx.strip = some q → a ∈ as →
    q.held.findIdx? (fun x => x.covers sp a) = some k → q.held[k]? = some h →
    let t := s.readHeld s.party acq sp as
    LearnsHeld s t ∧ ∃ p x, t.ctx.strip = some p ∧ p.held[k]? = some x ∧
      x.who.contains (if s.ctx.stripKey h = s.party then ownRead else s.party) = true ∧ ∀ sc, acq = some sc → x.level = scopeMax h.level sc) ∧
  ∀ (s : State) (key : Nat) (sync : List Sync) (h : Held), h.spad = false → Local h.addr → h.level ≠ .sys →
    ∃ x ∈ (s.performHeld key sync h).stores, x.addr = h.addr ∧ x.bytes = h.bytes ∧ x.level = h.level ∧ x.who = key :: h.who ∧ x.sync = sync

/-- 04 R97, R99, R107 to R109, R118, 16 R348, 13 R288: `fence`, what a release makes visible, and what an acquire learns. The keys are the
model's own way to say what a party has made or acquired (log entry 7); the words fetched ahead are log entry 49. -/
def Obligations.FencesAndReleasesPublish : Prop :=
  FenceReleasesAndRefetches ∧ RaisedStoresAreVisible ∧ ReleasesAreAcquired

/-! ## Majority cells -/

/-- 03 R86: a replica accepts a tagged write when it is poisoned or holds a smaller tag, and then holds the bytes and the tag with no
poison; else it answers its own tag and changes nothing. -/
def Sys2Proof.Claims.ReplicaKeepsTheNewestTag : Prop :=
  ∀ (s : State) (pa : Nat) (data : List Byte) (tag : Word), pa % 64 = 0 → data.length = 64 → s.stores = [] → s.dev.ckpt.saving = false →
    let now := Sparse.get 0#64 s.sideband (pa / 64)
    let t := (s.replicaWrite pa data tag).2
    (s.poison.contains (pa / 64) = true ∨ now.toNat < tag.toNat →
      (s.replicaWrite pa data tag).1 = .accept (s.poison.contains (pa / 64)) ∧ Sparse.get 0#64 t.sideband (pa / 64) = tag ∧ t.poison.contains (pa / 64) = false ∧
      (∀ k, k ≠ pa / 64 → Sparse.get 0#64 t.sideband k = Sparse.get 0#64 s.sideband k) ∧
      ∀ v a, t.byte v a = if pa ≤ a ∧ a < pa + 64 then data.getD (a - pa) 0#8 else s.byte v a) ∧
    (s.poison.contains (pa / 64) = false → tag.toNat ≤ now.toNat → s.replicaWrite pa data tag = (.reject now, s))

/-- 03 R86, R89: a tagged write in flight, whichever of them, reaches its replica, unless its stack is lost, and the answer goes back
to the operation that waits for it; an answer that arrives is given to its operation, and a request for a read answers what the replica
holds. -/
def Sys2Proof.Claims.ReplicaMessagesArrive : Prop :=
  (∀ (s : State) (w : RepWrite) (pre post : List RepWrite), s.repWrites = pre ++ w :: post →
    let u := ({ s with repWrites := pre ++ post } : State)
    let r := if s.dev.mclost.getLsbD w.stk then (Answer.lost, u) else u.replicaWrite w.pa w.bytes w.tag
    (w.op = none → exec (.replicaWrite pre.length) s = .next r.2) ∧
    (∀ id, w.op = some id → exec (.replicaWrite pre.length) s =
      .next { r.2 with repAnswers := r.2.repAnswers ++ [{ op := id, replica := w.replica, stk := w.stk, pa := w.pa, ans := some r.1 }] })) ∧
  ∀ (s : State) (m : RepAnswer) (pre post : List RepAnswer), s.repAnswers = pre ++ m :: post →
    let u := ({ s with repAnswers := pre ++ post } : State)
    (m.ans = none → exec (.majorityAnswer pre.length) s = .next { u with repAnswers := pre ++ post ++
      [{ m with ans := some (if s.dev.mclost.getLsbD m.stk then .lost else s.replicaRead m.pa) }] }) ∧
    (∀ a, m.ans = some a → exec (.majorityAnswer pre.length) s =
      .next (u.deliver_ m.op m.replica (if s.dev.mclost.getLsbD m.stk then .lost else a)))

/-- 03 R82, R87 to R89, 16 R347, 02 R71, 04 R107, R111: the start of an operation on a majority page. `mcst` sends each replica that is not
lost the bytes of its register with the tag of MCC + 1 and its writer slot; `mcld` and `mctag` ask each of them for its value; then the hart
waits. `t` is the state after the translation, `r` with the strip irrevocable, as `mcst` and `mcld` make it, and after the release that the
modifier asks. A store whose counter is used up completes with EXHAUSTED and sends nothing. -/
def Sys2Proof.Claims.MajorityOperationsBegin : Prop :=
  ∀ (i : Instr) (d a b : Reg) (ar : AcqRel) (store : Bool) (s t : State) (c : TlbEntry) (pa : Nat), s.hart = .exe →
    (i = .mcst d a b ar ∧ store = true ∧ s.ready [a, d] [b] = true) ∨ (i = .mcld d a b ar ∧ store = false ∧ s.ready [a] [d, b] = true) ∨
      (i = .mctag a b ar ∧ store = false ∧ s.ready [a] [b] = true) →
    (∀ m ∈ s.maj, s.ofSlot m = false) → s.drained = true → (s.x a).toNat % 64 = 0 →
    s.xlAll (s.req (if store then .majWrite else .majRead)) (s.x a) 64 = (.ok [(pa, 64)], t) →
    t.cached t.ctx.core t.ctx.asid (s.x a).toNat = some c → t.dev.mcbase.getLsbD 63 = true → (store = true → Arrived t ar) →
    let reps := t.replicas (pteMSET c.pte.toNat)
    let lost := reps.filter fun k => t.dev.mclost.getLsbD k.2
    let live := reps.filter fun k => !t.dev.mclost.getLsbD k.2
    2 * lost.length < reps.length →
    let slot := slotOf t.ctx.core t.ctx.bank .exe
    let tag := BitVec.ofNat 64 ((t.mccOf slot + 1) * 2 ^ 40 + writerField t.ctx.core t.ctx.bank .exe)
    let q := if i = .mctag a b ar then t else t.irrevocable
    let r := if store then (q.releaseFor ar).2 else q
    (¬(store = true ∧ t.mccOf slot = 0xFFFFFF) →
      ∃ u, exec i s = .next u ∧ u.hs = { t.hs with wait := .majority } ∧ SameMemory r u ∧
        (store = true → u.repAnswers = r.repAnswers ∧ u.repWrites = r.repWrites ++ live.map (fun k =>
          { op := some r.nextId, replica := k.1, stk := k.2, pa := replicaAddr k.2 pa, bytes := toBytes 64 (s.ctx.v.row d.toNat 0).toNat,
            tag := tag })) ∧
        (store = false → u.repWrites = r.repWrites ∧ u.repAnswers = r.repAnswers ++ live.map (fun k =>
          { op := r.nextId, replica := k.1, stk := k.2, pa := replicaAddr k.2 pa, ans := none })) ∧
        (∃ m, u.maj = r.maj ++ [m] ∧ m.id = r.nextId ∧ m.instr = i ∧ m.store = store ∧ m.result = none ∧ m.orphan = false ∧ u.ownOp = some m ∧
          (store = true → m.tag = tag ∧ m.lost = lost.length) ∧ (store = false → m.badLost = lost.map (·.1))) ∧
        (store = true → (q.releaseFor ar).1 ≠ [] → { pa := pa, tag := tag, sync := (q.releaseFor ar).1 } ∈ u.majRel) ∧
        u = { r with ctx := u.ctx, repWrites := u.repWrites, repAnswers := u.repAnswers, maj := u.maj, majRel := u.majRel,
                     nextId := r.nextId + 1 } ∧
        u.ctx = { r.ctx with ah := u.ctx.ah, xh := u.ctx.xh }) ∧
    (store = true → t.mccOf slot = 0xFFFFFF →
      ∃ u, exec i s = .next u ∧ Wrote r u b (if lost = [] then 2#64 else 6#64) ∧ GoesOn r u)

/-- 03 R85, R87, R88, 16 R347: when the operation that the hart waits for has its result, `mcld`, `mcst` and `mctag` complete with it, whatever
their address register and its page hold by then; before that they wait on. An operation that the hart has left, to a trap or to another
instruction, goes on without it, and the instruction begins its own. -/
def Sys2Proof.Claims.MajorityInstructionsComplete : Prop :=
  ∀ (i : Instr) (d a b : Reg) (ar : AcqRel) (s : State) (m : MajOp), s.hart = .exe → s.ownOp = some m →
    i = .mcld d a b ar ∨ i = .mcst d a b ar ∨ i = .mctag a b ar →
    (s.hs.wait = .majority → m.instr = i →
      (m.result = none → exec i s = .next s) ∧
      ∀ bs w, m.result = some (some (bs, w)) →
        let u := ({ s with maj := s.maj.filter fun x => x.id ≠ m.id } : State).majAcquire m.pa ar w
        Learns { s with maj := s.maj.filter fun x => x.id ≠ m.id } u ∧
        (i ≠ .mcld d a b ar → s.ready [] [b] = true → ∃ t, exec i s = .next t ∧ Wrote u t b w ∧ GoesOn s t) ∧
        (i = .mcld d a b ar → s.ready [] [d, b] = true → d ≠ b → bs.length = 64 → ∃ t, exec i s = .next t ∧ t.x b = w ∧
          (∀ k < 64, (t.ctx.v.row d.toNat 0).extractLsb' (8 * k) 8 = bs.getD k 0#8) ∧ SameMemory s t ∧ GoesOn s t ∧
          (∀ r row, r < 32 → row < 16 → row ≠ 0 ∨ (r ≠ d.toNat ∧ r ≠ b.toNat) → t.ctx.v.row r row = s.ctx.v.row r row) ∧
          t = { u with ctx := t.ctx } ∧ t.ctx = { u.ctx with v := t.ctx.v, xh := t.ctx.xh })) ∧
    (s.ctx.v.vq = [] → s.hs.wait ≠ .majority ∨ m.instr ≠ i →
      exec i s = exec i (s.orphanOps .exe) ∧ (s.orphanOps .exe).ownOp = none)

/-- 03 R82, R85 to R89, 16 R347: a replica takes a newer tag and refuses an older one, and the messages of an operation arrive; a majority
store sends tagged writes and a load asks for values, and `mcld`, `mcst`, `mctag` complete with their result. The operation is one message at a time on the agenda (log
entry 2). -/
def Obligations.MajorityInstructions : Prop :=
  ReplicaKeepsTheNewestTag ∧ ReplicaMessagesArrive ∧ MajorityOperationsBegin ∧ MajorityInstructionsComplete

/-! ## Barriers -/

/-- 16 R349 to R352, 04 R108, R110: `bari` sets the object, and `bara` counts an arrival and answers its phase, or closes the phase; the
object lies in the scratchpad of the launch's active context on the core that the address names, here the context in focus. What the write
carries, every acquire that reads it gains: the release of the instruction, and under `bara` what the value before carried. -/
def Sys2Proof.Claims.BarrierObjectCounts : Prop :=
  ∀ (a d : Reg) (s : State), s.drained = true → (s.x a).toNat % 16 = 0 → bits (s.x a).toNat 25 39 = 0 →
    s.peer (barCore s.ctx.core (s.x a)) = some s.ctx → s.ctx.place = .active → s.ctx.strip = none →
    s.objBad s.ctx (barOff (s.x a)) = false →
    let off := barOff (s.x a)
    let w := s.ctx.objWord off
    let core := barCore s.ctx.core (s.x a)
    let carries (r t : State) : Prop := ∀ y ∈ (r.syncs s.ctx.core s.party .cluster).1, y ∈ t.objSyncs core off
    let chains (t : State) : Prop := carries ((s.acquireObj core off).release s.party .cluster) t ∧
      ∀ y ∈ s.objSyncs core off, y ∈ t.objSyncs core off
    (∀ exp : BitVec 12, s.ready [a] [] = true → ∃ t, exec (.bari a exp) s = .next t ∧ carries (s.releaseBy .cluster) t ∧
      t.ctx.objWord off = 16 * exp.toNat ∧ t.ctx.objWord (off + 8) = 0 ∧ t.pc = s.pc + 8#64 ∧ ∀ r, t.x r = s.x r) ∧
    (∀ n : BitVec 5, s.ready [a] [d] = true → objArr w + n.toNat < objExp w → ∃ t, exec (.bara d a n) s = .next t ∧
      t.x d = BitVec.ofNat 64 (objPhase w) ∧ chains t ∧ objArr (t.ctx.objWord off) = objArr w + n.toNat ∧
      t.ctx.objWord (off + 8) = s.ctx.objWord (off + 8) ∧
      objPhase (t.ctx.objWord off) = objPhase w ∧ objExp (t.ctx.objWord off) = objExp w ∧ t.pc = s.pc + 8#64) ∧
    (∀ n : BitVec 5, s.ready [a] [d] = true → objArr w + n.toNat = objExp w → ∃ t, exec (.bara d a n) s = .next t ∧
      t.x d = BitVec.ofNat 64 (objPhase w) ∧ chains t ∧ objArr (t.ctx.objWord off) = 0 ∧ objPhase (t.ctx.objWord off) = (objPhase w + 1) % 16 ∧
      objExp (t.ctx.objWord off) = objExp w ∧ t.ctx.objWord (off + 8) = 0 ∧ t.pc = s.pc + 8#64)

/-- 16 R352: an arrival beyond EXP traps BAROVER with the object as it was in TINFO, and sets OVR and nothing else of the object. -/
def Sys2Proof.Claims.ArrivalBeyondExpectedTraps : Prop :=
  ∀ (a d : Reg) (n : BitVec 5) (s : State), CanTrap s → s.drained = true → (s.x a).toNat % 16 = 0 → bits (s.x a).toNat 25 39 = 0 →
    s.peer (barCore s.ctx.core (s.x a)) = some s.ctx → s.ctx.place = .active → s.ctx.strip = none →
    s.objBad s.ctx (barOff (s.x a)) = false → s.ready [a] [d] = true →
    let off := barOff (s.x a)
    let w := s.ctx.objWord off
    objExp w < objArr w + n.toNat →
    ∃ t, exec (.bara d a n) s = .next t ∧ t.hs.t.tcause = 0x0C#64 ∧ t.hs.t.taddr = s.x a ∧
      t.hs.t.tinfo = BitVec.ofNat 64 (n.toNat * 2 ^ 32 + w % 2 ^ 29) ∧ t.hs.t.tpc = s.pc ∧ t.pc = entryOf s.ctx.sr.hwin s.hart ∧
      (t.ctx.objWord off).testBit 28 = true ∧ objArr (t.ctx.objWord off) = objArr w ∧ objExp (t.ctx.objWord off) = objExp w ∧
      objPhase (t.ctx.objWord off) = objPhase w ∧ t.ctx.objWord (off + 8) = s.ctx.objWord (off + 8)

/-- The result of a `barw` stands in its destination, and no other scalar register or predicate has changed (16 R353). -/
def Sys2Proof.Claims.BarResult (s t : State) (dst : BarDst) (passed : Bool) : Prop :=
  match dst with
  | .x d => (∀ r, t.x r = if r = d then (if passed then 1#64 else 0#64) else s.x r) ∧ t.ctx.v.preds = s.ctx.v.preds
  | .p d => (∀ r, t.x r = s.x r) ∧
    ∀ q, t.ctx.v.pred q = if q = d ∧ d ≠ 0#4 then (if passed then BitVec.allOnes 512 else 0#512) else s.ctx.v.pred q

/-- 16 R353, 02 R70: `barw` answers at once when the phase has changed or the bound is 0; else it waits, and goes on with 1 when the phase
has changed, and when the bound passes. The object lies in the context in focus, and is read with the stores that its strip holds. -/
def Sys2Proof.Claims.BarrierWaitAnswers : Prop :=
  (∀ (dst : BarDst) (a b : Reg) (ph : BitVec 4) (s : State), s.drained = true → (s.x a).toNat % 16 = 0 → bits (s.x a).toNat 25 39 = 0 →
    s.peer (barCore s.ctx.core (s.x a)) = some s.ctx → s.ctx.place = .active →
    s.objBad s.ctx (barOff (s.x a)) = false → s.ready [a, b] [] = true → s.barBusy dst = false →
    let ph' := objPhase (s.loadObj s.ctx (barOff (s.x a)))
    (ph' ≠ ph.toNat ∨ s.x b = 0#64 → ∃ t, exec (.barw dst a b ph) s = .next t ∧ t.pc = s.pc + 8#64 ∧ SameMemory s t ∧
      BarResult s t dst (decide (ph' ≠ ph.toNat))) ∧
    (ph' = ph.toNat → s.x b ≠ 0#64 → ∃ t, exec (.barw dst a b ph) s = .next t ∧ t.pc = s.pc ∧
      t.hs.wait = .barw (barCore s.ctx.core (s.x a)) (barOff (s.x a)) dst ph ∧ SameMemory s t ∧ ∀ r, t.x r = s.x r)) ∧
  ∀ (core off : Nat) (dst : BarDst) (ph : BitVec 4) (c : Context) (s : State), s.hs.wait = .barw core off dst ph → s.hs.run = .running →
    s.ctx.place = .active → s.peer core = some c → c.place = .active → s.barBusy dst = false → s.objBad c off = false →
    let passed := decide (objPhase (s.loadObj c off) ≠ ph.toNat)
    (passed = true → ∃ t, exec .barwRecheck s = .next t ∧ BarResult s t dst true ∧ t.pc = s.pc + 8#64 ∧ t.hs.wait = .none) ∧
    (passed = false → exec .barwRecheck s = .next s) ∧
    ∃ t, exec .barwExpiry s = .next t ∧ BarResult s t dst passed ∧ t.pc = s.pc + 8#64 ∧ t.hs.wait = .none

/-- 16 R350: a waiting `barw` whose object stands in a context that has left the core's banks stays; where the launch has no context there
any longer, it takes LOAD_XLATE with SPACE 1 and REASON 6. -/
def Sys2Proof.Claims.BarrierWaitOutlivesItsObject : Prop :=
  ∀ (core off : Nat) (dst : BarDst) (ph : BitVec 4) (s : State) (i : Instr), i = .barwRecheck ∨ i = .barwExpiry →
    s.hs.wait = .barw core off dst ph → s.hs.run = .running → s.ctx.place = .active → s.barBusy dst = false →
    (∀ c, s.peer core = some c → c.place ≠ .active → exec i s = .next s) ∧
    (s.peer core = none → CanTrap s → ∃ t, exec i s = .next t ∧ t.hs.t.tcause = 0x04#64 ∧
      t.hs.t.taddr = BitVec.ofNat 64 (core % 8 * 2 ^ 22 + off) ∧
      t.hs.t.tinfo = BitVec.ofNat 64 (s.ctx.asid.toNat * 4096 + 1024 + 7 * 16 + 6) ∧ t.hs.t.tpc = s.pc ∧ t.hs.wait = .none ∧
      t.pc = entryOf s.ctx.sr.hwin s.hart)

/-- 16 R349 to R353: `bari`, `bara`, `barw` and the end of its wait. -/
def Obligations.BarriersCountAndWait : Prop :=
  BarrierObjectCounts ∧ ArrivalBeyondExpectedTraps ∧ BarrierWaitAnswers ∧ BarrierWaitOutlivesItsObject

/-! ## Vector memory entries -/

namespace Sys2Proof.Claims

/-- The bytes that an element found touches: of the scratchpad (true) or of memory. -/
def placesOf : Spot → List (Bool × Nat)
  | .mem ps => (ps.flatMap fun (a, n) => (List.range n).map (a + ·)).map fun a => (false, a)
  | .spad l => l.map fun a => (true, a)

/-- A byte as the harts and the vector stream of the context in focus read it, with the stores that its strip holds (02 R70). -/
def placeByte (s : State) (p : Bool × Nat) : Byte := if p.1 then s.spadByte p.2 else s.ctxByte p.2

/-- A byte as the newest store of any party left it. -/
def newestByte (s : State) (p : Bool × Nat) : Byte := if p.1 then s.ctx.spad.byte p.2 else s.byteBy (fun _ => true) p.2

/-- The first position of an entry. -/
def fromStart : VStart := { row := 0, elem := 0, mask := none, stop := none }

/-- The state in which an entry runs: the execute hart's, under the SPZ that it captured. -/
def entryState (s : State) (e : VEntry) : State := ({ s with hart := .exe } : State).withSpz e.cap.spz

/-- How many rows below `r` a test picks: the place of row r among the rows moved. -/
def rowsBelow (p : Nat → Bool) (r : Nat) : Nat := ((List.range r).filter p).length

/-- An element of `w` bits, `n` of them at one place in registers that follow each other, or a nibble. -/
def elementOf (w : Nat) (d : Reg) (n r x k : Nat) (addr : Word) (nibble : Nat) : VEl :=
  { row := r, elem := x, num := k, addr := addr, len := if w = 4 then 1 else n * (w / 8),
    hi := if w = 4 then some (decide (nibble % 2 = 1)) else none, regs := (List.range n).map fun f => d + BitVec.ofNat 5 f }

/-- The element at row `r` and column `x` of a vector load or store, by its address shape (16 R337). -/
def shapedElement (v : Vec) (e : VEntry) (sh : VShape) (t : Ty) (d : Reg) (base : Word) (r x : Nat) : VEl :=
  let k := r * e.cap.vl + x
  let w := t.width
  match sh with
  | .unit => elementOf w d 1 r x k (base + BitVec.ofNat 64 (k * w / 8)) k
  | .stride b => elementOf w d 1 r x k (base + BitVec.ofNat 64 k * b) 0
  | .seg nf => elementOf w d nf r x k (base + BitVec.ofNat 64 (k * nf * (w / 8))) 0
  | .index b => elementOf w d 1 r x k (base + BitVec.ofNat 64 (v.elem w b r x * (w / 8))) 0

/-- Element `x` of row `r` in a frame that holds the rows of a test, at a stride of S bytes (07 R168). -/
def frameElement (w vl : Nat) (base : Word) (p : Nat → Bool) (d : Reg) (r x : Nat) : VEl :=
  let stride := ((vl * w + 7) / 8 + 7) / 8 * 8
  elementOf w d 1 r x (r * vl + x) (base + BitVec.ofNat 64 (rowsBelow p r * stride) + BitVec.ofNat 64 (x * w / 8)) x

/-- Bytes put one after the other at their places; a nibble leaves the rest of its byte. -/
def putAll (m : Bool × Nat → Byte) : List (List (Bool × Nat) × Option Bool × List Byte) → Bool × Nat → Byte
  | [] => m
  | (ps, hi, bs) :: t => putAll (fun q => match ps.idxOf? q with
      | none => m q
      | some k => match hi with
        | none => bs.getD k 0#8
        | some h => BitVec.ofNat 8 (setBits (m q).toNat (if h then 4 else 0) 4 (bs.getD 0 0#8).toNat)) t

/-- The bytes that an element stores from its registers; of a nibble its four bits. -/
def storedBytes (v : Vec) (w : Nat) (x : VEl) : List Byte :=
  match x.hi with
  | none => x.regs.flatMap fun d => toBytes (w / 8) (v.elem w d x.row x.elem)
  | some _ => toBytes 1 (v.elem 4 (x.regs.headD 0#5) x.row x.elem)

/-- What a load of an element leaves in the registers: the bytes read, or the nibble. -/
def Loaded (t u : State) (w : Nat) (x : VEl) (p : Spot) : Prop :=
  let bs := (placesOf p).map (placeByte t)
  (x.hi = none → ∀ k < x.regs.length,
    u.ctx.v.elem w (x.regs.getD k 0#5) x.row x.elem = ofBytes ((bs.drop (k * (w / 8))).take (w / 8))) ∧
  ∀ h, x.hi = some h → u.ctx.v.elem 4 (x.regs.headD 0#5) x.row x.elem = bits (ofBytes bs) (if h then 4 else 0) 4

/-- Every element has its place, which a live port leads to if it is in another package, and none of what is read there is poisoned. -/
def AllFound (t : State) (fs : List Found) (reads : Bool) : Prop :=
  ∀ f ∈ fs, ∃ p, f.x = .ok p ∧ t.foundDead f = none ∧ (reads = true → t.spotBad p = none)

/-- One update after the other of what stands at a place, with the old values. -/
def updateAll (op : Nat → Nat → Nat) (m : Bool × Nat → Byte) :
    List (List (Bool × Nat) × Nat) → (Bool × Nat → Byte) × List Nat
  | [] => (m, [])
  | (ps, y) :: t =>
    let old := ofBytes (ps.map m)
    let r := updateAll op (putAll m [(ps, none, toBytes ps.length (op old y))]) t
    (r.1, old :: r.2)

end Sys2Proof.Claims

/-- 16 R337, R340 to R343, 07 R168: the elements of a vector memory entry: each at its address, with its bytes and registers, in
row-major order. -/
def Sys2Proof.Claims.ElementsLieAtTheirAddresses : Prop :=
  ∀ (v : Vec) (e : VEntry) (d : Reg) (base : Word),
    let els (op : VOp) := v.elements op e.pg e.cap fromStart
    let are (op : VOp) (rows : Nat → Bool) (cols : Nat → Bool) (f : Nat → Nat → VEl) : Prop :=
      (els op).Pairwise (fun a b => a.before b = true) ∧
      ∀ x, x ∈ els op ↔ ∃ r c, r < 16 ∧ rows r = true ∧ c < e.cap.vl ∧ cols c = true ∧ x = f r c
    (∀ sh t sp ar ord ft, (t = .fp4 ∨ 8 ≤ t.width) → (t = .fp4 → sh = .unit) → e.cap.rc ≤ 16 →
      let rows := fun r => decide (r < e.cap.rc)
      let cols := fun c => ActiveAt v e (decide (t = .fp4)) c
      are (.load sh t d sp base ar ord ft) rows cols (shapedElement v e sh t d base) ∧
      are (.store sh t d sp base ar ord) rows cols (shapedElement v e sh t d base)) ∧
    (∀ t m sp b ar ord op, 8 ≤ t.width → e.cap.rc = 1 →
      let rows := fun r => decide (r = 0)
      are (.sca t m d sp base b ar ord) rows (ActiveAt v e false) (shapedElement v e (.index b) t d base) ∧
      are (.amo op t m d sp base b ar ord) rows (ActiveAt v e false) (shapedElement v e (.index b) t d base)) ∧
    (∀ t sp ar ord q, 8 ≤ t.width →
      let rows := fun r => ((q : Option (BitVec 5)).getD 31#5).getLsbD (gradeOfRow r)
      are (.mvLoad t d sp base ar ord q) rows (ActiveAt v e false) (frameElement t.width e.cap.vl base rows d) ∧
      are (.mvStore t d sp base ar ord q) rows (ActiveAt v e false) (frameElement t.width e.cap.vl base rows d)) ∧
    ∀ sp, let w := if vtNarrow e.cap.vtype then 4 else vtEw e.cap.vtype
      let rows := fun r => decide (r < e.cap.rc) && (v.mask d.toNat).getLsbD (gradeOfRow r)
      are (.spill d sp base) rows (fun _ => true) (frameElement w e.cap.vl (base + 8#64) rows d)

/-- 16 R337, R342: a vector load whose elements all have their places writes each of them to its registers and leaves every other element;
`mvld` also sets GM (07 R164). `t` is the state after the translations. An acquire that joins blocks of stores is stated for none of
them. -/
def Sys2Proof.Claims.VectorLoadsWriteTheirElements : Prop :=
  ∀ (s : State) (e : VEntry) (rest : List VEntry) (t : Ty) (d : Reg) (sp ord : Bool) (base : Word) (ar : AcqRel) (fs : List Found)
    (u' : State), HeadRuns s e rest → e.resume = .fresh → e.cap.rc ≤ 16 → e.cap.vl * t.width ≤ 4096 → (t = .fp4 ∨ 8 ≤ t.width) →
    (ar.acqScope = none ∨ (u'.dev.ckpt.saving = false ∧ ∀ w ∈ u'.stores, w.grp = 0)) →
    let v := s.ctx.v
    let i := entryState s e
    let found (touch : Touch) : Prop :=
      i.findAll sp (i.req .read touch) none (i.segmented sp (v.elements e.op e.pg e.cap fromStart)) = (fs, u') ∧ AllFound u' fs true
    let untouched (q : Reg) (r x : Nat) : Prop := ∀ f ∈ fs, ¬(q ∈ f.el.regs ∧ f.el.row = r ∧ f.el.elem = x)
    let ends (u : State) : Prop := exec (.vectorEntryExecute none) s = .next u ∧ u.ctx.v.vq = rest ∧ u.ctx.v.preds = v.preds ∧
      (ar.acqScope = none → SameMemory u' u) ∧ ∀ f ∈ fs, ∀ p, f.x = .ok p → Loaded u' u t.width f.el p
    (∀ sh ft, e.op = .load sh t d sp base ar ord ft → (t = .fp4 → sh = .unit) → (∀ n, sh = .seg n → n ≤ 8) →
      found (match sh with
        | .unit => .stream
        | .stride _ | .seg _ => .direct
        | .index _ => .gather) →
      ∃ u, ends u ∧ (ft = true → u.ctx.sr.ftr = if e.cap.vl = 0 then s.ctx.sr.ftr else BitVec.ofNat 64 e.cap.vl) ∧
        ∀ q r x, r < 16 → x < 4096 / t.width → untouched q r x → u.ctx.v.elem t.width q r x = v.elem t.width q r x) ∧
    ∀ q, e.op = .mvLoad t d sp base ar ord q → t ≠ .fp4 → vtEw e.cap.vtype = t.width → vtNarrow e.cap.vtype = false → e.cap.vl ≠ 0 →
      found .stream →
      let k := q.getD 31#5
      let all : Prop := ∀ x < vtMax e.cap.vtype, ActiveAt v e false x = true
      ∃ u, ends u ∧ (all → u.ctx.v.mask d.toNat = k) ∧ (¬all → u.ctx.v.mask d.toNat = v.mask d.toNat ||| k) ∧
        (all → ∀ r x, r < 16 → x < 4096 / t.width → untouched d r x → u.ctx.v.elem t.width d r x = 0) ∧
        (¬all → ∀ r x, r < 16 → x < 4096 / t.width → untouched d r x → u.ctx.v.elem t.width d r x = v.elem t.width d r x) ∧
        OthersKept s u d

/-- 16 R337, R342, R343, 02 R70: a vector store whose elements all have their places writes their bytes there in element order, and
`vspill` a header before them, as the context itself reads it back; and no register. `u'` is the state after the translations, `r` after
the release that the modifier asks. Where no strip holds them, no party outside the core sees them yet, but for `.ord`. -/
def Sys2Proof.Claims.VectorStoresPutTheirElements : Prop :=
  ∀ (s : State) (e : VEntry) (rest : List VEntry) (fs : List Found) (u' : State) (els : List VEl) (w : Nat) (sp ord : Bool) (ar : AcqRel)
    (touch : Touch) (val : VEl → List Byte), HeadRuns s e rest → e.resume = .fresh → s.entryWaits e = false →
    let v := s.ctx.v
    let i := entryState s e
    let own := v.elements e.op e.pg e.cap fromStart
    ((∃ sh t d base, e.op = .store sh t d sp base ar ord ∧ els = own ∧ w = t.width ∧ (t = .fp4 ∨ 8 ≤ w) ∧ val = storedBytes v w ∧
        touch = match sh with
          | .unit => .stream
          | .stride _ | .seg _ => .direct
          | .index _ => .gather) ∨
      (∃ t d base q, e.op = .mvStore t d sp base ar ord q ∧ els = own ∧ w = t.width ∧ 8 ≤ w ∧ touch = .stream ∧ val = storedBytes v w) ∨
      ∃ d base, e.op = .spill d sp base ∧ ar = .rlx ∧ ord = false ∧ touch = .plain ∧
        w = (if vtNarrow e.cap.vtype then 4 else vtEw e.cap.vtype) ∧
        let header : VEl := { row := 0, elem := 0, num := 0, addr := base, len := 8, hi := none, regs := [d] }
        els = header :: own ∧ val = fun x => if x = header then
            toBytes 8 (e.cap.rc * 2 ^ 32 + e.cap.vl * 2 ^ 16 + (if vtNarrow e.cap.vtype then 2 ^ 10 else 0) +
              (e.cap.vtype.toNat % 4) * 2 ^ 8 + (v.mask d.toNat).toNat)
          else storedBytes v w x) →
    let remote := match e.op with
      | .spill _ _ _ => false
      | _ => true
    i.findAll sp (i.req .write touch remote) none (i.segmented sp els) = (fs, u') → AllFound u' fs false →
    (∀ f ∈ fs, ∀ p, f.x = .ok p → ∀ a, (false, a) ∈ placesOf p → Local a) → u'.dev.ckpt.saving = false →
    let r := (u'.releaseFor ar).2
    (ord = true → ∀ x ∈ r.stores, x.grp = 0) →
    let items := fs.filterMap fun f => match f.x with
      | .ok p => some (placesOf p, f.el.hi, val f.el)
      | .fault _ _ _ | .hold | .later => none
    ∃ u, exec (.vectorEntryExecute none) s = .next u ∧ u.ctx.v = { v with vq := rest } ∧
      (∀ q : Bool × Nat, (q.1 = false → Local q.2) → placeByte u q = putAll (placeByte r) items q) ∧
      (ord = false → (∀ p, r.ctx.strip = some p → p.revocable = false) → ∀ view a, view ≠ .core s.ctx.core →
        u.byte view a = r.byte view a)

/-- 16 R340, R341, 04 R110: `vamo` updates its elements one after the other, each atomically, and writes their old values to its register;
`vsca` adds to each address the sum of its elements in element order, the addresses in the order of their first element. `place` gives
where an address lies: in the scratchpad, or in memory under translations that need no change. -/
def Sys2Proof.Claims.VectorAtomicsUpdate : Prop :=
  ∀ (s : State) (e : VEntry) (rest : List VEntry) (t : Ty) (m : Rm) (d b : Reg) (sp ord : Bool) (base : Word) (ar : AcqRel)
    (place : Word → List (Bool × Nat)), HeadRuns s e rest → e.resume = .fresh → s.entryWaits e = false → e.cap.rc = 1 → e.cap.vl * t.width ≤ 4096 →
    8 ≤ t.width → d ≠ b →
    let v := s.ctx.v
    let i := entryState s e
    let n := t.width / 8
    let els := v.elements e.op e.pg e.cap fromStart
    i.dev.ckpt.saving = false →
    (∀ x ∈ els, x.addr.toNat % n = 0 ∧
      (sp = true → x.addr.toNat + n ≤ 0x400000 ∧ place x.addr = (List.range n).map (fun k => (true, swizzle e.cap.spz (x.addr.toNat + k))) ∧
        i.badPlaces ((place x.addr).map (·.2)) = false) ∧
      (sp = false → ∃ pa, i.xlAll (i.req .rmw .gather true) x.addr n = (.ok [(pa, n)], i) ∧ Local pa ∧ i.badPiece [(pa, n)] = none ∧
        place x.addr = (List.range n).map fun k => (false, pa + k))) →
    let before := newestByte i.irrevocable
    let rm := resolveRm m e.cap.fctl
    let y (x : VEl) : Nat := v.elem t.width d 0 x.elem
    (∀ op, e.op = .amo op t m d sp base b ar ord →
      let r := updateAll (fun old z => (amoValue op t rm old z).1) before (els.map fun x => (place x.addr, y x))
      ∃ u, exec (.vectorEntryExecute none) s = .next u ∧ u.ctx.v.vq = rest ∧
        (∀ q : Bool × Nat, (q.1 = false → Local q.2) → newestByte u q = r.1 q) ∧
        (∀ k x, els[k]? = some x → u.ctx.v.elem t.width d 0 x.elem = r.2.getD k 0) ∧ OthersKept s u d ∧
        ∀ row c, row < 16 → c < 4096 / t.width → (∀ x ∈ els, ¬(row = 0 ∧ x.elem = c)) →
          u.ctx.v.elem t.width d row c = v.elem t.width d row c) ∧
    (e.op = .sca t m d sp base b ar ord →
      let firsts := els.filter fun x => !(els.any fun z => decide (z.elem < x.elem) && decide (z.addr = x.addr))
      let sum (x : VEl) : Nat := match (els.filter fun z => z.addr = x.addr).map y with
        | [] => 0
        | z :: l => l.foldl (fun p z => (amoValue .add t rm p z).1) z
      let r := updateAll (fun old z => (amoValue .add t rm old z).1) before (firsts.map fun x => (place x.addr, sum x))
      ∃ u, exec (.vectorEntryExecute none) s = .next u ∧ u.ctx.v = { v with vq := rest, lfstat := u.ctx.v.lfstat } ∧
        ∀ q : Bool × Nat, (q.1 = false → Local q.2) → newestByte u q = r.1 q)

/-- 16 R343, 07 R169: `vfill` reads its header, writes the rows that the header names and sets GM from it, whatever VL and VTYPE are; a
header that R169 rejects traps ILLEGAL with its address. -/
def Sys2Proof.Claims.VectorFillReadsItsFrame : Prop :=
  ∀ (s : State) (e : VEntry) (rest : List VEntry) (d : Reg) (m : Addr) (base : Word) (p : Spot) (a : State), HeadRuns s e rest →
    e.resume = .fresh → e.op = .fill d m base →
    let i := entryState s e
    let header : VEl := { row := 0, elem := 0, num := 0, addr := base, len := 8, hi := none, regs := [d] }
    i.findEl m.sp (i.req .read) header = (.ok p, a) → a.spotBad p = none →
    let h := ofBytes ((placesOf p).map (placeByte a))
    let gm := h % 32
    let ew := h / 2 ^ 8 % 4
    let nib := h.testBit 10
    let vl := h / 2 ^ 16 % 2 ^ 11
    let rc := h / 2 ^ 32 % 32
    let good := h = rc * 2 ^ 32 + vl * 2 ^ 16 + (if nib then 2 ^ 10 else 0) + ew * 2 ^ 8 + gm ∧ 1 ≤ rc ∧ rc ≤ 16 ∧ (nib = true → ew = 0) ∧
      vl ≤ if nib then 1024 else 512 / 2 ^ ew
    (¬good → s.ctx.xh.handler = false → s.ctx.sr.hwin.getLsbD 63 = true →
      ∃ u, exec (.vectorEntryExecute none) s = .next u ∧ u.ctx.sr.es = 0#64 ∧ u.ctx.xh.t.tcause = 0x100#64 ∧ u.ctx.xh.t.taddr = base ∧
        u.ctx.xh.t.tinfo = (Instr.vfill d m).encode ∧ u.ctx.xh.t.tpc = e.pc) ∧
    (good →
      let w := if nib then 4 else 8 * 2 ^ ew
      let rows := fun r => decide (r < rc) && (BitVec.ofNat 5 gm).getLsbD (gradeOfRow r)
      let a := a.markSpot .rlx p
      ∀ (els : List VEl) (fs : List Found) (b : State), els.Pairwise (fun x y => x.before y = true) →
        (∀ x, x ∈ els ↔ ∃ r c, r < 16 ∧ rows r = true ∧ c < vl ∧ x = frameElement w vl (base + 8#64) rows d r c) →
        a.findAll m.sp (i.req .read) none (a.segmented m.sp els) = (fs, b) → AllFound b fs true →
        ∃ u, exec (.vectorEntryExecute none) s = .next u ∧ u.ctx.v.vq = rest ∧ (∀ f ∈ fs, ∀ q, f.x = .ok q → Loaded b u w f.el q) ∧
          u.ctx.v.mask d.toNat = BitVec.ofNat 5 gm ∧ OthersKept s u d ∧ SameMemory b u)

/-- 16 R339, 01 R26, R36, R37, 11 R246, R248: an element whose translation faults: the entry traps at it with RUNAHEAD and the segment in
TINFO; an indexed access names every faulting element in FMR; a `.ft` load ends before it, with FTR and its predicate cut there, and traps
only at its first active element. -/
def Sys2Proof.Claims.VectorTranslationFaults : Prop :=
  ∀ (s : State) (e : VEntry) (rest : List VEntry) (sh : VShape) (t : Ty) (d : Reg) (sp ord ft reads : Bool) (base : Word) (ar : AcqRel)
    (fs pre post : List Found) (f : Found) (va : Word) (reason level : Nat) (u' : State), HeadRuns s e rest → e.resume = .fresh →
    s.entryWaits e = false →
    (∀ b, sh = .index b → e.cap.rc = 1 ∧ e.cap.vl ≤ 512) →
    (if reads then e.op = .load sh t d sp base ar ord ft else e.op = .store sh t d sp base ar ord ∧ ft = false) →
    let i := entryState s e
    i.findAll sp (i.req (if reads then .read else .write) (match sh with
      | .unit => .stream
      | .stride _ | .seg _ => .direct
      | .index _ => .gather) (!reads)) none (i.segmented sp (s.ctx.v.elements e.op e.pg e.cap fromStart)) = (fs, u') →
    fs = pre ++ f :: post → f.x = .fault va reason level → (∀ g ∈ pre, ∃ p, g.x = .ok p) →
    (∀ g ∈ fs, g.x ≠ .hold ∧ ∀ p, g.x = .ok p → u'.spotBad p = none ∧ u'.foundDead g = none) →
    let info := BitVec.ofNat 64 (s.ctx.asid.toNat * 4096 + (if sp then 1024 else 0) + (if sp = false ∧ 0 < f.seg then 512 else 0) + 256 +
      level * 16 + reason)
    let traps (u : State) : Prop := exec (.vectorEntryExecute none) s = .next u ∧ u.ctx.v.vq = [] ∧
      u.ctx.sr.es = BitVec.ofNat 64 (f.el.row * 2048 + f.el.elem) ∧ u.ctx.xh.t.tcause = (if reads then 0x104#64 else 0x105#64) ∧
      u.ctx.xh.t.taddr = va ∧ u.ctx.xh.t.tinfo = info ∧ u.ctx.xh.t.tpc = e.pc ∧ u.ctx.xh.pc = hwinBase s.ctx.sr.hwin
    (s.ctx.xh.handler = false → s.ctx.sr.hwin.getLsbD 63 = true → ft = false ∨ pre = [] →
      ∃ u, traps u ∧ ∀ b, ft = false → sh = .index b →
        ∀ j < 512, u.ctx.sr.fmr.getLsbD j = true ↔ ∃ g ∈ fs, g.el.elem = j ∧ ∀ p, g.x ≠ .ok p) ∧
    (ft = true → pre ≠ [] → ∃ u, exec (.vectorEntryExecute none) s = .next u ∧ u.ctx.v.vq = rest ∧
      u.ctx.sr.ftr = BitVec.ofNat 64 (2 ^ 63 + f.el.elem) ∧
      (e.pg ≠ 0#4 → ∀ j < 512, (u.ctx.v.pred e.pg).getLsbD j =
        ((s.ctx.v.pred e.pg).getLsbD j && decide (j < if t = .fp4 then f.el.elem / 2 else f.el.elem))))

/-- 16 R337 to R343, 07 R164, R168, R169, 01 R26, R36, R37, 08 R178, 11 R246, R248: the executed effect of the vector memory entries. Four
clauses are the model's choice: an entry happens whole at one step (log entry 51); stores of 4-bit elements by `vst` and `vspill` keep
the other nibble of a byte (27); equal addresses of a `vamo` without `.ord` go in ascending order, which R110 leaves open (7); what
a frame does not hold is a free value after `vfill` (10). An entry that releases at system scope is stated where nothing of its hart is
on its way to another package (04 R107, R123). -/
def Obligations.VectorMemoryEntriesCompute : Prop :=
  ElementsLieAtTheirAddresses ∧ VectorLoadsWriteTheirElements ∧ VectorStoresPutTheirElements ∧ VectorAtomicsUpdate ∧
  VectorFillReadsItsFrame ∧ VectorTranslationFaults

/-! ## Tiles, matrix and send -/

namespace Sys2Proof.Claims

/-- A matrix instruction may run: on the execute hart, and in the handler only after `tsave` (11 R245). -/
def MayMatrix (s : State) : Prop := s.hart = .exe ∧ (s.hs.handler = true → s.hs.ts = true)

/-- What a matrix instruction commits (17 R363 to R369): whether its operands are right, the scalars it reads, its operation, and the
cost of the leave it needs. -/
def matrixOf (s : State) : Instr → Option (Bool × List Reg × MOp × Option Nat)
  | .mwld b n kp => some (s.ctx.m.loadOk b (s.desc n) kp.toNat, [], .load b (s.desc n) kp.toNat, none)
  | .mswap => some (true, [], .swap, none)
  | .mmul set f t n kp =>
    let d := s.desc n
    some (s.ctx.m.streamOk f d kp.toNat, [], .mul set f t d kp.toNat (dRows d) none, burst (dRows d) (s.ctx.m.against f))
  | .mmulx set f t n b c kp =>
    let d := s.desc n
    let m := (s.x c).toNat
    let list := (s.x b).toNat
    if list + m ≤ 0x400000 then
      some (s.ctx.m.streamOk f d kp.toNat && decide (1 ≤ m) && decide (m ≤ 128), [b, c], .mul set f t d kp.toNat m (some list),
        burst m (s.ctx.m.against f))
    else none
  | .mrd d t row => some (decide (row.toNat + s.ctx.v.rc ≤ 128), [], .read d t row.toNat s.ctx.v.rc, none)
  | .mwr t v row => some (decide (row.toNat + s.ctx.v.rc ≤ 128), [], .write t v row.toNat s.ctx.v.rc, none)
  | .tld t n => some (tldOk (s.desc n), [], .tld t (s.desc n), none)
  | .tst sat n t => some (tstOk (s.desc n), [], .tst sat (s.desc n) t, none)
  | .tcvt n m => some (tcvtOk (s.desc n) (s.desc m), [], .tcvt (s.desc n) (s.desc m), none)
  | .tzero t =>
    if t.toNat < 8 then some (true, [], .zeroAcc (t.extractLsb' 0 3), none)
    else some (tzeroOk (s.desc (t.extractLsb' 0 3)), [], .zeroTile (s.desc (t.extractLsb' 0 3)), none)
  | _ => none

/-- Operations join the matrix command queue with the descriptors captured (17 R358); what the hart tracks of the banks follows them,
and nothing else changes. -/
def Commits (s t : State) (ops : List MOp) (leave : Option Nat) : Prop :=
  OnlyCtx s t ∧ t.ctx.xh = { s.ctx.xh with pc := s.pc + 8#64, wait := .none } ∧
  (∃ es : List MEntry, t.ctx.m.mq = s.ctx.m.mq ++ es ∧ es.map (·.op) = ops ∧ es.map (·.spz) = ops.map (fun _ => s.ctx.sr.spz) ∧
    es.map (·.pc) = ops.map (fun _ => s.pc) ∧ es.map (·.next) = ops.map (fun _ => 0) ∧ (es.getLast?.bind (·.leave)) = leave) ∧
  t.ctx.m = { ops.foldl Mat.track s.ctx.m with mq := t.ctx.m.mq } ∧ t.ctx = { s.ctx with xh := t.ctx.xh, m := t.ctx.m }

/-- The matrix, tile, method and `send` instructions (11 R245). -/
def isMatrix : Instr → Bool
  | .tdesc _ _ _ | .tclsSet _ _ | .tclsRd _ _ _ | .tld _ _ | .tst _ _ _ | .tzero _ | .mwld _ _ _ | .mswap | .mmul _ _ _ _ _
  | .mmulx _ _ _ _ _ _ _ | .mrd _ _ _ | .mwr _ _ _ | .tcvt _ _ | .send _ _ _ _ | .mtld _ _ | .mtq _ _ _ _ | .sdret => true
  | _ => false

/-- Bytes are written to the scratchpad at logical offsets, in order, and nothing else of it is. -/
def TileBytes (s t : State) (spz : Word) (l : List (Nat × Byte)) : Prop :=
  (∀ p, t.ctx.spad.byte p = l.foldl (fun b x => if swizzle spz x.1 = p then x.2 else b) (s.ctx.spad.byte p)) ∧
  t.ctx.spad.tags = s.ctx.spad.tags ∧ SameMemory s t

/-- A product that is not a number: of a NaN, or of an infinity and a zero (06 R150). -/
def PairNan (p : Machine.Num × Machine.Num) : Prop :=
  (∃ q, p.1 = .nan q ∨ p.2 = .nan q) ∨ ∃ n k e, (p.1 = .inf n ∧ p.2 = .fin k 0 e) ∨ (p.2 = .inf n ∧ p.1 = .fin k 0 e)

/-- A product that is an infinity of a sign. -/
def PairInf (p : Machine.Num × Machine.Num) (neg : Bool) : Prop :=
  ∃ n k, (n != k) = neg ∧ ((p.1 = .inf n ∧ p.2 = .inf k) ∨
    ∃ m e, m ≠ 0 ∧ ((p.1 = .inf n ∧ p.2 = .fin k m e) ∨ (p.2 = .inf n ∧ p.1 = .fin k m e)))

/-- S of a group of pairs (06 R150, R152): NaN, an infinity, +0, or the products truncated toward zero below 2^(emax − down), summed exactly
and rounded once to FP32. -/
def GroupSum (down : Nat) (ps : List (Machine.Num × Machine.Num)) (r : FRes) : Prop :=
  let f := ffmt .f32
  let bad := (∃ p ∈ ps, PairNan p) ∨ ((∃ p ∈ ps, PairInf p true) ∧ ∃ p ∈ ps, PairInf p false)
  let value (p : Machine.Num × Machine.Num) : ℚ := numVal p.1 * numVal p.2
  (bad → r.1 = 0x7FC00000) ∧
  (¬bad → ∀ neg, (∃ p ∈ ps, PairInf p neg) → r = (f.sign neg 0x7F800000, 0#8)) ∧
  ((∀ p ∈ ps, ¬PairNan p ∧ ∀ neg, ¬PairInf p neg) →
    ((∀ p ∈ ps, value p = 0) → r = (0, 0#8)) ∧
    ∀ emax : ℤ, (∃ p ∈ ps, (2 : ℚ) ^ emax ≤ |value p|) → (∀ p ∈ ps, |value p| < (2 : ℚ) ^ (emax + 1)) →
      let unit := (2 : ℚ) ^ (emax - down)
      let q (x : ℚ) : ℤ := if x < 0 then -⌊-x / unit⌋ else ⌊x / unit⌋
      let sum := (ps.map fun p => q (value p)).sum
      ∃ m e, numVal (.fin (decide (sum < 0)) m e) = unit * sum ∧ r = f.give .rne false (.fin (decide (sum < 0)) m e))

/-- Acc + S in FP32 under RNE, with the flags of both. -/
def plusSum (acc r : FRes) : FRes :=
  let x := (ffmt .f32).add .rne false acc.1 r.1
  (x.1, acc.2 ||| r.2 ||| x.2)

/-- The type of the weights against which an FP8 stream runs: the latched format, in any mix (06 R150, 17 R360). -/
def weightType (own : Ty) (g : Option WFmt) : Ty :=
  if g = some (.fmt .e4m3) then .e4m3 else if g = some (.fmt .e5m2) then .e5m2 else own

/-- Where element (i, j) of a tile of rows at a pitch lies: the offset of its first byte, by the width in bits. -/
def elementOffset (d : Desc) (w i j : Nat) : Nat := dBase d + i * dLdim d + (if w = 4 then j / 2 else j * (w / 8))

/-- The bit of a block of 16 rows and 16 columns in the bitmap of a BSPARSE tile (17 R356). -/
def blockBit (i j : Nat) : Nat := 8 * (i / 16) + j / 16

/-- The head of the matrix command queue is `e`. -/
def MatrixHead (s : State) (e : MEntry) (rest : List MEntry) : Prop := s.ctx.place = .active ∧ s.ctx.m.mq = e :: rest

end Sys2Proof.Claims

/-- 17 R358 to R369, 08 R190, 10 R221, R222: a matrix instruction with right operands commits once no vector entry can trap before it;
a stream of 32 or more rows carries the leave granted to it. -/
def Sys2Proof.Claims.MatrixInstructionsCommit : Prop :=
  ∀ (i : Instr) (s : State) (rs : List Reg) (op : MOp) (cost : Option Nat), matrixOf s i = some (true, rs, op, cost) →
    MayMatrix s → s.ready rs [] = true → s.ctx.v.vq = [] → s.ctx.m.mq.length < 32 →
    (cost = none → ∃ t, exec i s = .next t ∧ Commits s t [op] none) ∧
    (∀ c l, cost = some c → s.heavy.find? (fun l => s.ownLeave .exe l && !l.claimed && decide (l.cost = c)) = some l →
      ∃ t, exec i s = .next t ∧
        Commits { s with heavy := s.heavy.map fun x => if x.id = l.id then { x with claimed := true } else x } t [op] (some l.id))

/-- 17 R357, R359, R363, R367 to R369: a matrix instruction whose operands are not right is ILLEGAL; in the handler before `tsave` any
is a double trap, which halts the item (11 R244, R245). -/
def Sys2Proof.Claims.MatrixInstructionsRefused : Prop :=
  (∀ (i : Instr) (s : State) (rs : List Reg) (op : MOp) (cost : Option Nat), matrixOf s i = some (false, rs, op, cost) →
    s.hart = .exe → s.ready rs [] = true → Traps i s 0x00 0#64 i.encode) ∧
  ∀ (i : Instr) (s : State), isMatrix i = true → s.hart = .exe → s.ctx.v.vq = [] → s.hs.handler = true → s.hs.ts = false →
    ∃ t, exec i s = .next t ∧ t.ctx.xh.run = .halted ∧ t.ctx.ah.run = .halted ∧ t.ctx.xh.t.tcause2 = 0x0D#64 ∧
      t.ctx.xh.t.taddr2 = 0#64 ∧ t.ctx.xh.t.tpc2 = s.pc ∧ t.ctx.xh.t.tcause = s.ctx.xh.t.tcause ∧ SameMemory s t

/-- 17 R357, R358, R361, R362: `tdesc` and `tcls` set a valid descriptor once no vector entry can trap before them, `tcls.rd` reads a
valid one or one of no rows (R354); an invalid one is ILLEGAL. -/
def Sys2Proof.Claims.DescriptorsAreSetAndRead : Prop :=
  (∀ (n : Idx3) (a b : Reg) (s : State), MayMatrix s → s.ready [a, b] [] = true →
    (descOk (s.x b ++ s.x a) = true → s.ctx.v.vq = [] → ∃ t, exec (.tdesc n a b) s = .next t ∧ t.desc n = s.x b ++ s.x a ∧
      (∀ k, k ≠ n → t.desc k = s.desc k) ∧ Kept { s with ctx := { s.ctx with m := { s.ctx.m with desc := t.ctx.m.desc } } } t ∧ GoesOn s t) ∧
    (descOk (s.x b ++ s.x a) = false → Traps (.tdesc n a b) s 0x00 0#64 (Instr.tdesc n a b).encode)) ∧
  (∀ (n : Idx3) (c : BitVec 3) (s : State), MayMatrix s →
    let d := (s.desc n).extractLsb' 0 61
    let new : Desc := ((s.desc n).extractLsb' 64 64 ++ c ++ d)
    (descOk new = true → s.ctx.v.vq = [] → ∃ t, exec (.tclsSet n c) s = .next t ∧ t.desc n = new ∧ (∀ k, k ≠ n → t.desc k = s.desc k) ∧
      Kept { s with ctx := { s.ctx with m := { s.ctx.m with desc := t.ctx.m.desc } } } t ∧ GoesOn s t) ∧
    (descOk new = false → Traps (.tclsSet n c) s 0x00 0#64 (Instr.tclsSet n c).encode)) ∧
  ∀ (d : Reg) (n : Idx3) (s : State), MayMatrix s →
    (dRows (s.desc n) = 0 ∨ descOk (s.desc n) = true → s.ready [] [d] = true → s.ctx.v.vq = [] →
      Writes (.tclsRd d n false) s d ((s.desc n).extractLsb' 0 64) ∧ Writes (.tclsRd d n true) s d ((s.desc n).extractLsb' 64 64)) ∧
    (dRows (s.desc n) ≠ 0 → descOk (s.desc n) = false → ∀ h, Traps (.tclsRd d n h) s 0x00 0#64 (Instr.tclsRd d n h).encode)

/-- 17 R357 to R369, 08 R190, 10 R221, R222, 11 R244, R245: a matrix instruction commits with its descriptors captured, sets or reads a
descriptor, or traps. What pairs with a bank that has no latched format is the reading of log entry 31. -/
def Obligations.MatrixInstructionsCommitOrTrap : Prop :=
  MatrixInstructionsCommit ∧ MatrixInstructionsRefused ∧ DescriptorsAreSetAndRead

/-- 17 R371 to R377: `send` to a routine links through x31, saves SENDARG and jumps; `sdret` undoes it. A method that binds a built-in
operation commits its steps. -/
def Sys2Proof.Claims.SendEntersItsMethod : Prop :=
  (∀ (sel : BitVec 8) (td ta tb : TReg) (s : State) (e : Found'), MayMatrix s →
    lookup s.ctx.m.methods sel.toNat (s.classOf ta) (s.classOf tb) = some e →
    let cls := ruleClass e.m (s.classOf td) (s.classOf ta) (s.classOf tb)
    (td.toNat < 8 → cls = 0) →
    let t := if td.toNat < 8 then s else s.setDesc (td.extractLsb' 0 3) (dSetClass (s.desc (td.extractLsb' 0 3)) cls)
    (mRoutine e.m = true → operandOk (s.operand ta) = true → operandOk (s.operand tb) = true → s.depth ≠ 8 → s.ready [] [31#5] = true → s.ctx.v.vq = [] →
      ∃ u, exec (.send sel td ta tb) s = .next u ∧ u.x 31#5 = s.pc + 8#64 ∧ u.pc = mAddr e.m ∧
        u.ctx.m.sendstk = s.ctx.sr.sendarg :: s.ctx.m.sendstk ∧
        u.ctx.sr.sendarg = BitVec.ofNat 64 ((s.depth + 1) * 2 ^ 20 + sel.toNat * 2 ^ 12 + td.toNat * 2 ^ 8 + ta.toNat * 2 ^ 4 + tb.toNat) ∧
        u.ctx.m.desc = t.ctx.m.desc ∧ (∀ r, r ≠ 31#5 → u.x r = s.x r) ∧ OnlyCtx s u) ∧
    (mRoutine e.m = false → s.ctx.v.vq = [] → ∀ ops, t.builtinSteps (mBop e.m) td (t.operand td) (t.operand ta) (t.operand tb) =
      some (ops, none) → s.ctx.m.mq.length + ops.length ≤ 32 → ∃ u, exec (.send sel td ta tb) s = .next u ∧ Commits t u ops none)) ∧
  ∀ (s : State), MayMatrix s → s.ready [31#5] [] = true →
    (∀ arg rest, s.ctx.m.sendstk = arg :: rest →
      ((s.x 31#5).toNat % 8 = 0 → s.ctx.v.vq = [] →
        ∃ u, exec .sdret s = .next u ∧ u.pc = s.x 31#5 ∧ u.ctx.m.sendstk = rest ∧ u.ctx.sr.sendarg = arg ∧ (∀ r, u.x r = s.x r) ∧
          OnlyCtx s u) ∧
      ((s.x 31#5).toNat % 8 ≠ 0 → Traps .sdret s 0x06 (s.x 31#5) 8#64)) ∧
    (s.ctx.m.sendstk = [] → Traps .sdret s 0x00 0#64 Instr.sdret.encode)

/-- 17 R374 to R376, R379: a `send` that finds no method traps MISSING_METHOD with the selector, the classes and the depth; so does, with
its KIND, one whose class rule gives an accumulator a class, and a routine at depth 8. -/
def Sys2Proof.Claims.MissingMethodTraps : Prop :=
  ∀ (sel : BitVec 8) (td ta tb : TReg) (s : State), MayMatrix s →
    let missing (kind index : Nat) : Prop := Traps (.send sel td ta tb) s 0x08 0#64 (BitVec.ofNat 64
      (kind * 2 ^ 32 + index * 2 ^ 24 + sel.toNat * 2 ^ 16 + s.depth * 2 ^ 12 + s.classOf tb * 2 ^ 8 + s.classOf ta * 2 ^ 4))
    (lookup s.ctx.m.methods sel.toNat (s.classOf ta) (s.classOf tb) = none → missing 0 0) ∧
    ∀ e, lookup s.ctx.m.methods sel.toNat (s.classOf ta) (s.classOf tb) = some e →
      let cls := ruleClass e.m (s.classOf td) (s.classOf ta) (s.classOf tb)
      (td.toNat < 8 → cls ≠ 0 → missing 2 e.index) ∧
      ((td.toNat < 8 → cls = 0) → mRoutine e.m = true → operandOk (s.operand ta) = true → operandOk (s.operand tb) = true →
        s.depth = 8 → missing 1 e.index)

/-- 17 R371 to R377, R379: `send` to a routine or a built-in operation, `sdret`, and MISSING_METHOD. The order of the checks is the
reading of log entry 32. -/
def Obligations.SendEntersItsMethodOrTraps : Prop :=
  SendEntersItsMethod ∧ MissingMethodTraps

/-- 17 R374: an exact entry of the method store is taken, at level 0. With none, the first wildcard entry that stands in the order (CA, ANY),
(ANY, CB), (ANY, ANY) is taken, at levels 1, 2 and 3, where there is no built-in binding or the entry has OVR; else the binding, or
nothing. -/
def Sys2Proof.Claims.LookupTakesTheNearestMethod : Prop :=
  ∀ (l : List Method) (sel ca cb : Nat),
    let layer := (binding sel ca cb).map fun m => ({ layer := true, level := 0, index := 0, m := m } : Found')
    let found (i : Nat) (m : Method) (level : Nat) : Prop :=
      lookup l sel ca cb = some { layer := false, level := level, index := i, m := m }
    let wild (i : Nat) (m : Method) (level : Nat) : Prop :=
      (binding sel ca cb = none ∨ mOvr m = true → found i m level) ∧
      (binding sel ca cb ≠ none → mOvr m = false → lookup l sel ca cb = layer)
    (∀ x y, storeHas l sel x y = none → ∀ m ∈ l, ¬(mSel m = sel ∧ mCa m = x ∧ mCb m = y)) ∧
    (∀ x y i m, storeHas l sel x y = some (i, m) → l[i]? = some m ∧ mSel m = sel ∧ mCa m = x ∧ mCb m = y) ∧
    (∀ i m, storeHas l sel ca cb = some (i, m) → found i m 0) ∧
    (storeHas l sel ca cb = none →
      (∀ i m, storeHas l sel ca 8 = some (i, m) → wild i m 1) ∧
      (storeHas l sel ca 8 = none →
        (∀ i m, storeHas l sel 8 cb = some (i, m) → wild i m 2) ∧
        (storeHas l sel 8 cb = none →
          (∀ i m, storeHas l sel 8 8 = some (i, m) → wild i m 3) ∧
          (storeHas l sel 8 8 = none → lookup l sel ca cb = layer))))

/-- 17 R372, R378: `mtld` replaces the method store by the entries it reads, if none is malformed; `mtq` answers what a lookup finds. -/
def Sys2Proof.Claims.MethodTableLoadsAndQueries : Prop :=
  (∀ (a b : Reg) (s : State), MayMatrix s → s.ready [a, b] [] = true → Ordered s false .rlx → s.ctx.v.vq = [] →
    let n := (s.x b).toNat
    n ≤ 256 → (s.x a).toNat % 16 = 0 →
    (n = 0 → ∃ t, exec (.mtld a b) s = .next t ∧ t.ctx.m.methods = [] ∧
      Kept { s with ctx := { s.ctx with m := { s.ctx.m with methods := [] } } } t ∧ GoesOn s t) ∧
    (0 < n → ∀ ps t, s.xlAll (s.req .read) (s.x a) (16 * n) = (.ok ps, t) → t.badPiece ps = none →
      let l := methodsOf n (t.ctxBytes ps)
      let r := t.readPieces .rlx ps
      Learns t r ∧
      (tableReason 0 [] l = none → ∃ u, exec (.mtld a b) s = .next u ∧ u.ctx.m.methods = l ∧
        Kept { r with ctx := { r.ctx with m := { r.ctx.m with methods := l } } } u ∧ GoesOn s u) ∧
      (∀ i r, tableReason 0 [] l = some (i, r) → CanTrap s → ∃ u, exec (.mtld a b) s = .next u ∧ u.ctx.m.methods = s.ctx.m.methods ∧
        u.hs.t.tcause = 0x08#64 ∧ u.hs.t.tinfo = BitVec.ofNat 64 (3 * 2 ^ 32 + i * 2 ^ 24 + s.depth * 2 ^ 12 + r)))) ∧
  ∀ (d : Reg) (sel : BitVec 8) (ta tb : TReg) (s : State), MayMatrix s → s.ready [] [d] = true → s.ctx.v.vq = [] →
    let r := lookup s.ctx.m.methods sel.toNat (s.classOf ta) (s.classOf tb)
    (r = none → Writes (.mtq d sel ta tb) s d 0#64) ∧
    (∀ e, r = some e → e.index < 256 → ∃ w, Writes (.mtq d sel ta tb) s d w ∧ w.getLsbD 63 = true ∧ w.getLsbD 62 = e.layer ∧
      bits w.toNat 60 2 = e.level ∧ w.getLsbD 59 = mRoutine e.m ∧ bits w.toNat 56 3 = mRule e.m ∧ bits w.toNat 53 3 = mFcls e.m ∧
      bits w.toNat 48 5 = 0 ∧ bits w.toNat 40 8 = (if mRoutine e.m then 0 else mBop e.m) ∧ bits w.toNat 32 8 = e.index ∧
      bits w.toNat 0 32 = 0)

/-- 17 R372, R374, R378: the lookup of a method, and `mtld` and `mtq`. The order of the table's faults is the reading of log entry 32, the
order against vector entries the choice of log entry 7. -/
def Obligations.MethodLookupAndTables : Prop :=
  LookupTakesTheNearestMethod ∧ MethodTableLoadsAndQueries

/-- 11 R245, R255: in the handler `tsave` writes the matrix state to its frame, a poisoned row as poisoned, and leaves the array as at
launch start; `tload` brings back what was saved with the accumulator rows of the frame. `t` is the state after the translation of the
frame. The device-private words of the frame are free values (log entry 15); what becomes of poison is log entry 67. -/
def Obligations.MatrixStateIsSavedAndLoaded : Prop :=
  ∀ (a : Reg) (s : State), s.hart = .exe → s.ready [a] [] = true → s.hs.handler = true → s.frameOk (s.x a) = true → s.ctx.v.vq = [] →
    (s.hs.ts = false → s.ctx.m.pend = [] → (∀ p, s.ctx.strip = some p → p.revocable = false) → ∀ ps t,
      ({ s with free := s.free + 1 } : State).xlAll (s.req .write) (s.x a) 0xA4000 = (.ok ps, t) →
      let bytes := ((List.range 1024).flatMap fun k => toBytes 512 (s.ctx.m.row k).toNat) ++ frameRest s.free
      ∃ u f, exec (.tsave a) s = .next u ∧ SameMemory (t.emitAll true [] (pieceStores ps bytes)) u ∧ u.hs.ts = true ∧ u.pc = s.pc + 8#64 ∧
        u.ctx.m = { Mat.start with frame := some f, methods := s.ctx.m.methods, sendstk := s.ctx.m.sendstk } ∧
        f.mq = s.ctx.m.mq ∧ f.desc = s.ctx.m.desc ∧ f.wts = s.ctx.m.wts ∧ f.act = s.ctx.m.act ∧ f.mark = s.free ∧
        f.poisoned = s.ctx.m.accPoison ∧
        (s.dev.ckpt.saving = false → ∀ k ∈ s.ctx.m.accPoison, ∀ p, frameRow ps k = some p → Local p.1 →
          ∀ i < 512, u.poison.contains ((p.1 + i) / 64) = true) ∧
        ∀ r, u.x r = s.x r) ∧
    (s.hs.ts = true → s.ctx.m.mq = [] → s.ctx.m.pend = [] → ∀ ps t f, s.xlAll (s.req .read) (s.x a) 0xA4000 = (.ok ps, t) →
      let poisoned (k : Nat) : Bool := ((frameRow ps k).bind fun p => t.badPiece [p]).isSome
      (∀ k < 1024, poisoned k = true → f.poisoned.contains k = true) → t.badPiece (ps.drop 128) = none → s.ctx.m.frame = some f → (t.ctxBytes ps).drop 0x80000 = frameRest f.mark →
      ∃ u, exec (.tload a) s = .next u ∧ SameMemory t u ∧ u.hs.ts = false ∧ u.pc = s.pc + 8#64 ∧ u.ctx.m.frame = none ∧
        u.ctx.m.mq = f.mq ∧ u.ctx.m.desc = f.desc ∧ u.ctx.m.wts = f.wts ∧ u.ctx.m.act = f.act ∧
        u.ctx.m.accPoison = f.poisoned.filter poisoned ∧
        (∀ k < 1024, u.ctx.m.row k = BitVec.ofNat 4096 (ofBytes (((t.ctxBytes ps).drop (512 * k)).take 512))) ∧ ∀ r, u.x r = s.x r)

/-- 08 R191 to R193, 17 R361 to R370: the oldest matrix entry: the bank selection toggles; an accumulator is zeroed; rows move between
an accumulator and a vector register; a stream injects one row of results, which is held until its check; a tile is loaded, stored,
converted or zeroed. Where the entry meets a byte that the strip still holds, the strip is irrevocable first (log entry 57);
the execute hart has acquired every store that the entry reads (04 R107). -/
def Sys2Proof.Claims.MatrixEntriesExecute : Prop :=
  ∀ (s : State) (e : MEntry) (rest : List MEntry), MatrixHead s e rest →
    (e.op = .swap → ∃ t, exec .matrixEntryExecute s = .next t ∧ t.ctx.m = { s.ctx.m with mq := rest, act := !s.ctx.m.act } ∧
      t = { s with ctx := { s.ctx with m := t.ctx.m } }) ∧
    (∀ a, e.op = .zeroAcc a → s.ctx.m.busyAcc a = false → ∃ t, exec .matrixEntryExecute s = .next t ∧ t.ctx.m.mq = rest ∧
      (∀ k, t.ctx.m.row k = if k / 128 = a.toNat then 0#4096 else s.ctx.m.row k) ∧ t = { s with ctx := { s.ctx with m := t.ctx.m } }) ∧
    (∀ a v row n, e.op = .write a v row n → row + n ≤ 128 → (∀ r < n, s.ctx.m.busy (accKey a (row + r)) = false) →
      s.ctx.vregFree v = true → ∃ t, exec .matrixEntryExecute s = .next t ∧ t.ctx.m.mq = rest ∧
      (∀ r < n, t.ctx.m.row (accKey a (row + r)) = s.ctx.v.row v.toNat r) ∧
      (∀ k, (∀ r < n, k ≠ accKey a (row + r)) → t.ctx.m.row k = s.ctx.m.row k) ∧ t = { s with ctx := { s.ctx with m := t.ctx.m } }) ∧
    (∀ d a row n, e.op = .read d a row n → n ≤ 16 → (∀ r < n, s.ctx.m.busy (accKey a (row + r)) = false) →
      (∀ r < n, s.ctx.m.accPoison.contains (accKey a (row + r)) = false) → s.ctx.vregFree d = true → s.ctx.lanesIdle = true →
      ∃ t, exec .matrixEntryExecute s = .next t ∧ t.ctx.m.mq = rest ∧
        (∀ r < n, t.ctx.v.row d.toNat r = s.ctx.m.row (accKey a (row + r))) ∧
        (∀ q r, q < 32 → q ≠ d.toNat → r < 16 → t.ctx.v.row q r = s.ctx.v.row q r) ∧ SameMemory s t) ∧
    let b := s.beforeMat e
    let q := b.matSeen e
    let rd := b.tileByte e.spz
    (SameMemory b q ∧ ∀ a ∈ b.matReads e, ∀ x ∈ q.ctx.slog, x.off = swizzle e.spz a → x.who.contains (s.ctx.hartKey .exe) = true) ∧
    (b = s ∨ b = s.irrevocable) ∧ ((∀ p, s.ctx.strip = some p → p.held.any (·.spad) = false) → b = s) ∧
    (∀ set f a d kp n, e.op = .mul set f a d kp n none → e.next < dRows d → e.next + 1 < n → b.ctx.m.busy (accKey a e.next) = false →
      b.tileBad e.spz (tileBytes rd d [e.next]) = none → b.ctx.m.accPoison = [] →
      ∃ t, exec .matrixEntryExecute s = .next t ∧ t.ctx.m.mq = { e with next := e.next + 1 } :: rest ∧
        (let r := b.ctx.m.streamRow rd set f d kp e.next (accKey a e.next)
         t.ctx.m.pend = b.ctx.m.pend ++
           [{ row := accKey a e.next, val := r.1, flags := r.2, bank := b.ctx.m.act, failed := false, leave := e.leave }]) ∧
        (∀ k, t.ctx.m.row k = b.ctx.m.row k) ∧ t = { q with ctx := { q.ctx with m := t.ctx.m } }) ∧
    (∀ bank d kp, e.op = .load bank d kp → (∀ p ∈ b.ctx.m.pend, p.bank ≠ bank) →
      b.tileBad e.spz (tileBytes rd d (List.range (dRows d))) = none → kp < 8 → dRows d ≤ 128 → dCols d ≤ 128 →
      ∃ t, exec .matrixEntryExecute s = .next t ∧ t.ctx.m.mq = rest ∧
        (∀ j k, j < dRows d → k < dCols d → Sparse.get 0 t.ctx.m.wts (131072 * (if bank then 1 else 0) + 1024 * j + 128 * kp + k) =
          tileCode rd d j k) ∧
        t = { q with ctx := { q.ctx with m := t.ctx.m } }) ∧
    (∀ a d, e.op = .tld a d → b.ctx.m.busyAcc a = false → b.tileBad e.spz (tileBytes rd d (List.range (dRows d))) = none →
      dRows d ≤ 128 → dCols d ≤ 128 →
      ∃ t, exec .matrixEntryExecute s = .next t ∧ t.ctx.m.mq = rest ∧
        (∀ i j, i < 128 → j < 128 → rowElem 32 (t.ctx.m.row (accKey a i)) j =
          if i < dRows d ∧ j < dCols d then (tldElem rd d i j).1 % 2 ^ 32 else 0) ∧
        (∀ k, k / 128 ≠ a.toNat → t.ctx.m.row k = b.ctx.m.row k) ∧
        t = { q with ctx := { q.ctx with m := t.ctx.m, v := { q.ctx.v with lfstat := t.ctx.v.lfstat } } }) ∧
    (let stores (l : List (Nat × Byte)) : Prop := ∃ t, exec .matrixEntryExecute s = .next t ∧ t.ctx.m = { b.ctx.m with mq := rest } ∧
        TileBytes b t e.spz l
     (∀ sat d a, e.op = .tst sat d a → b.ctx.m.busyAcc a = false → (∀ i < dRows d, b.ctx.m.accPoison.contains (accKey a i) = false) →
       stores ((List.range (dRows d)).flatMap fun i => (tstRow rd sat d (b.ctx.m.row (accKey a i)) i).1)) ∧
     (∀ n d, e.op = .tcvt n d → b.tileBad e.spz (tileBytes rd d (List.range (dRows d))) = none → stores (tcvtBytes rd n d)) ∧
     ∀ d, e.op = .zeroTile d → (dClass d = 1 → b.tileBad e.spz ((List.range 8).map (dAux d + ·)) = none) →
       stores (tzeroBytes rd d)) ∧
    ∀ d a row n, e.op = .read d a row n → (∃ r < n, s.ctx.m.accPoison.contains (accKey a (row + r)) = true) →
      (∀ r < n, s.ctx.m.busy (accKey a (row + r)) = false) → s.ctx.vregFree d = true → s.ctx.lanesIdle = true →
      (∀ p, s.ctx.strip = some p → p.revocable = false) →
      let traps (cause : Word) (t : State) : Prop := exec .matrixEntryExecute s = .next t ∧
        t.ctx.m = { s.ctx.m with mq := { e with told := true } :: rest } ∧
        t.ctx.xh.t.tcause = cause ∧ t.ctx.xh.t.taddr = 0#64 ∧ t.ctx.xh.t.tinfo = 4#64 ∧ t.ctx.xh.t.tpc = e.pc ∧
        t.ctx.xh.t.tnpc = s.ctx.xh.pc ∧ t.ctx.xh.pc = entryOf s.ctx.sr.hwin .exe ∧ t.ctx.xh.handler = true
      (s.ctx.xh.handler = false → s.ctx.sr.hwin.getLsbD 63 = true →
        (s.ctx.v.vq = [] → ∃ t, traps 0x10#64 t) ∧
        ∀ h l, s.ctx.v.vq = h :: l → s.ctx.matHolds h = true → ∃ t, traps 0x110#64 t ∧ t.ctx.v.vq = [] ∧ t.ctx.v.saved = h :: l ∧
          t.ctx.sr.tqp = BitVec.ofNat 64 (2 ^ 63 + (h :: l).length % 64 * 256 + h.pos)) ∧
      (s.ctx.xh.handler = true → e.told = false → ∃ t, exec .matrixEntryExecute s = .next t ∧ t.ctx.xh.run = .halted ∧
        t.ctx.xh.t.tcause2 = 0x10#64 ∧ t.ctx.xh.t.tpc2 = e.pc) ∧
      (s.ctx.xh.handler = true → e.told = true → exec .matrixEntryExecute s = .next s)

/-- 06 R145, R154 to R156, 17 R356: element (i, j) of a tile: its stored bits, little-endian, the low nibble first; zero in a block that the
bitmap leaves out; of BPLANE the planes read, x >> (8 − PLANES) of the integer stored. -/
def Sys2Proof.Claims.TileElementsLieInTheirPlaces : Prop :=
  ∀ (rd : Nat → Byte) (d : Desc) (i j : Nat),
    let w := dW d
    let byte (k : Nat) : Byte := rd (elementOffset d w i j + k)
    let stored : Prop := tileCode rd d i j =
      if w = 4 then (byte 0).toNat / 16 ^ (j % 2) % 16 else ofBytes ((List.range (w / 8)).map byte)
    w = (if dFmt d = 7 ∧ dX64 d = true then 64 else [8, 8, 8, 4, 1, 16, 16, 32].getD (dFmt d) 0) ∧
    (dClass d = 0 ∨ dClass d = 3 → stored) ∧
    (dClass d = 1 → let map := ofBytes ((List.range 8).map fun k => rd (dAux d + k))
      (map.testBit (blockBit i j) = true → stored) ∧ (map.testBit (blockBit i j) = false → tileCode rd d i j = 0)) ∧
    (dClass d = 3 → tileScale rd d i j = (rd (dAux d + 4 * i + j / 32)).toNat) ∧
    (dClass d = 4 → 2 ≤ dPlanes d → dPlanes d ≤ 8 → ∀ x : BitVec 8,
      let f := i * dCols d + j
      (∀ p < dPlanes d, (rd (dBase d + f / 256 * 256 + 32 * p + f % 256 / 8)).getLsbD (f % 8) = x.getLsbD (7 - p)) →
      tileCode rd d i j = (x.sshiftRight (8 - dPlanes d)).toNat)

/-- 06 R150 to R153: the dot product of an activation row of K = `cols` elements and a weight column: FP8 in groups of 32 and BF16 and FP16 in
groups of 16, with exact zero products beyond K, MXFP4 by scale blocks, INT8 modulo 2^32, FP32 and FP64 fused, all in ascending K. That the
last two go on beyond K is log entry 60. -/
def Sys2Proof.Claims.DotProductsAccumulate : Prop :=
  ∀ (f : MmTy) (g : Option WFmt) (z cols : Nat) (a b xa xb : List Nat), a.length = 128 → b.length = 128 →
    let r := dotAccumulate f g z cols a b xa xb
    let zero : Machine.Num := .fin false 0 0
    let float (n down : Nat) (ta tb : Ty) : Prop := ∃ sums : List FRes, sums.length = 128 / n ∧
      r = sums.foldl plusSum ((z, 0#8) : FRes) ∧ ∀ k < 128 / n, GroupSum down ((List.range n).map fun i =>
        if n * k + i < cols then ((ffmt ta).decode (a.getD (n * k + i) 0), (ffmt tb).decode (b.getD (n * k + i) 0)) else (zero, zero))
        (sums.getD k (0, 0#8))
    let fused (t : Ty) : Prop := r = (List.range 128).foldl (fun (acc : FRes) k =>
      let x := (ffmt t).fma .rne false (a.getD k 0) (b.getD k 0) acc.1
      (x.1, acc.2 ||| x.2)) ((z, 0#8) : FRes)
    match f with
    | .e4m3 => float 32 30 .e4m3 (weightType .e4m3 g)
    | .e5m2 => float 32 30 .e5m2 (weightType .e5m2 g)
    | .bf16 => float 16 46 .bf16 .bf16
    | .f16 => float 16 46 .f16 .f16
    | .f32 => fused .f32
    | .f64 => fused .f64
    | .i8 => r = ((BitVec.ofNat 32 z + ((List.range 128).map fun k =>
        (BitVec.ofNat 8 (a.getD k 0)).signExtend 32 * (BitVec.ofNat 8 (b.getD k 0)).signExtend 32).sum).toNat, 0#8)
    | .fp4 => ∃ sums : List FRes, sums.length = 4 ∧ r = sums.foldl plusSum ((z, 0#8) : FRes) ∧ ∀ k < 4,
        let x := sums.getD k (0, 0#8)
        let ea := xa.getD k 0
        let eb := xb.getD k 0
        let v := ((List.range 32).map fun i => numVal ((ffmt .fp4).decode (a.getD (32 * k + i) 0)) *
          numVal ((ffmt .fp4).decode (b.getD (32 * k + i) 0))).sum * (2 : ℚ) ^ ((ea : ℤ) + eb - 254)
        (ea = 255 ∨ eb = 255 → x = (0x7FC00000, 0#8)) ∧
        (ea ≠ 255 → eb ≠ 255 → ∃ m e, numVal (.fin (decide (v < 0)) m e) = v ∧
          x = (ffmt .f32).give .rne false (.fin (decide (v < 0)) m e))

/-- 17 R365: the row that a stream computes: in each result column the dot product of the tile's row with the column's weights in the
active bank, on the accumulator or on +0, with the flags of all. -/
def Sys2Proof.Claims.StreamRowsAreDotProducts : Prop :=
  ∀ (m : Mat) (rd : Nat → Byte) (set : Bool) (f : MmTy) (d : Desc) (kp i key : Nat),
    let bank := if m.act then 1 else 0
    let w := if f = .f64 then 64 else 32
    let n := if f = .f64 then 64 else 128
    let a := (List.range 128).map fun k => if k < dCols d then tileCode rd d i k else 0
    let xa := (List.range 4).map fun k => if f = .fp4 ∧ 32 * k < dCols d then tileScale rd d i (32 * k) else 127
    let dot (j : Nat) : FRes := dotAccumulate f (if m.act then m.wfmt1 else m.wfmt0)
      (if set then 0 else rowElem w (Sparse.get 0#4096 m.acc key) j) (dCols d) a
      ((List.range 128).map fun k => Sparse.get 0 m.wts (131072 * bank + 1024 * j + 128 * kp + k)) xa
      ((List.range 4).map fun k => (Sparse.get 127#8 m.wscale (4096 * bank + 32 * j + 4 * kp + k)).toNat)
    let r := m.streamRow rd set f d kp i key
    (∀ j < n, rowElem w r.1 j = (dot j).1 % 2 ^ w) ∧ ∀ k < 8, r.2.getLsbD k = true ↔ ∃ j < n, (dot j).2.getLsbD k = true

/-- 17 R367: what `tld` puts into an accumulator for an element, and the bytes that `tst` writes for a row. -/
def Sys2Proof.Claims.TilesMoveTheirValues : Prop :=
  (∀ (rd : Nat → Byte) (d : Desc) (i j : Nat),
    let c := tileCode rd d i j
    let r := tldElem rd d i j
    let f := ffmt (dTy d)
    (dClass d = 4 ∨ dFmt d = 2 → r = (((BitVec.ofNat 8 c).signExtend 32).toNat, 0#8)) ∧
    (dClass d = 0 ∨ dClass d = 1 → dFmt d ≠ 2 → dFmt d ≠ 4 → dX64 d = false → (∀ v, codeVal f c = some v → codeVal (ffmt .f32) r.1 = some v ∧ r.2 = 0#8) ∧
      ∀ neg, f.decode c = .inf neg → (ffmt .f32).decode r.1 = .inf neg ∧ r.2 = 0#8) ∧
    (dClass d = 3 → dFmt d = 3 → let x := tileScale rd d i j
      (x = 255 → r = (0x7FC00000, Flag.nv)) ∧
      (x ≠ 255 → ∀ neg m e, (ffmt .fp4).decode c = .fin neg m e →
        r = (ffmt .f32).give .rne false (.fin neg m (e + x - 127))))) ∧
  ∀ (rd : Nat → Byte) (sat : Bool) (d : Desc) (x : Row) (i : Nat),
    let e (j : Nat) : Nat := rowElem 32 x j
    let r := tstRow rd sat d x i
    let flags (f : Nat → FRes) : Prop := ∀ k < 8, r.2.getLsbD k = true ↔ ∃ j < dCols d, (f j).2.getLsbD k = true
    (dClass d = 0 → 8 ≤ dW d →
      let code (j : Nat) : FRes :=
        if dFmt d = 2 then
          let v := (BitVec.ofNat 32 (e j)).toInt
          (ofSigned 8 (max (-128) (min 127 v)), if -128 ≤ v ∧ v ≤ 127 then 0#8 else Flag.sat)
        else (ffmt (dTy d)).give .rne (sat && decide (dFmt d ≤ 1)) ((ffmt .f32).decode (e j))
      r.1 = ((List.range (dCols d)).flatMap fun j => (List.range (dW d / 8)).map fun k =>
        (elementOffset d (dW d) i j + k, BitVec.ofNat 8 ((code j).1 / 256 ^ k))) ∧ flags code) ∧
    (dClass d = 3 →
      let scale (g : Nat) : Nat :=
        sclOf 3 (((List.range (dCols d)).filter fun j => j / 32 = g).map fun j => (ffmt .f32).decode (e j))
      let code (j : Nat) : FRes := qnt1 .fp4 .f32 .rne sat (e j) (scale (j / 32))
      (∀ p, p ∈ r.1 ↔ (∃ q < (dCols d + 1) / 2, p = (elementOffset d 4 i (2 * q), BitVec.ofNat 8 ((code (2 * q)).1 + 16 *
          if 2 * q + 1 < dCols d then (code (2 * q + 1)).1 else (rd (elementOffset d 4 i (2 * q))).toNat / 16))) ∨
        ∃ g < (dCols d + 31) / 32, p = (dAux d + 4 * i + g, BitVec.ofNat 8 (scale g))) ∧ flags code)

/-- 17 R368, R369, 06 R154: the bytes that `tcvt` and `tzero` write. -/
def Sys2Proof.Claims.TilesConvertAndClear : Prop :=
  (∀ (rd : Nat → Byte) (n m : Desc), tcvtOk n m = true →
    let code (i j : Nat) : Nat := tileCode rd m i j
    let inside (i j : Nat) : Prop := i < dRows m ∧ j < dCols m
    let moved (i j k : Nat) : Nat × Byte := (elementOffset n (dW n) i j + k, BitVec.ofNat 8 (code i j / 256 ^ k))
    (dClass n = 1 → ∃ map : BitVec 64,
      (∀ b < 64, map.getLsbD b = true ↔ ∃ i j, inside i j ∧ blockBit i j = b ∧ code i j ≠ 0) ∧
      ∀ p, p ∈ tcvtBytes rd n m ↔ (∃ i j k, inside i j ∧ k < dW n / 8 ∧ map.getLsbD (blockBit i j) = true ∧ p = moved i j k) ∨
        ∃ k < 8, p = (dAux n + k, map.extractLsb' (8 * k) 8)) ∧
    (dClass n = 0 → ∀ p, p ∈ tcvtBytes rd n m ↔ ∃ i j k, inside i j ∧ k < dW n / 8 ∧ p = moved i j k) ∧
    (dClass n = 4 → ∀ p, p ∈ tcvtBytes rd n m ↔ ∃ b q o, b < (dRows m * dCols m + 255) / 256 ∧ q < 8 ∧ o < 32 ∧
      p.1 = dBase n + 256 * b + 32 * q + o ∧ ∀ k < 8, p.2.getLsbD k =
        let f := 256 * b + 8 * o + k
        decide (f < dRows m * dCols m) && (code (f / dCols m) (f % dCols m)).testBit (7 - q))) ∧
  ∀ (rd : Nat → Byte) (d : Desc), tzeroOk d = true →
    let zeros (p : Nat × Byte) (len : Nat) : Prop := ∃ i k, i < dRows d ∧ k < len ∧ p = (dBase d + i * dLdim d + k, 0#8)
    let map := ofBytes ((List.range 8).map fun k => rd (dAux d + k))
    ∀ p, p ∈ tzeroBytes rd d ↔
      (dClass d = 0 ∧ zeros p (dRb d)) ∨
      (dClass d = 1 ∧ ((∃ i j k, i < dRows d ∧ j < dCols d ∧ k < dW d / 8 ∧ map.testBit (blockBit i j) = true ∧
        p = (elementOffset d (dW d) i j + k, 0#8)) ∨ ∃ k < 8, p = (dAux d + k, 0#8))) ∨
      (dClass d = 2 ∧ zeros p (dRank d * dW d / 8)) ∨
      (dClass d = 3 ∧ (zeros p (dRb d) ∨ ∃ i g, i < dRows d ∧ g < (dCols d + 31) / 32 ∧ p = (dAux d + 4 * i + g, 0x7F#8))) ∨
      (dClass d = 4 ∧ ∃ k < 256 * ((dRows d * dCols d + 255) / 256), p = (dBase d + k, 0#8))

/-- 11 R253, R254, 08 R193: a computed row whose check passes is written with its flags; one that fails is computed once again and
written, the failure counted, or written poisoned when it fails again. -/
def Sys2Proof.Claims.AccumulatorRowsAreChecked : Prop :=
  (∀ (s : State) (p : PendRow), s.ctx.place = .active → s.ctx.m.pend.find? (fun p => !p.failed) = some p →
    (∃ t, exec (.accumulatorRowComplete true) s = .next t ∧ t.ctx.m.row p.row = p.val ∧ t.ctx.m.busy p.row = false ∧
      (∀ k, k ≠ p.row → t.ctx.m.row k = s.ctx.m.row k) ∧ t.ctx.v.lfstat = s.ctx.v.lfstat ||| p.flags ∧ SameMemory s t) ∧
    (∃ t, exec (.accumulatorRowComplete false) s = .next t ∧ (∃ q ∈ t.ctx.m.pend, q.row = p.row ∧ q.failed = true) ∧
      t.ctx.m = { s.ctx.m with pend := t.ctx.m.pend } ∧ t = { s with ctx := { s.ctx with m := t.ctx.m } })) ∧
  ∀ (s : State) (p : PendRow), s.ctx.place = .active → s.ctx.m.pend.find? (fun p => p.failed) = some p →
    (∃ t, exec (.rowRecompute true) s = .next t ∧ t.ctx.m.row p.row = p.val ∧ t.ctx.v.lfstat = s.ctx.v.lfstat ||| p.flags ∧
      t.notices = s.notices ++ [.rowFailure s.ctx.core p.row] ∧ t.ctx.m.accPoison.contains p.row = false) ∧
    (∃ t, exec (.rowRecompute false) s = .next t ∧ t.ctx.m.row p.row = s.ctx.m.row p.row ∧ t.ctx.v.lfstat = s.ctx.v.lfstat ∧
      t.ctx.m.accPoison.contains p.row = true ∧ t.notices = s.notices)

/-- 06 R150 to R156, 08 R191 to R193, 17 R361 to R370, 11 R240, R253 to R255: the oldest matrix entry, the elements of tiles and the dot
products it computes, and the check of the rows of a stream. The model's choices among the clauses: the result of a check is an argument of
the step (log entry 13); the notice of a failed row (31); a held byte makes the strip irrevocable (57); a scale of 0xFF gives NaN for a
group of zeros too (58); indices beyond the columns are zero times the weight (60); where the machine check of a poisoned row is taken, and
what is saved there (66). -/
def Obligations.MatrixStreamAndRows : Prop :=
  MatrixEntriesExecute ∧ TileElementsLieInTheirPlaces ∧ DotProductsAccumulate ∧ StreamRowsAreDotProducts ∧ TilesMoveTheirValues ∧
  TilesConvertAndClear ∧ AccumulatorRowsAreChecked

/-! ## Engines -/

namespace Sys2Proof.Claims

/-- A command joins its engine and the access hart goes on: what the hart sees performs first at the command's home scope
(18 R381, R385, 04 R112). -/
def issued (s : State) (k : Cmd) (leave : Option Nat) : State :=
  let r := (s.releaseBy k.home).acquireKey (s.ctx.hartKey .acc) (freshKey s.nextId)
  ({ r with nextId := r.nextId + 1, ctx := { r.ctx with cmds := r.ctx.cmds ++ [{ k with id := r.nextId, leave := leave }] } } : State).advance

/-- Nothing holds a command back: its token's register is not pending, no command has its mask, its engine has room (18 R381), and a release
at system scope has nothing on its way to another package (04 R107, R123). -/
def MayIssue (s : State) (k : Cmd) : Prop :=
  s.ctx.tokBusy k.hart k.tok = false ∧ (k.mask.isSome = true → ∀ x ∈ s.ctx.cmds, x.mask ≠ k.mask) ∧ s.engineFull k.kind = false ∧
  (k.home = .sys → s.irrevocable.unsent s.party = false)

/-- The pair of operands xc, xc+1. -/
def pairAt (s : State) (c : Reg) : Word × Word := (s.x c, s.x (c + 1#5))

/-- What an engine instruction of the copy, Nougat and routing engines issues (18 R386 to R394): whether its operands keep the limits
and the alignment, the scalars it reads, the command, and the cost of the leave it needs. -/
def commandOf (s : State) : Instr → Option (Bool × List Reg × Cmd × Option Nat)
  | .cpy o =>
    let n := (s.x o.c).toNat
    let chunks := (n + 256 * 2 ^ o.ck.toNat - 1) / (256 * 2 ^ o.ck.toNat)
    some (decide (n < 2 ^ 32) && apertureOk o (s.x o.a) (s.x o.b) && (o.mask.isNone || decide (chunks ≤ 512)), [o.a, o.b, o.c],
      (s.copyCmd .cpy o 0#64 chunks).overlapping (operandsMeet o (s.x o.a) n (s.x o.b) n), heavy n)
  | .cpy2 o =>
    let (c0, c1) := pairAt s o.c
    let nr := bits c0.toNat 32 32
    let rb := bits c0.toNat 0 32
    let chunks := (nr + 2 ^ o.ck.toNat - 1) / 2 ^ o.ck.toNat
    let extent (pitch : Nat) : Nat := if nr = 0 then 0 else (nr - 1) * pitch + rb
    some (decide (1 ≤ rb) && apertureOk o (s.x o.a) (s.x o.b) && (o.mask.isNone || decide (chunks ≤ 512)), [o.a, o.b, o.c, o.c + 1#5],
      (s.copyCmd .cpy2 o c1 chunks).overlapping
        (operandsMeet o (s.x o.a) (extent (bits c1.toNat 32 32)) (s.x o.b) (extent (bits c1.toNat 0 32))),
      heavy (nr * rb))
  | .cpyr o => rows .cpyr o false
  | .cpys o => rows .cpys o true
  | .gdg t a b c mask ck =>
    let (c0, c1) := pairAt s c
    let m := bits c1.toNat 48 16
    some (limits c0 c1 65535 && (mask.isNone || decide ((m + 2 ^ ck.toNat - 1) / 2 ^ ck.toNat ≤ 512)) &&
        decide (bits c1.toNat 0 22 % 4 = 0) && decide ((s.x b).toNat % 8 = 0), [a, b, c, c + 1#5],
      { s.newCmd .gdg t with
        mask := mask, ck := ck.toNat, ds := true, dst := s.x a, src := s.x b, c0 := c0, c1 := c1, total := (m + 4095) / 4096 }, none)
  | .gda t ty a b c =>
    let (c0, c1) := pairAt s c
    let m := bits c1.toNat 48 16
    let k := { s.newCmd (.gda ty) t with ss := true, dst := s.x a, src := s.x b, c0 := c0, c1 := c1, total := 1 }
    some (limits c0 c1 65535 && decide (bits c0.toNat 0 32 % (ty.width / 8) = 0) && decide (bits c1.toNat 0 22 % 4 = 0) &&
        decide ((s.x a).toNat % 8 = 0), [a, b, c, c + 1#5],
      (if 4096 < m then { k with reject := some 1 } else k), none)
  | .dsp t a => some (decide ((s.x a).toNat % 64 = 0), [a], (released .sys).routeCmd .dsp t (s.x a), none)
  | .cmb t a => some (decide ((s.x a).toNat % 64 = 0), [a], (released .die).routeCmd .cmb t (s.x a), none)
  | _ => none
where
  /- the release of the issue performs what the strip holds before the descriptor and the route are read (02 R71) -/
  released (home : Scope) : State := (s.releaseBy home).acquireKey (s.ctx.hartKey .acc) (freshKey s.nextId)
  heavy (n : Nat) : Option Nat := if 2 ^ 20 < n then some 2 else none
  limits (c0 c1 : Word) (most : Nat) : Bool :=
    let rowb := bits c0.toNat 0 32
    let m := bits c1.toNat 48 16
    decide (rowb % 8 = 0) && decide (8 ≤ rowb) && decide (rowb ≤ 16384) && decide (1 ≤ m) && decide (m ≤ most)
  rows (kind : CmdKind) (o : CpyArgs) (dstTable : Bool) : Option (Bool × List Reg × Cmd × Option Nat) :=
    let (c0, c1) := pairAt s o.c
    let m := bits c1.toNat 48 16
    let rowb := bits c0.toNat 0 32
    let chunks := (m + 2 ^ o.ck.toNat - 1) / 2 ^ o.ck.toNat
    let whole := bits c0.toNat 32 32 * rowb
    let dstLen := if dstTable then whole else m * rowb
    let srcLen := if dstTable then m * rowb else whole
    some (limits c0 c1 4096 && apertureOk o (s.x o.a) (s.x o.b) && (o.mask.isNone || decide (chunks ≤ 512)) &&
        decide (bits c1.toNat 0 22 % 4 = 0) && decide ((if dstTable then s.x o.a else s.x o.b).toNat % 8 = 0),
      [o.a, o.b, o.c, o.c + 1#5],
      (s.copyCmd kind o c1 chunks).overlapping
        (operandsMeet o (s.x o.a) dstLen (s.x o.b) srcLen || s.listMeets o c1 dstLen),
      heavy (m * rowb))

/-- The newest of some writes to a place, in order, or what it held. -/
def lastOf (ws : List (Loc × Byte)) (x : Loc) (old : Byte) : Byte := ws.foldl (fun b w => if w.1 = x then w.2 else b) old

/-- A command writes these bytes, in order, to memory as a party sees it and to scratchpads, and no other byte of either. -/
def Moved (s t : State) (v : View) (ws : List (Loc × Byte)) : Prop :=
  (∀ pa, t.byte v pa = lastOf ws (.mem pa) (s.byte v pa)) ∧
  ∀ core off, (t.spadOf core).byte off = lastOf ws (.spad core off) ((s.spadOf core).byte off)

/-- The bits of some chunks join the chunk mask of a command; no other predicate register and no register is written. -/
def Marked (s t : State) (k : Cmd) (cs : List Nat) : Prop :=
  (∀ p, p ≠ 0#4 → k.mask = some p → t.ctx.v.pred p = s.ctx.v.pred p ||| BitVec.ofNat 512 (cs.map fun c => 2 ^ c).sum) ∧
  (∀ p, k.mask ≠ some p → t.ctx.v.pred p = s.ctx.v.pred p) ∧ ∀ h r, t.ctx.x h r = s.ctx.x h r

/-- A byte of the core's scratchpad at a logical offset, and entry `i` of its index list, as a command reads them (04 R112). -/
def cmdByte (s : State) (k : Cmd) (off : Nat) : Byte := s.ctx.engSpad k.key (swizzle k.spz off)
def listOf (s : State) (k : Cmd) (i : Nat) : Nat := ofBytes ((List.range 4).map fun b => cmdByte s k (cList k + 4 * i + b))

/-- The command of an id has chunks left, and this one is not done. -/
def HasChunk (s : State) (id c : Nat) (k : Cmd) : Prop :=
  s.cmd id = some k ∧ k.over_ = false ∧ c < k.total ∧ k.did c = false

end Sys2Proof.Claims

/-- 18 R381, R386 to R394, 02 R71, 04 R107, R112, 10 R222: a command of the copy, Nougat and routing engines enters its engine with its operands
captured and what precedes it released, the descriptor and the route of `dsp` and `cmb` read after the release (02 R71); `cpyk` marks for cancelling the commands of its token that have a part left. The corners of the
commands follow log entry 33. -/
def Obligations.EngineCommandsAreIssued : Prop :=
  (∀ (i : Instr) (s : State) (rs : List Reg) (k : Cmd) (cost : Option Nat), commandOf s i = some (true, rs, k, cost) → s.hart = .acc →
    s.ready rs [] = true → MayIssue s k →
    (cost = none → exec i s = .next ((issued s k none).setWait .none)) ∧
    (∀ c l, cost = some c → s.heavy.find? (fun l => s.ownLeave .acc l && !l.claimed && decide (l.cost = c)) = some l →
      exec i s = .next ((issued { s with heavy := s.heavy.map fun x => if x.id = l.id then { x with claimed := true } else x } k
        (some l.id)).setWait .none))) ∧
  (∀ (o : CpyArgs) (s : State), s.hart = .acc → s.ready [o.a, o.b, o.c] [] = true → 2 ^ 32 ≤ (s.x o.c).toNat →
    Traps (.cpy o) s 0x00 0#64 (Instr.cpy o).encode) ∧
  ∀ (tok : Tok) (s : State), s.hart = .acc →
    let r := s.releaseBy .core
    let mine (k : Cmd) : Bool := decide (k.hart = if tok.et then .exe else .acc) && decide (k.tok = tok.d)
    ∃ t, exec (.cpyk tok) s = .next t ∧ t = { r with ctx := t.ctx } ∧ t.ctx = { r.ctx with ah := t.ctx.ah, cmds := t.ctx.cmds } ∧
      t.hs = { s.hs with pc := s.pc + 8#64, wait := .none } ∧
      t.ctx.cmds = s.ctx.cmds.map fun k =>
        let stops := match k.kind with
          | .cpy | .cpy2 | .cpyr | .cpys | .gdg | .dsp => true
          | .gda _ | .cmb => decide (k.next < k.total)
          | .rtlay | .rtprog | .rtin | .rtout | .rtacc => false
        if mine k && stops then { k with cancel := true } else k

/-- 18 R387, R388: a chunk of `cpy` moves its bytes, those at places that fault apart, and marks its chunk unless one faults; within one
scratchpad every byte comes from its place. -/
def Sys2Proof.Claims.CopyChunksMoveBytes : Prop :=
  (∀ (id c : Nat) (s : State) (k : Cmd), HasChunk s id c k → k.kind = .cpy → s.dev.ckpt.saving = false →
    let size := 256 * 2 ^ k.ck
    let n := min size (bits k.c0.toNat 0 32 - c * size)
    let a := s.loc .read .stream false k.ss k.rsp k.spz k.src (c * size) n
    let b := a.2.loc .write .stream false k.ds k.rsp k.spz k.dst (c * size) n
    a.1.contains .parked = false → b.1.contains .parked = false →
    let reads := ((a.1.zip b.1).filter fun p => !locsBad [p.1, p.2]).map fun p => (p.2, b.2.locByte (.core s.ctx.core) k.key p.1)
    ∃ t q, exec (.chunkComplete id c) s = .next t ∧ Moved b.2 t (.core s.ctx.core) (reads.map fun w => (w.1, w.2.1)) ∧
      Marked s t k (if locsBad (a.1 ++ b.1) then [] else [c]) ∧ t.cmd id = some q ∧ q.did c = true ∧
      q.units = k.units + reads.length ∧ q.psn = (k.psn || reads.any (·.2.2)) ∧
      (locsBad (a.1 ++ b.1) = true → q.fault.isSome = true)) ∧
  ∀ (id c : Nat) (s : State) (k : Cmd), HasChunk s id c k → k.kind = .cpy → k.rsp = false → k.ss = true → k.ds = true →
    let at_ := 256 * 2 ^ k.ck * c
    let n := min (256 * 2 ^ k.ck) (bits k.c0.toNat 0 32 - at_)
    let from_ := k.src.toNat + at_
    let to_ := k.dst.toNat + at_
    from_ + n ≤ 0x400000 → to_ + n ≤ 0x400000 → (from_ + n ≤ to_ ∨ to_ + n ≤ from_) →
    ∃ t, exec (.chunkComplete id c) s = .next t ∧ SameMemory s t ∧
      (∀ i < n, t.ctx.spad.byte (swizzle k.spz (to_ + i)) = cmdByte s k (from_ + i)) ∧
      (∀ a, (∀ i < n, a ≠ swizzle k.spz (to_ + i)) → t.ctx.spad.byte a = s.ctx.spad.byte a) ∧
      Marked s t k [c]

/-- 18 R387, R388: a row of `cpy2`, `cpyr` and `cpys`. A row with a place that faults is left unwritten; an index beyond the table sets BND,
and is a row of zeros for `cpyr` and no row for `cpys`. A chunk marks its bit unless a row faults. -/
def Sys2Proof.Claims.RowCopiesMoveRows : Prop :=
  (∀ (s : State) (k : Cmd) (i : Nat), s.dev.ckpt.saving = false →
    let row (src : Option Nat) (dst : Nat) : Prop :=
      let a := match src with
        | some o => s.loc .read .plain false k.ss k.rsp k.spz k.src o (cRowb k)
        | none => ([], s)
      let b := a.2.loc .write .plain false k.ds k.rsp k.spz k.dst dst (cRowb k)
      a.1.contains .parked = false → b.1.contains .parked = false →
      ∃ t q, s.rowCopy k false i = some (t, q) ∧ q.bnd = (k.bnd || src.isNone) ∧
        (locsBad (a.1 ++ b.1) = true → t = b.2 ∧ q.units = k.units ∧ q.fault.isSome = true) ∧
        (locsBad (a.1 ++ b.1) = false → q.units = k.units + 1 ∧ q.fault = k.fault ∧
          Moved b.2 t (.core s.ctx.core) (match src with
            | some _ => (a.1.zip b.1).map fun p => (p.2, (b.2.locByte (.core s.ctx.core) k.key p.1).1)
            | none => b.1.map fun x => (x, 0#8)))
    (k.kind = .cpy2 → row (some (i * bits k.c1.toNat 0 32)) (i * bits k.c1.toNat 32 32)) ∧
    (cList k + 4 * i + 4 ≤ 0x400000 → let j := listOf s k i
      (k.kind = .cpyr → (j < cTrows k → row (some (j * cRowb k)) (i * cRowb k)) ∧ (cTrows k ≤ j → row none (i * cRowb k))) ∧
      (k.kind = .cpys → (j < cTrows k → row (some (i * cRowb k)) (j * cRowb k)) ∧
        (cTrows k ≤ j → s.rowCopy k false i = some (s, { k with bnd := true }))))) ∧
  ∀ (id c : Nat) (s t : State) (k q : Cmd), HasChunk s id c k →
    (k.kind = .cpy2 ∨ k.kind = .cpyr ∨ (k.kind = .cpys ∧ c = k.next)) →
    s.rowCopies { k with fault := none } false ((List.range (min (2 ^ k.ck) (k.rows - c * 2 ^ k.ck))).map (c * 2 ^ k.ck + ·)) =
      some (t, q) →
    ∃ u r, exec (.chunkComplete id c) s = .next u ∧ SameMemory t u ∧ (∀ core off, (u.spadOf core).byte off = (t.spadOf core).byte off) ∧
      Marked t u k (if q.fault = none then [c] else []) ∧ u.cmd id = some r ∧ r.did c = true ∧ r.units = q.units ∧ r.bnd = q.bnd

/-- 02 R64 to R67, 18 R390: a window of `gdg` reads each distinct row of the table once, where the die sees it, and replays it to its
positions in the scratchpad; an index beyond the table gives zeros and BND; a position whose row faults is left unwritten. A chunk is
marked when its last position is written. -/
def Sys2Proof.Claims.GatherWindowsReplayRows : Prop :=
  ∀ (id : Nat) (s : State) (k : Cmd), s.cmd id = some k → k.kind = .gdg → k.over_ = false → s.nougatTurn k = true →
    let first := 4096 * k.next
    let stop := min (first + 4096) (cM k)
    let ps := (List.range (stop - first)).map (first + ·)
    let js := ((ps.map (listOf s k)).filter (· < cTrows k)).dedup
    let r := s.nougatRows k .read false k.src js
    (∀ x ∈ r.1, x.2.contains .parked = false) → cList k + 4 * stop ≤ 0x400000 → k.dst.toNat + stop * cRowb k ≤ 0x400000 →
    (cList k + 4 * stop ≤ k.dst.toNat ∨ k.dst.toNat + stop * cRowb k ≤ cList k) →
    let lost (i : Nat) : Bool := decide (listOf s k i < cTrows k) && locsBad (rowFor r.1 (listOf s k i))
    let value (i b : Nat) : Byte :=
      if cTrows k ≤ listOf s k i then 0#8
      else match (rowFor r.1 (listOf s k i))[b]? with
        | some (.mem pa) => r.2.engByte (.die (dieOf s.ctx.core)) k.key pa
        | _ => 0#8
    let size := 2 ^ k.ck
    ∃ t q, exec (.nougatWindow id k.next) s = .next t ∧ SameMemory r.2 t ∧ t.cmd id = some q ∧ q.did k.next = true ∧
      (∀ i ∈ ps, lost i = false → ∀ b < cRowb k, t.ctx.spad.byte (swizzle k.spz (k.dst.toNat + i * cRowb k + b)) = value i b) ∧
      (∀ a, (∀ i ∈ ps, lost i = false → ∀ b < cRowb k, a ≠ swizzle k.spz (k.dst.toNat + i * cRowb k + b)) →
        t.ctx.spad.byte a = s.ctx.spad.byte a) ∧
      q.units = k.units + (ps.filter fun i => !lost i).length ∧ q.bnd = (k.bnd || ps.any fun i => decide (cTrows k ≤ listOf s k i)) ∧
      Marked s t k (((List.range ((stop + size - 1) / size - first / size)).map (first / size + ·)).filter fun c =>
        decide (min ((c + 1) * size) (cM k) ≤ stop) && !q.badCh.contains c) ∧
      (∀ c, q.badCh.contains c = true ↔ k.badCh.contains c = true ∨ ∃ i ∈ ps, lost i = true ∧ i / size = c)

/-- 02 R68, R62, 18 R391, 04 R110: `gda` adds into each element that positions name, once, the sum of their elements in ascending order
of position; a fault on any row leaves every row as it was. `r` are the places of the rows, and the state after their translation. -/
def Sys2Proof.Claims.ScatterAddsUpdateElements : Prop :=
  ∀ (id : Nat) (s : State) (k : Cmd) (ty : Ty), s.cmd id = some k → k.kind = .gda ty → k.over_ = false → k.next = 0 → k.total = 1 →
    s.nougatTurn k = true → s.dev.ckpt.saving = false →
    let m := cM k
    let n := cRowb k
    cList k + 4 * m ≤ 0x400000 → k.src.toNat + m * n ≤ 0x400000 →
    let used := (List.range m).filter fun i => decide (listOf s k i < cTrows k)
    let js := (used.map (listOf s k)).dedup
    let r := s.nougatRows k .rmw false k.dst js
    (∀ x ∈ r.1, x.2.contains .parked = false) →
    let w := ty.width / 8
    let at_ (j e pa : Nat) : Prop := ∀ b < w, (rowFor r.1 j)[e * w + b]? = some (.mem (pa + b))
    ((∃ x ∈ r.1, locsBad x.2 = true) → ∃ t q, exec (.nougatWindow id 0) s = .next t ∧ SameMemory r.2 t ∧ t.ctx.spad = s.ctx.spad ∧
      t.cmd id = some q ∧ q.over_ = true ∧ q.fault.isSome = true ∧ q.units = k.units) ∧
    ((∀ x ∈ r.1, locsBad x.2 = false) → k.fault = none → 8 ≤ ty.width → n % w = 0 → (∀ j ∈ js, ∀ e < n / w, ∃ pa, at_ j e pa) →
      (∀ j ∈ js, ∀ j' ∈ js, ∀ e e' pa pa', at_ j e pa → at_ j' e' pa' → (j, e) ≠ (j', e') → e < n / w → e' < n / w →
        pa + w ≤ pa' ∨ pa' + w ≤ pa) →
      ∃ t q, exec (.nougatWindow id 0) s = .next t ∧ t.ctx.spad = s.ctx.spad ∧ t.cmd id = some q ∧ q.over_ = true ∧
        q.units = used.length ∧ q.bnd = (k.bnd || decide (used.length < m)) ∧
        ∀ j ∈ js, ∀ e < n / w, ∀ pa, at_ j e pa →
          let old := ofBytes ((List.range w).map fun b => r.2.byteBy (fun _ => true) (pa + b))
          let vals := (used.filter fun i => listOf s k i = j).map fun i =>
            ofBytes ((List.range w).map fun b => cmdByte s k (k.src.toNat + i * n + e * w + b))
          t.num (.die (dieOf s.ctx.core)) pa w =
            (addOf ty old (vals.tail.foldl (fun x y => (addOf ty x y).1) (vals.headD 0))).1 % 2 ^ ty.width)

/-- 18 R392, R393, R395, R386: row `c` of `dsp`. A row with no used entry only counts; an entry of this package gets the row's bytes, visible
everywhere; one that faults stays unwritten; one of another package has the row sent by a live port, unless its translation there,
a free value, faults, or with no port the command ends with a link failure. Entries of one row follow each other. -/
def Sys2Proof.Claims.DispatchSendsRows : Prop :=
  (∀ (s t : State) (k q : Cmd) (data : List (Byte × Bool)) (whole w : Bool) (e : Word) (l : List Word),
    s.sendRow k false data whole [e] = .ok t q w → s.sendRow k false data whole (e :: l) = t.sendRow q false data w l) ∧
  ∀ (id c : Nat) (s : State) (k : Cmd), HasChunk s id c k → k.kind = .dsp →
    let n := rtRowb k.desc
    let from_ := rtRows k.desc + c * n
    let data := (List.range n).map fun b => cmdByte s k (from_ + b)
    let bad := (List.range n).any fun b => s.ctx.spad.poison.contains (swizzle k.spz (from_ + b) / 8)
    let counted (t : State) (units : Nat) (port : Option Nat) (psn : Bool) : Prop :=
      ∃ q, t.cmd id = some q ∧ q.did c = true ∧ q.units = k.units + units ∧ q.port = port ∧ q.psn = psn
    (k.entries c = [] → ∃ t, exec (.chunkComplete id c) s = .next t ∧ SameMemory s t ∧ t.ctx.spad = s.ctx.spad ∧ counted t 1 k.port k.psn) ∧
    (from_ + n ≤ 0x400000 → ∀ e, k.entries c = [e] →
      (s.ownPkg (rePkg e) = true → s.dev.ckpt.saving = false →
        let r := s.loc .write .plain false false false k.spz (reAddr e) 0 n
        r.1.contains .parked = false →
        (locsBad r.1 = false → ∃ t, exec (.chunkComplete id c) s = .next t ∧ (∀ v, Moved r.2 t v (r.1.zip data)) ∧
          counted t 1 k.port (k.psn || bad)) ∧
        (locsBad r.1 = true → ∃ t, exec (.chunkComplete id c) s = .next t ∧ SameMemory r.2 t ∧ counted t 0 k.port k.psn)) ∧
      (s.ownPkg (rePkg e) = false →
        (∀ p, s.portTo (dieOf s.ctx.core) (rePkg e) = some p →
          (Config.remoteFault s.free = none → ∃ t rq, exec (.chunkComplete id c) s = .next t ∧ SameMemory s t ∧
            t.remote = s.remote ++ [rq] ∧ rq.pkg = rePkg e ∧ rq.asid = some s.ctx.asid ∧ rq.addr = (reAddr e).toNat ∧ rq.bytes = data ∧
            rq.bad = bad ∧ rq.way = .over p ∧ counted t 1 (some p) (k.psn || bad)) ∧
          (Config.remoteFault s.free ≠ none → ∃ t, exec (.chunkComplete id c) s = .next t ∧ SameMemory s t ∧ t.remote = s.remote ∧
            counted t 0 (some p) k.psn)) ∧
        (s.portTo (dieOf s.ctx.core) (rePkg e) = none →
          let p := k.port.getD (s.portConcerned (rePkg e))
          ∃ t q, exec (.chunkComplete id c) s = .next t ∧ SameMemory s t ∧ t.remote = s.remote ∧ t.cmd id = some q ∧ q.link = some p ∧
            t.notices = s.notices ++ [.linkFail s.ctx.core p] ∧ t.msix = s.msix ++ [1])))

/-- 18 R392, R394: `cmb` reaches every used entry before it reads, and forms each element of each row as the weighted sum of the
elements of the row's entries. `u` is the state after the translations, `rows` the rows reached by the number of their entry. -/
def Sys2Proof.Claims.CombineFormsRows : Prop :=
  (∀ (s : State) (k : Cmd), s.reachEntries k false [] = .ok s k []) ∧
  (∀ (s : State) (k : Cmd) (e : Word) (i : Nat) (l : List (Word × Nat)),
    let all := s.reachEntries k false ((e, i) :: l)
    let joins (t : State) (k' : Cmd) (x : List Loc ⊕ Nat) : Prop :=
      ∀ u q rows, t.reachEntries k' false l = .ok u q rows → all = .ok u q ((i, x) :: rows)
    (reV e = false → all = s.reachEntries k false l) ∧
    (reV e = true → s.ownPkg (rePkg e) = true →
      let r := s.loc .read .plain false false false k.spz (reAddr e) 0 (rtRowb k.desc)
      r.1.contains .parked = false → joins r.2 (k.faults r.1) (.inl r.1)) ∧
    (reV e = true → s.ownPkg (rePkg e) = false → ∀ p, s.portTo (dieOf s.ctx.core) (rePkg e) = some p →
      (Config.remoteFault s.free = none →
        joins { s with free := s.free + 1 + rtRowb k.desc / 8 } { k with port := some p } (.inr (s.free + 1))) ∧
      ∀ reason, Config.remoteFault s.free = some reason → all = ({ s with free := s.free + 1 } : State).reachEntries
        { k with port := some p, fault := minFault k.fault (reAddr e, reason.toNat) } false l)) ∧
  ∀ (id : Nat) (s u : State) (k q : Cmd) (rows : List (Nat × (List Loc ⊕ Nat))), HasChunk s id 0 k → k.kind = .cmb → k.next = 0 →
    k.total = 1 → s.reachEntries k false k.routes.zipIdx = .ok u q rows →
    let d := k.desc
    let n := rtRowb d
    let w := (rtElem d).width / 8
    (q.fault.isSome = true → ∃ t x, exec (.chunkComplete id 0) s = .next t ∧ SameMemory u t ∧ t.ctx.spad = s.ctx.spad ∧
      t.cmd id = some x ∧ x.over_ = true ∧ x.fault.isSome = true ∧ x.units = k.units) ∧
    (q.fault = none → rtRows d + rtTok d * n ≤ 0x400000 → rtWgt d + 4 * k.routes.length ≤ 0x400000 → w ∣ n → 0 < n →
      let weight (i : Nat) : Nat := ofBytes ((List.range 4).map fun b => cmdByte u q (rtWgt d + 4 * i + b))
      let terms (r e : Nat) : List (Nat × Nat) := (rows.filter fun x => x.1 / rtK d = r).map fun x =>
        (weight x.1, ofBytes ((((u.rowData q.key n x.2).map (·.1)).drop (e * w)).take w))
      ∃ t x, exec (.chunkComplete id 0) s = .next t ∧ SameMemory u t ∧ t.cmd id = some x ∧ x.over_ = true ∧ x.units = rtTok d ∧
        (∀ r e b, r < rtTok d → e < n / w → b < w → t.ctx.spad.byte (swizzle k.spz (rtRows d + r * n + e * w + b)) =
          (toBytes w (combine (rtElem d) (terms r e)).1).getD b 0#8) ∧
        (∀ a, (∀ o < rtTok d * n, a ≠ swizzle k.spz (rtRows d + o)) → t.ctx.spad.byte a = s.ctx.spad.byte a))

/-- 18 R385, R389, 04 R113, 11 R255: a command that is over, and whose requests have arrived, writes its token, which counts the units
done. -/
def Sys2Proof.Claims.TokensAreWritten : Prop :=
  ∀ (id : Nat) (s : State) (k : Cmd), s.cmd id = some k → (k.kind ≠ .rtout → k.over_ = true) →
    (k.kind = .rtout → ∀ r ∈ s.ctx.ray.rays, k.total ≤ r.id) →
    (∀ r ∈ s.remote, r.by_.cmd = some id → ∀ p, r.way ≠ .over p) →
    ∃ t, exec (.tokenWrite id) s = .next t ∧ t.ctx.x k.hart k.tok = k.token ∧ t.cmd id = none ∧ SameMemory s t ∧
      t.ctx.ah.fstat = s.ctx.ah.fstat ||| k.flags ∧
      (∀ h r, h ≠ k.hart ∨ r ≠ k.tok → t.ctx.x h r = s.ctx.x h r) ∧
      (k.reject = none → k.link = none → k.fault = none →
        k.token.extractLsb' 60 4 = (if k.cancel then 2#4 else 0#4) ∧ k.token.getLsbD 59 = k.bnd ∧ k.token.getLsbD 58 = k.psn ∧
        k.token.extractLsb' 0 48 = BitVec.ofNat 48 k.units)

/-- 18 R385 to R395, 02 R64 to R68, 04 R110 to R114, 11 R255: what a chunk of each copy, a window of Nougat, a row of `dsp` and `cmb` do, and
the token of a command that is over. That a chunk happens whole at one step is the model's choice of log entry 20, how they touch
their pages its choice of log entry 53; the corners follow log entry 33; what a remote read and its translation answer is free (log entry 19).
An atomic add of `gda` takes what other cores wrote to its element first (04 R110). -/
def Obligations.ChunksCompleteAndTokensAreWritten : Prop :=
  CopyChunksMoveBytes ∧ RowCopiesMoveRows ∧ GatherWindowsReplayRows ∧ ScatterAddsUpdateElements ∧ DispatchSendsRows ∧ CombineFormsRows ∧
  TokensAreWritten

/-! ## The ray traversal engine -/

namespace Sys2Proof.Claims

/-- A ray instruction: its command, which reports some units, joins the engine, and its effect happens at issue. -/
def rayIssued (s : State) (kind : CmdKind) (tok : Tok) (units : Nat) : State := issued s { s.newCmd kind tok with units := units } none
def MayRay (s : State) (kind : CmdKind) (tok : Tok) : Prop := MayIssue s (s.newCmd kind tok)

/-- Bytes that an access of the access hart reads, none of them poisoned: the translation and what the hart learns of the stores it reads
leave `t`. -/
def Reads (s : State) (va : Word) (n : Nat) (bs : List Byte) (t : State) : Prop :=
  ∃ ps u, s.xlAll (s.req .read) va n = (.ok ps, u) ∧ u.badPiece ps = none ∧ u.ctxBytes ps = bs ∧ t = u.readPieces .rlx ps ∧ Learns u t

/-- The ray in focus runs under a layout. -/
def RayRuns (s : State) (l : BitVec 256) (r : Ray) : Prop :=
  s.rayAt s.ctx.ray.focus = some r ∧ r.phase = .run ∧ s.ctx.ray.layout = some l

/-- The spill writes of a ray's step perform, in push order, as stores of the ray (09 R200). -/
def spilled (s : State) (r : Ray) : State :=
  r.held.reverse.foldl (fun u w => u.engPut r.key .core w.1 (toBytes 8 w.2.toNat)) s

/-- The step that runs has committed: its record is the working copy, and its spill writes have performed (09 R200). -/
def stepCommitted (s : State) (r : Ray) : Ray × State :=
  ({ r with rcd := r.work, held := [], count := 0, cand := none }, spilled s r)

/-- A ray whose step ends with a fault or an abort: the record as committed at the step's start, with its STATE and FCODE, leaves for a
ring (09 R200, R204). -/
def leaves (x : Ray) (state fcode ring : Nat) (fa fi : Word) : Ray :=
  let w := rset (rset x.rcd 967 3 state) 960 4 fcode
  { x with rcd := w, work := w, held := [], part := [], prim := none, phase := .out ring none none fa fi }

end Sys2Proof.Claims

/-- 18 R396, R397, 02 R71, 04 R110, R112, 09 R196, R197, R199, R202, R206: `rtlay` and `rtprog` load the engine while no ray is in flight,
`rtin` injects the record that its command reads, `rtout` asks the rays that run to leave, `rtacc` accepts a hit into the record in memory
as it stands once what precedes the command has performed. The working state at injection is free (log entry 18). Three clauses are the
model's choice: what rtout counts (log entry 34), that the reads of `rtlay`, `rtprog` and `rtin` touch their pages as plain accesses (53),
and that the record is read whole at the issue of `rtin` (63). -/
def Obligations.RayInstructionsComplete : Prop :=
  (∀ (tok : Tok) (a : Reg) (s t : State) (bs : List Byte), s.hart = .acc → s.ready [a] [] = true → (s.x a).toNat % 32 = 0 →
    Reads s (s.x a) 32 bs t → t.raysHere = false → t.raysBelow = false → MayRay t .rtlay tok →
    let l := BitVec.ofNat 256 (ofBytes bs)
    layoutOk l = true → exec (.rtlay tok a) s = .next
      ((let u := rayIssued t .rtlay tok 1; u.setCtx { u.ctx with ray := { u.ctx.ray with layout := some l } }).setWait .none)) ∧
  (∀ (tok : Tok) (a b : Reg) (s t : State) (bs : List Byte), s.hart = .acc → s.ready [a, b] [] = true → (s.x a).toNat % 8 = 0 →
    let n := (s.x b).toNat
    1 ≤ n → n ≤ 512 → Reads s (s.x a) (8 * n) bs t → t.raysHere = false → t.raysBelow = false → MayRay t .rtprog tok →
    ∃ m, exec (.rtprog tok a b) s = .next
        ((let u := rayIssued t .rtprog tok n; u.setCtx { u.ctx with ray := { u.ctx.ray with ustore := m } }).setWait .none) ∧
      (∀ i < n, Sparse.get 0#64 m i = BitVec.ofNat 64 (ofBytes ((bs.drop (8 * i)).take 8))) ∧
      ∀ i, n ≤ i → Sparse.get 0#64 m i = Sparse.get 0#64 t.ctx.ray.ustore i) ∧
  (∀ (tok : Tok) (a : Reg) (s t u v : State) (h h' : List Byte) (ps : List (Nat × Nat)), s.hart = .acc → s.ready [a] [] = true →
    s.ctx.ray.layout.isSome = true → s.ctx.sr.rfrb.getLsbD 63 = true → s.ctx.sr.rdrb.getLsbD 63 = true → (s.x a).toNat % 128 = 0 →
    Reads s (ringBase s.ctx.sr.rfrb) 128 h t → Reads t (ringBase s.ctx.sr.rdrb) 128 h' u → headerOk h = true → headerOk h' = true →
    (((u.contexts.filter fun c => c.core = u.ctx.core).map fun c => c.ray.rays.length).sum < 64) → u.raysBelow = false →
    u.xlAll (u.req .read) (s.x a) 128 = (.ok ps, v) → v.engBad ps = none → MayRay v .rtin tok →
    let w := rayIssued v .rtin tok 1
    let bs := (placesOf (.mem ps)).map fun p => w.engByte (.core w.ctx.core) (freshKey v.nextId) p.2
    let w := ({ w with nextId := w.nextId + 1 } : State).acquireKey (v.ctx.hartKey .acc) (freshKey (v.nextId + 1))
    exec (.rtin tok a) s = .next (({ w with
      ctx := { w.ctx with ray := { w.ctx.ray with
        rays := w.ctx.ray.rays ++ [inject (v.nextId + 1) (BitVec.ofNat 1024 (ofBytes bs))] } } } : State).setWait .none)) ∧
  (∀ (tok : Tok) (s : State), s.hart = .acc → MayRay s .rtout tok →
    let n := (s.ctx.ray.rays.filter fun r => r.phase = .run).length
    let u := issued s { s.newCmd .rtout tok with units := n, total := s.nextId } none
    exec (.rtout tok) s = .next ((u.setCtx { u.ctx with ray := { u.ctx.ray with
      rays := u.ctx.ray.rays.map fun r => if r.phase = .run then { r with suspend := true } else r } }).setWait .none)) ∧
  ∀ (tok : Tok) (a b : Reg) (s t : State) (pa : Nat), s.hart = .acc → s.ready [a, b] [] = true → (s.x a).toNat % 128 = 0 →
    s.xlAll (s.req .rmw .gather) (s.x a) 128 = (.ok [(pa, 128)], t) → t.badPiece [(pa, 128)] = none →
    let g (units : Nat) : State := (rayIssued t .rtacc tok units).gatherStores (.core t.ctx.core) pa 128
    let r := BitVec.ofNat 1024 ((g 0).num (.core t.ctx.core) pa 128)
    let p := bits (s.x b).toNat 32 32
    MayRay t .rtacc tok →
    (accept r (bits (s.x b).toNat 0 32) p = none → exec (.rtacc tok a b) s = .next ((g 0).setWait .none)) ∧
    ∀ q, accept r (bits (s.x b).toNat 0 32) p = some q →
      let u := g 1
      let key := freshKey t.nextId
      exec (.rtacc tok a b) s = .next (((u.engPut key .core (pa + 28) (toBytes 4 (rTmax q))).engPut key .core (pa + 112)
        (toBytes 16 (bits q.toNat 896 128))).setWait .none)

/-- 18 R398, 09 R195, R196, R200 to R203, R206, 23 R425: the micro-ops of a ray that runs, each counted and followed by the next; the two step
heads first commit the step before them and then read one aligned word of their node, index or triangle at a step; `tv.end` commits and
hands the record to the done ring. -/
def Sys2Proof.Claims.MicroOpsAdvanceTheRay : Prop :=
  ∀ (s : State) (l : BitVec 256) (r : Ray), RayRuns s l r →
    (let w := r.work
     let next (x : Ray) : Ray := { x with work := rsMpc x.work (rMpc x.work + 1), count := x.count + 1 }
     let done (i : Instr) (x : Ray) : Prop := exec i s = .next (s.putRay x)
     let hits : List (Nat × Nat) := (List.range (lNch l)).filterMap fun c =>
       if nodeChild l r.nb c = 0 then none else (boxEntry l w r.nb c).map fun e => (c, e)
     done .tvBox (next { r with mask := hits }) ∧
     done .tvTri (next { r with cand := r.pb.bind fun p => triangle w p.1 p.2 }) ∧
     done (.tvCmp .mask) (next { r with c := r.mask.isEmpty }) ∧
     done (.tvCmp .stk) (next { r with c := decide (rIsp w = 0) && decide (rSdepth w = 0) }) ∧
     done (.tvCmp .leaf) (next { r with c := nodeLeaf l r.nb }) ∧
     done (.tvCmp .cand) (next { r with c := r.cand.isSome }) ∧
     done .tvLeaf (next { r with work := rsLeafi w 0, lstart := nodeStart l r.nb }) ∧
     (r.cand = none → done .tvAcc (next r)) ∧
     (∀ t p, r.cand = some (t, p) → done .tvAcc (next { r with work := (Machine.accept w t p).getD w })) ∧
     (∀ k target, done (.tvBr k target)
       (if (k = .always ∨ (k = .t ∧ r.c = true) ∨ (k = .f ∧ r.c = false)) then
          { r with work := rsMpc w target.toNat, count := r.count + 1 } else next r)) ∧
     done (.tvMov .leafi) (next { r with work := rsLeafi w (rLeafi w + 1), c := true }) ∧
     ((farthest r.mask).getLast? = none → done (.tvMov .near) (next { r with c := false })) ∧
     (∀ c e, (farthest r.mask).getLast? = some (c, e) → done (.tvMov .near)
       (next { r with work := rsCur w (nodeChild l r.nb c), mask := r.mask.filter fun x => x ≠ (c, e), c := true })) ∧
     (rIsp w + r.mask.length ≤ 8 → done .tvPush (next ((farthest r.mask).foldl (fun x p =>
       let ref := nodeChild l r.nb p.1
       if ref = 0 then x else { x with work := rsIsp (rsStk x.work (rIsp x.work) ref) (rIsp x.work + 1) }) r))) ∧
     (0 < rIsp w → refBad (rStk w (rIsp w - 1)) = false → done .tvPop
       (next { r with work := rsCur (rsIsp w (rIsp w - 1)) (rStk w (rIsp w - 1)), c := true })) ∧
     (rIsp w = 0 → rSdepth w = 0 → done .tvPop (next { r with c := false }))) ∧
    (let (q, u) := stepCommitted s r
     let cur := rCur r.work
     let go (x : Ray) : Ray := { x with work := rsMpc x.work (rMpc x.work + 1) }
     /- the next word of `n` bytes at `va`, for a ray in a state: all of them are there, or more are to be read, or the read fails -/
     let reads (i : Instr) (t : State) (x : Ray) (va : Word) (n fcode : Nat) (whole more : List Byte → Ray) : Prop :=
       let a := va + BitVec.ofNat 64 x.part.length
       let got := t.engRead r.key .plain false a (min (n - x.part.length) (8 - a.toNat % 8))
       (∀ bs ps v, got = .ok bs ps v → exec i s =
         .next (v.putRay (if n ≤ (x.part ++ bs).length then whole (x.part ++ bs) else more (x.part ++ bs)))) ∧
       (∀ fa fi v, got = .fault fa fi v → exec i s = .next (v.putRay (leaves x 3 fcode 0 fa fi))) ∧
       ∀ fa fi v, got = .poison fa fi v → exec i s = .next (v.putRay (leaves x 3 4 0 fa 0#64))
     let node (t : State) (x : Ray) : Prop := reads .tvFetch t x (refAddr cur) (lNsize l) 1
       (fun bs => go { x with nb := bs, part := [], c := nodeLeaf l bs }) fun bs => { x with part := bs }
     let prims (t : State) (x : Ray) (prim : Nat) : Prop :=
       reads .tvLd t x (lPrbase l + BitVec.ofNat 64 (prim * lPrstride l)) 36 2
         (fun bs => go { x with pb := some ((List.range 9).map fun k => bufNum bs (4 * k) 4, prim), c := true, part := [], prim := none })
         fun bs => { x with part := bs, prim := some prim }
     let at_ := lIxbase l + BitVec.ofNat 64 (4 * (r.lstart + rLeafi r.work))
     let index := u.engRead r.key .plain false at_ 4
     (r.part ≠ [] → refBad cur = false → node s r) ∧
     (r.part = [] →
       (refBad cur = true → exec .tvFetch s = .next (u.putRay (leaves q 6 9 1 0#64 0#64))) ∧
       (refBad cur = false → refOwner cur = dieOf s.ctx.core → node u q) ∧
       (refBad cur = false → refOwner cur ≠ dieOf s.ctx.core → exec .tvFetch s = .next (u.putRay
         (if (Sparse.get 0#64 u.ctx.sr.rib (refOwner cur)).getLsbD 63 = true then
            { q with rcd := rset r.work 967 3 4, work := rset r.work 967 3 4, phase := .out (2 + refOwner cur) none none 0#64 0#64 }
          else leaves q 3 5 0 0#64 0#64)))) ∧
     (∀ prim, r.prim = some prim → prims s r prim) ∧
     (r.prim = none →
       (nodeCount l r.nb ≤ rLeafi r.work → exec .tvLd s = .next (u.putRay (go { q with c := false }))) ∧
       (rLeafi r.work < nodeCount l r.nb → lIxbase l = 0#64 → prims u q ((r.lstart + rLeafi r.work) % 2 ^ 32)) ∧
       (rLeafi r.work < nodeCount l r.nb → lIxbase l ≠ 0#64 →
         (∀ bs ps v, index = .ok bs ps v → exec .tvLd s = .next (v.putRay { q with prim := some (bufNum bs 0 4) })) ∧
         ∀ fa fi v, index = .fault fa fi v → exec .tvLd s = .next (v.putRay (leaves q 3 2 0 fa fi))))) ∧
    let u := spilled s r
    let w := rset (rset r.work 967 3 2) 960 4 0
    exec .tvEnd s = .next (u.putRay { r with rcd := w, work := w, held := [], phase := .out 1 none none 0#64 0#64 })

namespace Sys2Proof.Claims

/-- One push of 09 R201 with no abort or fault: at ISP 8 the oldest entry becomes a held write at the head of the spill stack. -/
def PushOne (s : State) (r : Ray) (ref : Nat) (r' : Ray) (t : State) : Prop :=
  let w := r.work
  (ref = 0 → r' = r ∧ t = s) ∧
  (ref ≠ 0 → rIsp w < 8 → r' = { r with work := rsIsp (rsStk w (rIsp w) ref) (rIsp w + 1) } ∧ t = s) ∧
  (ref ≠ 0 → 8 ≤ rIsp w → rSpill w ≠ 0 ∧ rSpill w % 8 = 0 ∧ rSdepth w ≠ 65535 ∧ ∃ pa x,
    s.engPieces .write .plain false (BitVec.ofNat 64 (rSpill w + 8 * rSdepth w)) 8 = .ok [(pa, 8)] t ∧
    r' = { r with work := x, held := (pa, BitVec.ofNat 64 (rStk w 0)) :: r.held } ∧
    rIsp x = 8 ∧ rSdepth x = rSdepth w + 1 ∧ (∀ i < 7, rStk x i = rStk w (i + 1)) ∧ rStk x 7 = ref ∧
    ∀ k, k < 256 ∨ (768 ≤ k ∧ k < 980) ∨ (984 ≤ k ∧ k < 992) ∨ 1008 ≤ k → x.getLsbD k = w.getLsbD k)

/-- Pushes one after the other. -/
def Pushes (s : State) (r : Ray) : List Nat → Ray → State → Prop
  | [], r', t => r' = r ∧ t = s
  | ref :: l, r', t => ∃ q u, PushOne s r ref q u ∧ Pushes u q l r' t

/-- The quotient of 18 R399 of a bound by a direction that is not zero: an infinite bound gives an infinity. -/
def slabQuotient (x : Machine.Num) (o d : ℚ) : WithBot (WithTop ℚ) :=
  match x with
  | .inf neg => if neg = decide (d < 0) then ((⊤ : WithTop ℚ) : WithBot (WithTop ℚ)) else ⊥
  | .fin n m e => (((numVal (.fin n m e) - o) / d : ℚ) : WithTop ℚ)
  | .nan _ => ⊥

/-- An FP32 code is what a mode rounds a number to, or an infinity. -/
def RoundsExt (rm : Rm) (q : WithBot (WithTop ℚ)) (code : Nat) : Prop :=
  (q = ⊥ → code = 0xFF800000) ∧ (q = ((⊤ : WithTop ℚ) : WithBot (WithTop ℚ)) → code = 0x7F800000) ∧
  ∀ v : ℚ, q = ((v : WithTop ℚ) : WithBot (WithTop ℚ)) → ∃ neg fl, (v ≠ 0 → neg = decide (v < 0)) ∧ Delivered .f32 rm false neg (v : ℝ) (code, fl)

/-- The value of an FP32 code in the order of numbers. -/
def extF32 (code : Nat) : WithBot (WithTop ℚ) := extVal (f32 code)

/-- The interval of one axis of 18 R399: where the direction is zero, the origin lies within the bounds. -/
def AxisMeets (o d lo hi : Machine.Num) (n f : Nat) : Prop :=
  if d.isZero = true then extVal lo ≤ extVal o ∧ extVal o ≤ extVal hi ∧ n = 0xFF800000 ∧ f = 0x7F800000
  else
    let q1 := slabQuotient lo (numVal o) (numVal d)
    let q2 := slabQuotient hi (numVal o) (numVal d)
    RoundsExt .rdn (min q1 q2) n ∧ RoundsExt .rup (max q1 q2) f

/-- ORG and DIR of a record, as values. -/
def rayOrg (w : BitVec 1024) (a : Nat) : Machine.Num := f32 (bits w.toNat (32 * a) 32)
def rayDir (w : BitVec 1024) (a : Nat) : Machine.Num := f32 (bits w.toNat (128 + 32 * a) 32)

end Sys2Proof.Claims

/-- 09 R201, R195: the stack of a ray: `tv.push` pushes the children of MASK, farthest first, and spills past eight entries; `tv.pop` takes the
newest entry, or one that it reads back, from the step's own held writes first; what aborts with FCODE 8 or 9 and faults with 3 or 4. -/
def Sys2Proof.Claims.StackSpillsAndReloads : Prop :=
  ∀ (s : State) (l : BitVec 256) (r : Ray), RayRuns s l r →
    let w := r.work
    let next (x : Ray) : Ray := { x with work := rsMpc x.work (rMpc x.work + 1), count := x.count + 1 }
    let refs := (farthest r.mask).map fun p => nodeChild l r.nb p.1
    (∀ r' t, Pushes s r refs r' t → exec .tvPush s = .next (t.putRay (next r'))) ∧
    (∀ pre ref post q u, refs = pre ++ ref :: post → Pushes s r pre q u → ref ≠ 0 → 8 ≤ rIsp q.work →
      let bad := rSpill q.work = 0 ∨ rSpill q.work % 8 ≠ 0 ∨ rSdepth q.work = 65535
      (bad → exec .tvPush s = .next (u.putRay (leaves q 6 8 1 0#64 0#64))) ∧
      ∀ fa fi t, ¬bad → u.engPieces .write .plain false (BitVec.ofNat 64 (rSpill q.work + 8 * rSdepth q.work)) 8 = .fault fa fi t →
        exec .tvPush s = .next (t.putRay (leaves q 3 3 0 fa fi))) ∧
    (0 < rIsp w → refBad (rStk w (rIsp w - 1)) = true → exec .tvPop s = .next (s.putRay (leaves r 6 9 1 0#64 0#64))) ∧
    (rIsp w = 0 → 0 < rSdepth w →
      let bad := rSpill w = 0 ∨ rSpill w % 8 ≠ 0
      let va := BitVec.ofNat 64 (rSpill w + 8 * (rSdepth w - 1))
      let pops (cur : Nat) (t : State) : Prop := exec .tvPop s = .next (t.putRay (if refBad cur then leaves r 6 9 1 0#64 0#64
        else next { r with work := rsCur (rsSdepth w (rSdepth w - 1)) cur, c := true }))
      (bad → exec .tvPop s = .next (s.putRay (leaves r 6 8 1 0#64 0#64))) ∧
      (∀ fa fi t, ¬bad → s.engPieces .read .plain false va 8 = .fault fa fi t → exec .tvPop s = .next (t.putRay (leaves r 3 3 0 fa fi))) ∧
      ∀ pa t, ¬bad → s.engPieces .read .plain false va 8 = .ok [(pa, 8)] t →
        (∀ pre post v, r.held = pre ++ (pa, v) :: post → (∀ h ∈ pre, h.1 ≠ pa) → pops v.toNat t) ∧
        ((∀ h ∈ r.held, h.1 ≠ pa) →
          (t.engBad [(pa, 8)] = none → pops (ofBytes ((List.range 8).map fun i => t.engByte (.core t.ctx.core) r.key (pa + i))) t) ∧
          (t.engBad [(pa, 8)] ≠ none → exec .tvPop s = .next (t.putRay (leaves r 3 4 0 va 0#64)))))

/-- 18 R399, R400: the entry distance that `tv.box` gives a child whose box meets the interval of the ray, and the candidate that `tv.tri`
finds: exact values, rounded outward, and to the nearest, once. -/
def Sys2Proof.Claims.BoxesAndTrianglesAreExact : Prop :=
  ∀ (w : BitVec 1024), (∀ a < 3, (rayOrg w a).isFin = true ∧ (rayDir w a).isFin = true) → (f32 (rTmin w)).isNan = false →
    (f32 (rTmax w)).isNan = false →
    (∀ (l : BitVec 256) (nb : List Byte) (c : Nat),
      let bound (j : Nat) : Machine.Num :=
        if l.getLsbD 24 then (ffmt .f16).decode (bufNum nb (lBxoff l + 12 * c + 2 * j) 2) else f32 (bufNum nb (lBxoff l + 24 * c + 4 * j) 4)
      let axes (n f : Nat → Nat) : Prop := ∀ a < 3, AxisMeets (rayOrg w a) (rayDir w a) (bound a) (bound (a + 3)) (n a) (f a)
      let entry (n : Nat → Nat) := max (extF32 (rTmin w)) (max (extF32 (n 0)) (max (extF32 (n 1)) (extF32 (n 2))))
      let exit_ (f : Nat → Nat) := min (extF32 (rTmax w)) (min (extF32 (f 0)) (min (extF32 (f 1)) (extF32 (f 2))))
      (∀ e, boxEntry l w nb c = some e → (∀ j < 6, (bound j).isNan = false) ∧
        ∃ n f, axes n f ∧ extF32 e = entry n ∧ entry n ≤ exit_ f) ∧
      (boxEntry l w nb c = none → (∃ j < 6, (bound j).isNan = true) ∨ ∀ n f, axes n f → exit_ f < entry n)) ∧
    ∀ (v : List Nat) (prim : Nat),
      let p (i : Nat) : ℚ := numVal (f32 (v.getD i 0))
      let det := Matrix.det !![p 3 - p 0, p 6 - p 0, -numVal (rayDir w 0); p 4 - p 1, p 7 - p 1, -numVal (rayDir w 1);
        p 5 - p 2, p 8 - p 2, -numVal (rayDir w 2)]
      let solves (t a b : ℚ) : Prop := 0 ≤ a ∧ 0 ≤ b ∧ a + b ≤ 1 ∧ ∀ i < 3,
        numVal (rayOrg w i) + t * numVal (rayDir w i) = p i + a * (p (i + 3) - p i) + b * (p (i + 6) - p i)
      let finite := ∀ i < 9, (f32 (v.getD i 0)).isFin = true
      (∀ code q, triangle w v prim = some (code, q) → q = prim ∧ finite ∧ det ≠ 0 ∧ ∃ t a b, solves t a b ∧
        (∃ fl, Delivered .f32 .rne false (decide (t < 0)) (t : ℝ) (code, fl))) ∧
      (triangle w v prim = none → ¬finite ∨ det = 0 ∨ ∀ t a b, ¬solves t a b)

/-- 18 R398 to R400, 09 R195, R196, R200 to R203, R206, 23 R425: the micro-ops of a ray that runs, each counted and followed by the next; the
two step heads first commit the step before them and then read one aligned word of their node, index or triangle at a step, in ascending
order; a malformed reference aborts with FCODE 9, an inbox that is off faults with FCODE 5, a read that faults or meets poison with FCODE 1,
2 or 4; the stack spills past eight entries and is read back; boxes and triangles are met exactly; `tv.end` commits, with FCODE 0 (23 R425),
and hands the record to the done ring. Three clauses are the model's choice: after micro-op 511 comes micro-op 0 (log entry 62), the words
of a record are read in that order, each at a step (63), and LSTART + i wraps modulo 2^32 (74). -/
def Obligations.MicroOpsRunTheRay : Prop :=
  MicroOpsAdvanceTheRay ∧ StackSpillsAndReloads ∧ BoxesAndTrianglesAreExact

/-- 09 R204, R205: the producer of a ring: a ring that is off or unreachable, or a malformed or poisoned header, blocks it, one that has
reserved its slot too; where HEAD − TAIL has reached the capacity the
ring is full; else HEAD goes up by one and the slot of the old HEAD is written: the record's 16 words, in the fault ring with the fault
address and TINFO after them. -/
def Sys2Proof.Claims.RingsAnswerTheirState : Prop :=
  (∀ (s : State) (ring : Nat) (r : Ray) (fa fi : Word), s.dev.ckpt.saving = false → let base := ringBase (s.ctx.sr.ring ring)
    (∀ slot, (s.ctx.sr.ring ring).getLsbD 63 = false ∨ s.linked ring = false →
      s.produce false ring r slot fa fi = .blocked slot base .off s) ∧
    ((s.ctx.sr.ring ring).getLsbD 63 = true → s.linked ring = true →
      (∀ slot, s.produce false ring r (some slot) fa fi = s.writeSlot false ring r slot fa fi) ∧
      (∀ a info t, s.engRead r.key .plain false base 128 = .poison a info t →
        s.produce false ring r none fa fi = .blocked none base .poisoned t) ∧
      (∀ a info t, s.engRead r.key .plain false base 128 = .fault a info t →
        s.produce false ring r none fa fi = .blocked none a (.xlate info) t) ∧
      ∀ h hs t, s.engRead r.key .plain false base 128 = .ok h hs t →
      (headerOk h = false → s.produce false ring r none fa fi = .blocked none base .malformed t) ∧
      (headerOk h = true → ∀ pa ps u, t.engPieces .rmw .gather false base 8 = .ok ((pa, 8) :: ps) u →
        let head := BitVec.ofNat 64 (ofBytes ((List.range 8).map fun b => u.byteBy (fun _ => true) (pa + b)))
        let used := (head - BitVec.ofNat 64 (bufNum h 8 8)).toNat
        let cap := 2 ^ bufNum h 16 8
        (cap ≤ used → ∃ v, s.produce false ring r none fa fi = .full v) ∧
        (used < cap → ∃ v : State, v.num (.core s.ctx.core) pa 8 = (head + 1#64).toNat ∧ s.produce false ring r none fa fi =
          v.writeSlot false ring r (head, base + 128#64 + BitVec.ofNat 64 (slotSize ring * (head.toNat % cap))) fa fi)))) ∧
  ∀ (s t : State) (ring : Nat) (r : Ray) (head va fa fi : Word) (ps : List (Nat × Nat)), s.dev.ckpt.saving = false →
    s.engPieces .write .plain false va (slotSize ring) = .ok ps t →
    let at_ (i : Nat) : Nat := (pieceBytes ps).getD (8 * i) 0
    let n := slotSize ring / 8
    (∀ i < n, ∀ j < n, i ≠ j → at_ i + 8 ≤ at_ j ∨ at_ j + 8 ≤ at_ i) →
    ∃ v, s.writeSlot false ring r (head, va) fa fi = .done head v ∧
      (∀ i < 16, v.num (.core s.ctx.core) (at_ i) 8 = bits (writtenRecord t.free r.rcd).toNat (64 * i) 64) ∧
      (ring = 0 → v.num (.core s.ctx.core) (at_ 16) 8 = fa.toNat ∧ v.num (.core s.ctx.core) (at_ 17) 8 = fi.toNat ∧
        ∀ i, 18 ≤ i → i < 32 → v.num (.core s.ctx.core) (at_ i) 8 = 0)

/-- 09 R204, R205, 11 R247: a record whose slot is written leaves the engine, and from the fault ring raises RAY_FAULT; a full ring keeps
the ray for another try; an unusable fault or done ring keeps it, and each blockage of its own, by its address and cause, is reported once; an unusable inbox makes it a record of the fault
ring with FCODE 5; a due event is taken by the access hart. Unused stack entries of a written record are free (log entry 11). The model's
choices: a poisoned header is a blockage, events merge into the older whatever they are, and FADDR is 0 where no translation fault blocked
an inbox (log entry 77); an inbox that no live port reaches cannot be used (68). -/
def Obligations.RingsTakeRecordsAndRaiseFaults : Prop :=
  RingsAnswerTheirState ∧
  (∀ (id ring : Nat) (slot : Option (Word × Word)) (told : Option (Word × Blockage)) (fa fi : Word) (s : State) (r : Ray), s.rayAt id = some r →
    r.phase = .out ring slot told fa fi →
    let happens (f : State → Prop) : Prop :=
      (told = none → ∃ u, exec (.ringProduce id) s = .next u ∧ f u) ∧ ∃ u, exec (.ringRetry id) s = .next u ∧ f u
    (∀ head t, s.produce false ring r slot fa fi = .done head t → happens fun u =>
      u.ctx.ray.rays = t.ctx.ray.rays.filter (fun x => x.id ≠ r.id) ∧ u = { t with ctx := u.ctx } ∧ u.ctx.v = t.ctx.v ∧
      u.ctx.ax = t.ctx.ax ∧ u.ctx.ray.event = (if ring = 0 then t.ctx.ray.event.or (some (fa, head)) else t.ctx.ray.event)) ∧
    (∀ t, s.produce false ring r slot fa fi = .full t → happens fun u => u = t.putRay { r with phase := .out ring slot none fa fi }) ∧
    (∀ sl va why t, s.produce false ring r slot fa fi = .blocked sl va why t → ring < 2 → happens fun u =>
      u.ctx.ray.rays = t.ctx.ray.rays.map (fun y => if y.id = r.id then { r with phase := .out ring sl (some (va, why)) fa fi } else y) ∧
      u.ctx.ray.event = (if told = some (va, why) then t.ctx.ray.event else t.ctx.ray.event.or (some (va, BitVec.allOnes 64)))) ∧
    (∀ sl va why t, s.produce false ring r slot fa fi = .blocked sl va why t → 2 ≤ ring → happens fun u =>
      (∀ info, why = .xlate info → u = t.putRay (leaves r 3 5 0 va info)) ∧
      ((∀ info, why ≠ .xlate info) → u = t.putRay (leaves r 3 5 0 0#64 0#64)))) ∧
  ∀ (s : State) (a info : Word), s.ctx.ray.event = some (a, info) → s.eventDue = true →
    ∃ t, exec .rayFault s = .next t ∧ SameMemory s t ∧ t.ctx.ray.event = none ∧ t.ctx.ah.pc = entryOf s.ctx.sr.hwin .acc ∧
      t.ctx.ah.t.tcause = 0x0E#64 ∧ t.ctx.ah.t.taddr = a ∧ t.ctx.ah.t.tinfo = info ∧ t.ctx.ah.t.tpc = s.ctx.ah.pc ∧
      t.ctx.ah.t.tnpc = s.ctx.ah.pc ∧ t.ctx.ah.t.tsp = s.ctx.x .acc 30#5 ∧ t.ctx.x .acc 30#5 = stackTop s.ctx.sr.hwin .acc ∧
      t.ctx.ah.handler = true ∧ (∀ r, r ≠ 30#5 → t.ctx.x .acc r = s.ctx.x .acc r) ∧ t.ctx.v = s.ctx.v ∧ t.ctx.xh = s.ctx.xh

/-! ## Lane blocks and system instructions -/

/-- 08 R185, 13 R288, 14 R307: a `vtsend` entry starts a virtual processor for each element below VL that its predicate names, under the
FCTL and SPZ it captured, with the words of the block read now: word i at the block's address + 8 i, or the fault of its fetch, up to the
first `end` or the 64th. `at_` is the state in which each word is read. -/
def Sys2Proof.Claims.LaneBlocksStart : Prop :=
  ∀ (s : State) (e : VEntry) (rest : List VEntry) (p : PReg) (block : Word), HeadRuns s e rest → e.op = .lanes p block →
    e.resume = .fresh →
    let es := (List.range e.cap.vl).filter fun k => (s.ctx.v.pred p).getLsbD k
    ∃ u words, exec (.vectorEntryExecute none) s = .next u ∧ u.ctx.v.vq = rest ∧ (∀ h r, u.ctx.x h r = s.ctx.x h r) ∧
      u.ctx.vps = s.ctx.vps ++ es.map (fun k => (
        { elem := k, ew := vtEw e.cap.vtype, block := block, words := words, pc := block, fctl := e.cap.fctl, spz := e.cap.spz,
          strip := s.ctx.strip.isSome, regs := [], held := [], stores := 0, flags := 0#8, st := .running } : Vp)) ∧
      (∀ i, i + 1 < words.length → (words.getD i .unread).isEnd = false) ∧
      (es ≠ [] → words.length = 64 ∨ words.length < 64 ∧ ∃ w, words.getLast? = some w ∧ w.isEnd = true) ∧
      ∃ at_ : Nat → State, at_ 0 = ({ s with hart := .exe } : State).withSpz e.cap.spz ∧ ∀ i < words.length,
        let a := block + BitVec.ofNat 64 (8 * i)
        let w := words.getD i .unread
        match (at_ i).xlAll ((at_ i).req .fetch) a 8 with
        | (.ok ps, t) => at_ (i + 1) = t ∧
          (t.badPiece ps = none → w = .word (BitVec.ofNat 64 (ofBytes (t.ctxBytes ps)))) ∧
          ∀ pa, t.badPiece ps = some pa → w = .fault 0x10 a (fetchInfo pa)
        | (.fault va reason level, t) => at_ (i + 1) = t ∧ w = .fault 0x03 va (xlInfo s.ctx.asid 0 false false level reason)
        | (.hold _ _ _, t) => at_ (i + 1) = t ∧ w = .unread

/-- 08 R185, 13 R290: in a block an instruction outside its classes, or of a type wider than the element, aborts with ILLEGAL; an integer
instruction writes its result, cut to the element's width, to a register of the virtual processor, and does nothing else. The word at the
processor's pc runs, or is a fault; a block of which no word read is an `end` aborts with ILLEGAL, once none is left to read. -/
def Sys2Proof.Claims.LaneInstructionsRun : Prop :=
  (∀ (s : State) (p : Vp),
    let n := (p.pc - p.block).toNat / 8
    let endless := ∀ x ∈ p.words, ∃ v, x = .word v ∧ decode v ≠ .ok .end_
    (∀ w, p.words[n]? = some (.word w) →
      (endless → s.laneStep p = .abort 0x00 0#64 w s) ∧ (¬endless → s.laneStep p = s.laneExec p w)) ∧
    (∀ c a i, p.words[n]? = some (.fault c a i) → s.laneStep p = .abort c a i s) ∧
    ∀ ps t, p.words[n]? = some .unread → s.xlAll (s.req .fetch) p.pc 8 = (.ok ps, t) → t.badPiece ps = none →
      let w := BitVec.ofNat 64 (ofBytes (t.ctxBytes ps))
      let words := p.words.take n ++ .word w :: p.words.drop (n + 1)
      s.laneStep p = .go { p with words := if decode w = .ok .end_ then words.take (n + 1) else words } t) ∧
  ∀ (s : State) (p : Vp) (w : Word) (i : Instr), decode w = .ok i → i ≠ .end_ →
    (laneOp i = none ∨ p.ew < laneWidth i → s.laneExec p w = .abort 0x00 0#64 w s) ∧
    ∀ op o, intOf i = some (op, o) → o.t.width ≤ p.ew →
      let q : State := { s with ctx := s.ctx.asLane p, hart := .exe }
      (∀ r, q.x r = p.reg s.ctx.v r) ∧ (q.ready (o.a :: srcRegs o.b) [o.d] = true →
      let r := intResult op o.t (q.x o.a) (q.src o.b)
      let regs := (o.d, BitVec.ofNat 64 (r.toNat % 2 ^ p.ew)) :: p.regs.filter fun x => x.1 ≠ o.d
      regs.length ≤ 8 → p.stores ≤ 16 → (p.pc + 8#64 - p.block).toNat / 8 < p.words.length →
      s.laneExec p w = .go { p with pc := p.pc + 8#64, regs := regs } s)

/-- 08 R185 to R187, 04 R118, 18 R401, R402: `vtsend` enters the queue when no virtual processor is left, `vtwait` goes on then, or takes
the trap of the lowest aborted element with LB = 1; `vtwait.k` kills first. A block that retires gives its registers, flags and stores
their effect, where a release among them at system scope has nothing on its way to another package, and waits where it has; one that
aborts starts afresh; one that waits stays as it was. A `vtwait` makes what the strip holds of the blocks the hart's own (04 R130). -/
def Sys2Proof.Claims.LaneBlocksReport : Prop :=
  (∀ s : State, Learns { s with ctx := { s.ctx with
      strip := s.ctx.strip.map fun p => { p with held := p.held.map fun h => { h with vp := none } } } } s.acquireBlocks) ∧
  (∀ (p : PReg) (a : Reg) (s : State), s.hart = .exe → s.ready [a] [] = true → s.ctx.lbe = true → s.ctx.v.vl ≤ 512 →
    canonical (s.x a) = true → (s.x a).toNat % 8 = 0 → s.ctx.vps = [] → (∀ e ∈ s.ctx.v.vq, ∀ q b, e.op ≠ .lanes q b) →
    s.ctx.v.vq.length < 64 → ∃ t, exec (.vtsend p a) s = .next t ∧ Queues s.acquireBlocks t (.lanes p (s.x a)) 0#4 none) ∧
  (∀ (s : State), s.hart = .exe → (∀ e ∈ s.ctx.v.vq, ∀ q b, e.op ≠ .lanes q b) →
    (s.ctx.vps = [] → ∃ t, exec (.vtwait none) s = .next t ∧ Kept s.acquireBlocks t ∧ GoesOn s t) ∧
    (∀ p, (∀ e ∈ s.ctx.v.vq, e.op.pw.contains p.toNat = false) → (∀ q ∈ s.ctx.vps, (s.ctx.v.pred p).getLsbD q.elem = true) →
      let r := s.acquireBlocks
      ∃ t, exec (.vtwait (some p)) s = .next t ∧ t.ctx.vps = [] ∧ Kept { r with ctx := { r.ctx with vps := [] } } t ∧ GoesOn s t) ∧
    (∀ x c a i, CanTrap s → s.ctx.vps = [x] → x.st = .aborted c a i →
      ∃ t, exec (.vtwait none) s = .next t ∧ t.hs.t.tcause = BitVec.ofNat 64 (c + 0x200) ∧ t.hs.t.taddr = a ∧ t.hs.t.tinfo = i ∧
        t.hs.t.tpc = s.pc ∧ t.hs.t.tnpc = s.pc ∧ t.pc = entryOf s.ctx.sr.hwin .exe ∧ t.ctx.sr.fmr = BitVec.ofNat 512 (2 ^ x.elem) ∧
        t.ctx.vps = [x.fresh .reported])) ∧
  ∀ (e : Nat) (s t : State) (p : Vp), s.ctx.vpAt e = some p → s.ctx.place = .active →
    (∀ q, s.runVp p = .retire q t → t.blockWaits q = true → exec (.laneBlockRetire e) s = .next ((t.beforeBlock q).putVp q)) ∧
    (∀ q, s.runVp p = .retire q t → t.blockWaits q = false → ∃ u, exec (.laneBlockRetire e) s = .next u ∧ (∀ x ∈ u.ctx.vps, x.elem ≠ q.elem) ∧
      u.ctx.v.lfstat = t.ctx.v.lfstat ||| q.flags ∧
      (∀ r w, q.regs = [(r, w)] → 0 < q.ew → q.ew * (q.elem + 1) ≤ 4096 →
        u.ctx.v.elem q.ew r 0 q.elem = w.toNat % 2 ^ q.ew ∧
        ∀ n row, n < 32 → row < 16 → n ≠ r.toNat ∨ row ≠ 0 → u.ctx.v.row n row = t.ctx.v.row n row) ∧
      (q.regs = [] → u.ctx.v.rows = t.ctx.v.rows) ∧
      (q.strip = false → q.held = [] → SameMemory t u) ∧
      (∀ h, q.strip = false → q.held = [h] → h.spad = false → h.rel = none → h.bad = false → Local h.addr →
        h.bytes.length < 64 → Stored t u h.addr h.bytes)) ∧
    (∀ q t, s.runVp p = .go q t → exec (.laneBlockRetire e) s = .next (t.putVp q)) ∧
    (∀ va, s.runVp p = .hold va → exec (.laneBlockRetire e) s = .next s) ∧
    ∀ cause a info, s.runVp p = .abort cause a info t → exec (.laneBlockRetire e) s =
      .next (t.setCtx { t.ctx with vps := t.ctx.vps.map fun x =>
        if x.elem = p.elem then { p with pc := p.block, regs := [], held := [], stores := 0, flags := 0#8,
                                         st := .aborted cause a info } else x })

/-- 08 R185 to R187, 04 R118, 13 R284, R288, R290, 14 R307, 18 R401, R402: lane blocks start, run and report. That a block runs whole at one
step is the reading of log entry 29. -/
def Obligations.LaneBlocksRunAndReport : Prop :=
  LaneBlocksStart ∧ LaneInstructionsRun ∧ LaneBlocksReport

/-- 18 R403, R407, 11 R240, R241, 08 R173: `svc` traps with TNPC past it; `tret` leaves the handler and replays what was saved, the
first entry from where ES or FMR says then; `idle`
waits for an event or its bound. Where the replayed entries stand is the reading of log entry 28; when a bound ends is log entry 8. -/
def Obligations.SystemCallsReturnAndIdle : Prop :=
  (∀ (n : BitVec 14) (s : State), CanTrap s →
    ∃ t, exec (.svc n) s = .next t ∧ Entered s.irrevocable t 0x13 0#64 (n.zeroExtend 64) s.pc (s.pc + 8#64)) ∧
  (∀ (s : State), s.ready [] [30#5] = true →
    (s.hs.handler = true → s.hs.ts = false → s.hs.t.tnpc.toNat % 8 = 0 →
      let replays := s.hart = .exe ∧ s.ctx.sr.tqp.getLsbD 63 = true
      (replays → s.ctx.v.vq.length + s.ctx.v.saved.length ≤ 64) →
      ∃ t, exec .tret s = .next t ∧ OnlyCtx s t ∧ (∀ r, t.x r = if r = 30#5 then s.hs.t.tsp else s.x r) ∧
        t.hs = { s.hs with pc := s.hs.t.tnpc, wait := .none, t := { s.hs.t with hstat := s.hs.t.hstat &&& ~~~1#64 } } ∧
        (¬replays → t.ctx.v.vq = s.ctx.v.vq ∧ t.ctx.v.saved = s.ctx.v.saved ∧ t.ctx.sr = s.ctx.sr) ∧
        (replays → t.ctx.v.vq.map (fun e => (e.op, e.cap, e.pc)) = (s.ctx.v.vq ++ s.ctx.v.saved).map (fun e => (e.op, e.cap, e.pc)) ∧
          t.ctx.v.saved = [] ∧ t.ctx.sr.tqp.getLsbD 63 = false ∧
          ∀ h l, s.ctx.v.saved = h :: l → t.ctx.v.vq.map (·.resume) = s.ctx.v.vq.map (·.resume) ++ (match h.resume with
            | .fresh => .fresh
            | .elem _ _ => .elem (bits s.ctx.sr.es.toNat 11 4) (bits s.ctx.sr.es.toNat 0 11)
            | .mask _ => .mask s.ctx.sr.fmr) :: l.map (·.resume))) ∧
    (s.hs.handler = false → Traps .tret s 0x00 0#64 Instr.tret.encode)) ∧
  (∀ (a : Reg) (s : State), s.ready [a] [] = true →
    (s.ctx.ray.event.isSome = true → Jumps (.idle a) s (s.pc + 8#64)) ∧
    (s.ctx.ray.event = none → exec (.idle a) s = .next (s.setHs { s.hs with wait := .idle (decide (s.x a ≠ 0#64)) }))) ∧
  ∀ (s : State), s.hs.wait = .idle true → exec .idleExpiry s = .next (s.setHs { s.hs with pc := s.pc + 8#64, wait := .none })

/-- 10 R217, R218, 02 R71, 04 R107, R123, 08 R171, R173, 11 R242, 18 R409, R410: `end` performs what the strip holds; it stops the access
hart, ends the item on the execute hart, and in the handler ends it with the cause of the trap; `halt` ends it with its code and notifies
Brioche; `chkm` releases at sys scope, with nothing on its way to another package, and reports its number. Three clauses are the model's
choice: the rays of an item that has ended leave the engine (log entry 34), its registers and predicates stay until the next launch clears
them (72), and with the event unit not ready no event takes a number (70). -/
def Obligations.ItemsEndAndReport : Prop :=
  (∀ (s : State), s.hart = .acc → s.hs.handler = false →
    exec .end_ s = .next (s.irrevocable.setHs { s.hs with run := .stopped, wait := .none })) ∧
  (∀ (s : State), s.hart = .exe → s.hs.handler = false → s.ctx.quiet = true →
    ∃ t, exec .end_ s = .next t ∧ t.ctx.place = .empty ∧ t.ctx.ah.run = .stopped ∧ t.ctx.xh.run = .stopped ∧ t.ctx.strip = none ∧
      t.ctx.ray.rays = [] ∧ (∀ h r, t.ctx.x h r = s.ctx.x h r) ∧ (∀ p, t.ctx.v.pred p = s.ctx.v.pred p) ∧
      t.evseq = s.pkgEvent.evseq ∧ SameMemory s.irrevocable t ∧
      ∀ l ∈ s.launches, l.id = s.ctx.launch →
        ∃ l' ∈ t.launches, l'.id = l.id ∧ s.ctx.item ∈ l'.ended ∧ (∀ i ∈ l.ended, i ∈ l'.ended) ∧ l'.flags = l.flags ||| s.ctx.fstat ∧
          l'.faulted = l.faulted) ∧
  (∀ (s : State), s.hs.handler = true →
    ∃ t, exec .end_ s = .next t ∧ t.ctx.ah.run = .halted ∧ t.ctx.xh.run = .halted ∧ t.ctx.v.vq = [] ∧ t.ctx.m.mq = [] ∧
      t.ctx.ray.rays = [] ∧ t.ctx.cmds = s.ctx.cmds ∧ SameMemory s.irrevocable t ∧
      ∀ l ∈ s.launches, l.id = s.ctx.launch →
        ∃ l' ∈ t.launches, l'.id = l.id ∧ l'.faulted = l.faulted.or (some (bits s.hs.t.tcause.toNat 0 8))) ∧
  (∀ (a : Reg) (s : State), s.ready [a] [] = true →
    let n := bits (s.x a).toNat 0 8
    let code := if n ≤ 0x13 ∧ n ≠ 0x0D ∧ n ≠ 0x11 then n else 0x10
    ∃ t, exec (.halt a) s = .next t ∧ t.ctx.ah.run = .halted ∧ t.ctx.xh.run = .halted ∧ t.ctx.ray.rays = [] ∧ t.ctx.cmds = s.ctx.cmds ∧ SameMemory s t ∧
      t.notices = s.notices ++ [.halt s.ctx.core s.pc code] ∧ t.msix = s.msix ++ [1] ∧
      ∀ l ∈ s.launches, l.id = s.ctx.launch → ∃ l' ∈ t.launches, l'.id = l.id ∧ l'.faulted = l.faulted.or (some code)) ∧
  ∀ (d a : Reg) (s : State), s.hart = .exe → s.ready [a] [d] = true → s.drained = true →
    s.irrevocable.unsent s.party = false →
    let r := s.releaseBy .sys
    let n := s.evseq + (if s.dev.rdyhub.getLsbD 15 then 1 else 0)
    ∃ t, exec (.chkm d a) s = .next t ∧ SameMemory r t ∧ t.evseq = n ∧
      t.notices = s.notices ++ [.chkm n s.ctx.core (s.x a)] ∧ GoesOn s t ∧
      (∀ q, t.x q = if q = d then BitVec.ofNat 64 n else s.x q) ∧
      t = { r with ctx := t.ctx, evseq := t.evseq, notices := t.notices } ∧ t.ctx = { r.ctx with v := t.ctx.v, xh := t.ctx.xh }

/-! ## Launches from a program, and leave -/

/-- 18 R404 to R406, 04 R107, R123, 10 R219: `spawn` releases at sys scope, with nothing on its way to another package, submits the record it
reads and adds the child; `join` answers for the children that have ended; `kill` and LKILL mark a launch killed, stop its context in focus
and take it out of every queue. The end of a killed launch follows log entry 37. Two clauses are the model's choice: the read of `spawn`
touches its page as a plain access (53), and a write of LKILL while GO = 1 is ignored (78). -/
def Obligations.ProgramsSpawnJoinAndKill : Prop :=
  (∀ (a : Reg) (s t u : State) (bs : List Byte) (id : Nat), s.hart = .exe → s.ready [a] [] = true → s.ctx.kids.length < 64 →
    (s.x a).toNat % 256 = 0 → s.drained = true → Reads s (s.x a) 256 bs t →
    let r : LRec := BitVec.ofNat 2048 (ofBytes bs)
    cwOk r = true → t.dieReady (dieOf s.ctx.core) = true → t.irrevocable.unsent t.party = false →
    (t.releaseBy .sys).takeLaunch r (dieOf s.ctx.core) false (some (s.ctx.launch, s.ctx.asid)) = .ok id u →
    ∃ v, exec (.spawn a) s = .next v ∧ v.ctx.kids = s.ctx.kids ++ [id] ∧ v.launches = u.launches ∧ v.queues = u.queues ∧
      GoesOn s v ∧ v.evseq = u.pkgEvent.evseq ∧ SameMemory u v ∧ ∀ q, v.x q = s.x q) ∧
  (∀ (d : Reg) (s : State), s.hart = .exe → s.ready [] [d] = true → (∀ l ∈ s.kids, l.written = true) → s.kids.length < 2 ^ 32 →
    ∃ t w, exec (.join d) s = .next t ∧ w.toNat % 2 ^ 32 = s.kids.length ∧
      (∀ k < 8, w.getLsbD (32 + k) = s.kids.any fun l => decide (l.status = k)) ∧ GoesOn s t ∧
      Wrote { s with launches := s.launches.filter (fun l => !s.ctx.kids.contains l.id), ctx := { s.ctx with kids := [] } } t d w) ∧
  (∀ (d a : Reg) (s : State), s.hart = .exe → s.ready [a] [d] = true →
    (s.findCw (some s.ctx.asid) (s.x a) = none → Writes (.kill d a) s d 0#64) ∧
    ∀ l, s.findCw (some s.ctx.asid) (s.x a) = some l →
      ∃ t, exec (.kill d a) s = .next t ∧ (∀ x ∈ t.launches, x.id = l.id → x.killed = true) ∧
        (∀ c ∈ t.queues, l.id ∉ c.2) ∧
        (s.ctx.launch = l.id → s.ctx.held = true → t.ctx.ah.run = .halted ∧ t.ctx.xh.run = .halted) ∧
        (t.hs.run = .running → t.x d = 1#64)) ∧
  ∀ (cw : BitVec 54) (s : State),
    let addr := sext64 57 (cw.toNat * 8)
    (s.dev.lkill.getLsbD 63 = true → exec (.lkill cw) s = .next s) ∧
    (s.dev.lkill.getLsbD 63 = false → s.findCw none addr = none → exec (.lkill cw) s = .next { s with
      evseq := s.pkgEvent.evseq, dev := { s.dev with lkill := BitVec.ofNat 64 (2 ^ 62 + cw.toNat * 8) } }) ∧
    ∀ l, s.dev.lkill.getLsbD 63 = false → s.findCw none addr = some l →
      ∃ t, exec (.lkill cw) s = .next t ∧ t.dev.lkill = BitVec.ofNat 64 (2 ^ 63 + cw.toNat * 8) ∧
        (∀ x ∈ t.launches, x.id = l.id → x.killed = true) ∧ (∀ c ∈ t.queues, l.id ∉ c.2) ∧
        (s.ctx.launch = l.id → s.ctx.held = true → t.ctx.ah.run = .halted ∧ t.ctx.xh.run = .halted)

/-- 10 R221 to R223, 18 R408: the arbiter grants its head request, of those whose harts still wait, when it fits the budget; a wait beyond PWRTO traps; a finished heavy
operation returns its cost; `pwr` sets the standing leave. When leave returns is the reading of log entry 44; when a timeout happens is
log entry 8. -/
def Obligations.LeaveIsGrantedAndReturned : Prop :=
  (∀ (die : Idx3) (s : State), (∀ r ∈ s.leaveQ, r.die = die.toNat → s.asks r = false) → exec (.leaveGrant die) s = .next s) ∧
  (∀ (die : Idx3) (s : State) (r : Leave), s.leaveQ.find? (fun r => decide (r.die = die.toNat) && s.asks r) = some r →
    let use := s.pwruse die.toNat
    (use + r.cost ≤ s.pwrbud die.toNat → ∃ t, exec (.leaveGrant die) s = .next t ∧ t.heavy = s.heavy ++ [r] ∧
      t.leaveQ = s.leaveQ.filter (fun x => x.id ≠ r.id) ∧ t.pwruse die.toNat = use + r.cost ∧
      (∀ k, k ≠ die.toNat → t.pwruse k = s.pwruse k) ∧
      t = { s with leaveQ := t.leaveQ, heavy := t.heavy, evseq := s.pkgEvent.evseq, dev := { s.dev with pwruse := t.dev.pwruse } }) ∧
    (s.pwrbud die.toNat < use + r.cost → exec (.leaveGrant die) s = .next s)) ∧
  (∀ (s : State) (cost : Nat) (r : Leave), s.hs.wait = .leave cost → s.leaveQ.find? (s.ownLeave s.hart) = some r →
    s.pwrto (dieOf s.ctx.core) ≠ 0 → CanTrap s →
    ∃ t, exec .leaveTimeout s = .next t ∧ t.hs.t.tcause = 0x0F#64 ∧ t.hs.t.tpc = s.pc ∧ t.pc = entryOf s.ctx.sr.hwin s.hart ∧
      t.hs.t.tinfo = BitVec.ofNat 64 (s.pwruse (dieOf s.ctx.core) * 2 ^ 16 + cost % 2 ^ 16) ∧
      (∀ x ∈ t.leaveQ, t.ownLeave s.hart x = false) ∧ SameMemory s t ∧ ∀ q, q ≠ 30#5 → t.x q = s.x q) ∧
  (∀ (s : State) (l : Leave), l ∈ s.heavy → l.claimed = true → (∀ x ∈ s.heavy, x.id = l.id → x = l) →
    (∀ c ∈ s.contexts, c.holdsLeave l.id = false) →
    ∃ t, exec (.heavyOperationComplete l.id) s = .next t ∧ t.heavy = s.heavy.filter (fun x => x.id ≠ l.id) ∧
      (l.standing = true → t.dev = s.dev) ∧
      (l.standing = false → (Sparse.get 0#64 s.dev.pwruse l.die).toNat < 2 ^ 16 → t.pwruse l.die = s.pwruse l.die - l.cost) ∧
      t = { s with heavy := t.heavy, dev := { s.dev with pwruse := t.dev.pwruse } }) ∧
  ∀ (d a : Reg) (s : State), s.hart = .exe → s.ready [a] [d] = true →
    let die := dieOf s.ctx.core
    let old := s.ctx.standing
    let want := (s.x a).toNat
    (want ≤ old → s.covered ≤ want → want < 2 ^ 16 → ∃ t, exec (.pwr d a) s = .next t ∧ t.ctx.standing = want ∧
      t.pwruse die = s.pwruse die - (old - want) ∧ t.x d = BitVec.ofNat 64 old ∧ GoesOn s t ∧ SameMemory s t) ∧
    (old < want → want < 2 ^ 16 → (∀ l ∈ s.heavy, (s.ownLeave .exe l && !l.claimed) = false) →
      (∀ r ∈ s.leaveQ, r.die ≠ die ∧ s.ownLeave .exe r = false) → s.pwruse die + (want - old) ≤ s.pwrbud die →
      ∃ t, exec (.pwr d a) s = .next t ∧ t.ctx.standing = want ∧ t.pwruse die = s.pwruse die + (want - old) ∧
        t.x d = BitVec.ofNat 64 old ∧ GoesOn s t ∧ SameMemory s t) ∧
    (2 ^ 16 ≤ want → Traps (.pwr d a) s 0x00 0#64 (Instr.pwr d a).encode)

/-! ## Translation, the checkpoint engine, the majority registers -/

/-- 13 R286, R288, 01 R11, R21, R26, R31, R42: a word fetched ahead is kept; the next word of a hart that cannot be fetched traps
FETCH_XLATE with its address and REASON, a poisoned one MACHINE_CHECK with SRC 1; a walk installs its translation, and an evicted HBM leaf
enters the victim queue; a page with HOLD is read again, or its bound ends the wait. The evicted translation is an argument and no
pointer is cached (log entry 12), and which entry a full queue loses and the class of a group or of a leaf with both bits are log entry 52; the words fetched ahead are log entry 49; the bound on
HOLD follows log entry 45. -/
def Obligations.FetchesWalksAndHeldPages : Prop :=
  (∀ (a : Word) (s : State), s.hs.run = .running → a.toNat % 8 = 0 →
    let u : State := { s with ctx := s.ctx.setHs s.hart { s.hs with ibuf := s.hs.ibuf.filter fun c => c.1 != a.toNat } }
    (∀ ps t, u.xlAll (u.req .fetch) a 8 = (.ok ps, t) → t.badPiece ps = none →
      ∃ v, exec (.fetch a) s = .next v ∧ v = { t with ctx := v.ctx } ∧ v.ctx = s.ctx.setHs s.hart { s.hs with ibuf := v.hs.ibuf } ∧
        Sparse.get 0#64 v.hs.ibuf a.toNat = BitVec.ofNat 64 (ofBytes (t.ctxBytes ps)) ∧
        ∀ k, k ≠ a.toNat → Sparse.get 0#64 v.hs.ibuf k = Sparse.get 0#64 s.hs.ibuf k) ∧
    (∀ va reason level t, u.xlAll (u.req .fetch) a 8 = (.fault va reason level, t) → exec (.fetch a) s = .next s)) ∧
  (∀ (s : State), CanTrap s → (∀ c ∈ s.hs.ibuf, c.1 ≠ s.pc.toNat) →
    (∀ va reason level t, s.xlAll (s.req .fetch) s.pc 8 = (.fault va reason level, t) →
      ∃ u, s.nextWord = .stop (.next u) ∧
        Entered t u 0x03 va (BitVec.ofNat 64 (s.ctx.asid.toNat * 4096 + level * 16 + reason)) s.pc s.pc) ∧
    (∀ ps t pa, s.xlAll (s.req .fetch) s.pc 8 = (.ok ps, t) → t.badPiece ps = some pa →
      ∃ u, s.nextWord = .stop (.next u) ∧ u.hs.t.tcause = 0x10#64 ∧ u.hs.t.taddr = s.pc ∧ bits u.hs.t.tinfo.toNat 0 8 = 1 ∧
        u.hs.t.tpc = s.pc ∧ u.pc = entryOf s.ctx.sr.hwin s.hart)) ∧
  (∀ (va : Word) (k : Acc) (s : State), s.ctx.held = true →
    exec (.walkComplete s.ctx.asid va k none) s = .next (s.xl (s.req k .walk) va).2 ∧
    ∀ i e, (s.tlb.filter fun t => t.die = dieOf s.ctx.core)[i]? = some e →
      ∃ t, exec (.walkComplete s.ctx.asid va k (some i)) s = .next t ∧
        (∀ stk, partOf (ptePA e.pte.toNat) = .hbm stk → (Sparse.get [] s.dev.xvq (dieOf s.ctx.core)).length < 1024 →
          { uo := e.once, g := e.gathered, asid := e.asid, vpn := e.vpn } ∈
            Sparse.get [] t.dev.xvq (dieOf s.ctx.core))) ∧
  (∀ (va : Word) (n : Nat) (s : State), s.hs.wait = .hold va n → exec .holdReread s = .next (s.setHs { s.hs with wait := .none })) ∧
  ∀ (va : Word) (n : Nat) (s : State), s.hs.wait = .hold va n → s.ctx.place = .active →
    (s.ctx.sr.pto = 0#64 → exec (.holdStallBound .hart) s = .next s) ∧
    (s.ctx.sr.pto ≠ 0#64 → CanTrap s →
      ∃ t, exec (.holdStallBound .hart) s = .next t ∧ Entered s t 0x0B va 3#64 s.pc s.pc)

/-- 01 R24, R25, R31, R33, R34, R42: XATB while a launch is resident; the XINV commands start when none runs; the command removes the
cached translations it names and no other, once what it waits for has performed, and every store is then visible to every party; a hart
parked on a page that it covers reads again; a store of a covered address space on its way to another package holds the command up; XVQ
gives its head. What a command waits for is the reading of log entry 24; that these
registers need a die with XLATE = 1 is log entry 71. -/
def Obligations.TranslationCommandsInvalidate : Prop :=
  (∀ (v : Word) (s : State), s.xlateUsable = true →
    (s.anyResident = true → exec (.xatbWrite v) s = .next { s with dev := { s.dev with xatbIgnored := true } }) ∧
    (s.anyResident = false → exec (.xatbWrite v) s =
      .next { s with dev := { s.dev with xatb := BitVec.ofNat 64 (bits v.toNat 15 37 * 2 ^ 15 + bits v.toNat 0 1) } })) ∧
  (∀ (asid : BitVec 12) (vpn : BitVec 45) (s : State), s.xlateUsable = true →
    let starts (i : Instr) (kind asid vpn : Nat) : Prop :=
      (s.dev.xinv.getLsbD 63 = true → exec i s = .next s) ∧
      (s.dev.xinv.getLsbD 63 = false → exec i s = .next { s with dev := { s.dev with
        xinv := BitVec.ofNat 64 (2 ^ 63 + kind * 2 ^ 59 + asid * 2 ^ 45 + vpn), xinvErr := s.dev.xatbIgnored, xatbIgnored := false } })
    starts (.xinvPage asid vpn) 0 asid.toNat vpn.toNat ∧ starts (.xinvAsid asid) 1 asid.toNat 0 ∧ starts .xinvAll 2 0 0 ∧
    starts .xmsetReload 3 0 0) ∧
  (∀ (s : State), s.dev.xinv.getLsbD 63 = true → s.xinvClear s.dev.xinv = true →
    let w := s.dev.xinv
    let kind := (w.extractLsb' 59 3).toNat
    ∃ t, exec .xinvComplete s = .next t ∧ (kind = 3 → SameMemory s t) ∧
      (kind ≠ 3 → s.dev.ckpt.saving = false → ∀ v a, t.byte v a = s.byteBy (fun _ => true) a) ∧
      (∀ va n, s.ctx.xh.wait = .hold va n → (kind = 0 ∧ s.ctx.asid = w.extractLsb' 45 12 ∧
          bits va.toNat 12 45 / n = (w.extractLsb' 0 45).toNat / n) ∨ (kind = 1 ∧ s.ctx.asid = w.extractLsb' 45 12) ∨ kind = 2 →
        t.ctx.xh.wait = .none) ∧ t.dev.xinv.getLsbD 63 = false ∧ t.dev.xinv.getLsbD 62 = s.dev.xinvErr ∧
      (∀ e, e ∈ t.tlb ↔ e ∈ s.tlb ∧
        ¬((kind = 0 ∧ e.asid = w.extractLsb' 45 12 ∧ e.vpn ≤ (w.extractLsb' 0 45).toNat ∧ (w.extractLsb' 0 45).toNat < e.vpn + e.pages) ∨
          (kind = 1 ∧ e.asid = w.extractLsb' 45 12) ∨ kind = 2)) ∧
      t.dev.xmsetLive = (if kind = 3 then s.dev.xmset else s.dev.xmsetLive)) ∧
  (∀ (s : State) (r : Remote), r ∈ s.remote → r.flying = true → r.asid = none →
    let kind := (s.dev.xinv.extractLsb' 59 3).toNat
    kind = 2 ∨ (kind < 2 ∧ r.space = s.dev.xinv.extractLsb' 45 12) → exec .xinvComplete s = .next s) ∧
  ∀ (die : Idx3) (s : State),
    (∀ v rest, Sparse.get [] s.dev.xvq die.toNat = v :: rest → s.xlateReady die.toNat = true →
      exec (.xvqRead die) s = .next { s with
        answer := BitVec.ofNat 64 (2 ^ 63 + (if v.uo then 2 ^ 62 else 0) + (if v.g then 2 ^ 61 else 0) + v.asid.toNat * 2 ^ 49 + v.vpn * 16),
        dev := { s.dev with xvq := Sparse.set [] s.dev.xvq die.toNat rest } }) ∧
    (Sparse.get [] s.dev.xvq die.toNat = [] → exec (.xvqRead die) s = .next { s with answer := 0#64 })

/-- 02 R72 to R76: a command starts once its image fits; a granule is copied byte for byte, with its sideband words and its poison, into
the image, and by a restore back; the command ends when every granule is copied. The order of the error codes is the reading of log
entry 40; what a restore takes from a poisoned image sector of sideband words is log entry 79. -/
def Obligations.CheckpointsCopyTheStacks : Prop :=
  (∀ (stks : BitVec 24) (s : State), s.dev.rdyhub.getLsbD 14 = true → s.dev.ckpt.stat.getLsbD 63 = false →
    let fails (kind code : Nat) : State := { s with dev := { s.dev with ckpt := { s.dev.ckpt with
      ctl := BitVec.ofNat 64 (kind * 2 ^ 60 + stks.toNat), stat := BitVec.ofNat 64 (2 ^ 62 + code * 2 ^ 58) } } }
    let runs (u : State) (kind : Nat) : State := { u with evseq := u.pkgEvent.evseq, dev := { u.dev with ckpt := { s.dev.ckpt with
      ctl := BitVec.ofNat 64 (2 ^ 63 + kind * 2 ^ 60 + stks.toNat), stat := BitVec.ofNat 64 (2 ^ 63),
      cur := BitVec.ofNat 64 (kind * 2 ^ 60 + stks.toNat), curDst := s.dev.ckpt.dst, copied := [], bad := false } } }
    (s.imageFits = false → exec (.checkpointSave stks) s = .next (fails 0 2) ∧ exec (.checkpointRestore stks) s = .next (fails 1 2)) ∧
    (s.imageFits = true →
      exec (.checkpointSave stks) s = .next (if portsTrained then runs s 0 else fails 0 3) ∧
      (s.anyResident = false → let r := s.raise (fun _ => true) .sys
        (∀ v a, r.byte v a = s.byteBy (fun _ => true) a) ∧
        exec (.checkpointRestore stks) s = .next (if portsTrained then runs r 1 else fails 1 3)) ∧
      (s.anyResident = true → exec (.checkpointRestore stks) s = .next (if portsTrained then fails 1 5 else fails 1 3)))) ∧
  (∀ (g : Nat) (s : State), Memory.wf s.mem = true → s.dev.ckpt.stat.getLsbD 63 = true → s.dev.ckpt.copied.contains g = false →
    let ctl := s.dev.ckpt.cur
    let stk := g / 0x100000
    let data := g % 0x100000 * 0x10000
    let image := imageBase s.dev.ckpt.curDst stk
    let tags (j : Nat) : Nat := image + 0x1000000000 + 8 * (data / 64 + j)
    let sys (a : Nat) : Byte := memGet s.sysMem a
    stk < 24 → ctl.getLsbD stk = true →
    (ctl.extractLsb' 60 3 = 0#3 → ∃ t, exec (.checkpointGranuleCopy g) s = .next t ∧ t.dev.ckpt.copied = g :: s.dev.ckpt.copied ∧
      (∀ v, ∀ i < 0x10000, t.byte v (image + data + i) = sys (g * 0x10000 + i)) ∧
      (∀ v, ∀ j < 1024, t.num v (tags j) 8 = (Sparse.get 0#64 s.sideband (g * 1024 + j)).toNat) ∧
      (∀ v a, ¬(image + data ≤ a ∧ a < image + data + 0x10000) → ¬(tags 0 ≤ a ∧ a < tags 1024) → t.byte v a = s.byte v a) ∧
      (∀ j < 1024, t.poison.contains ((image + data) / 64 + j) = s.poison.contains (g * 1024 + j)) ∧
      (∀ k < 128, t.poison.contains (tags 0 / 64 + k) = false) ∧ t.sideband = s.sideband) ∧
    (ctl.extractLsb' 60 3 = 1#3 → ∃ t, exec (.checkpointGranuleCopy g) s = .next t ∧ t.dev.ckpt.copied = g :: s.dev.ckpt.copied ∧
      (∀ v, ∀ i < 0x10000, t.byte v (g * 0x10000 + i) = sys (image + data + i)) ∧
      (∀ v a, a < g * 0x10000 ∨ g * 0x10000 + 0x10000 ≤ a → t.byte v a = s.byte v a) ∧
      (∀ j < 1024, Sparse.get 0#64 t.sideband (g * 1024 + j) =
        BitVec.ofNat 64 (ofBytes ((List.range 8).map fun i => sys (tags j + i))) ∧
        t.poison.contains (g * 1024 + j) = s.poison.contains ((image + data) / 64 + j)) ∧
      ∀ k, k < g * 1024 ∨ g * 1024 + 1024 ≤ k → Sparse.get 0#64 t.sideband k = Sparse.get 0#64 s.sideband k)) ∧
  ∀ (elapsed : BitVec 32) (s : State), s.dev.ckpt.stat.getLsbD 63 = true →
    let stks := (List.range 24).filter fun k => s.dev.ckpt.cur.getLsbD k
    stks.length * 0x100000 ≤ s.dev.ckpt.copied.length →
    ∃ t, exec (.checkpointComplete elapsed) s = .next t ∧ SameMemory s t ∧ t.dev.ckpt.copied = [] ∧ t.dev.ckpt.ctl.getLsbD 63 = false ∧
      t.dev.ckpt.stat.getLsbD 63 = false ∧ t.dev.ckpt.stat.getLsbD 62 = s.dev.ckpt.bad ∧
      t.dev.ckpt.stat.extractLsb' 32 5 = BitVec.ofNat 5 stks.length ∧ t.dev.ckpt.stat.extractLsb' 0 32 = elapsed ∧
      (s.dev.ckpt.cur.extractLsb' 60 3 ≠ 1#3 → t.dev.mcbase = s.dev.mcbase ∧ t.dev.mcc = s.dev.mcc)

/-- 03 R83, R84, R89 to R92, 02 R49: MCBASE raises or sets the counter of every writer slot; MCRENEW zeroes the replicas; the scrubber
lowers no tag; a correction is written only over the bits it read, and over no store; a stack that fails is lost. That a renewal and a scrub happen at one
step is the reading of log entry 41. -/
def Obligations.MajorityRegistersAndScrubber : Prop :=
  (∀ (val : Bool) (count : BitVec 24) (s : State),
    let w := BitVec.ofNat 64 ((if val then 2 ^ 63 else 0) + count.toNat)
    (∃ t, exec (.mcbaseFloor val count) s = .next t ∧ t.dev.mcbase = w ∧
      (∀ k < 2048, t.mccOf k = max (s.mccOf k) count.toNat) ∧
      t = { s with dev := { s.dev with mcbase := t.dev.mcbase, mcc := t.dev.mcc } }) ∧
    (s.anyResident = true → exec (.mcbaseSetall val count) s = .next s) ∧
    (s.anyResident = false → ∃ t, exec (.mcbaseSetall val count) s = .next t ∧ t.dev.mcbase = w ∧
      (∀ k < 2048, t.mccOf k = count.toNat) ∧ t = { s with dev := { s.dev with mcbase := t.dev.mcbase, mcc := t.dev.mcc } })) ∧
  (∀ (mset : BitVec 4) (ppn : BitVec 40) (s : State),
    let page := mset.toNat * 2 ^ 58 + ppn.toNat * 2 ^ 12
    (msetValid (s.mset mset.toNat) = false ∨ s.anyResident = true →
      exec (.mcrenew mset ppn) s = .next { s with dev := { s.dev with mcrenew := BitVec.ofNat 64 (2 ^ 62 + page) } }) ∧
    (msetValid (s.mset mset.toNat) = true → s.anyResident = false → ∃ t, exec (.mcrenew mset ppn) s = .next t ∧
      t.dev.mcrenew = BitVec.ofNat 64 page ∧
      ∀ r ∈ s.liveReplicas mset, let a := replicaAddr r.2 (ppn.toNat * 4096)
        (∀ v, ∀ i < 4096, t.byte v (a + i) = 0#8) ∧
        ∀ j < 64, Sparse.get 0#64 t.sideband (a / 64 + j) = 0#64 ∧ t.poison.contains (a / 64 + j) = false) ∧
    (msetValid (s.mset mset.toNat) = false →
      exec (.mcscrub mset ppn) s = .next { s with dev := { s.dev with mcscrub := BitVec.ofNat 64 (2 ^ 62 + page) } }) ∧
    (msetValid (s.mset mset.toNat) = true → s.dev.ckpt.saving = false → ∃ t, exec (.mcscrub mset ppn) s = .next t ∧ t.dev.mcscrub = BitVec.ofNat 64 page ∧
      ∀ k, s.poison.contains k = false →
        (Sparse.get 0#64 s.sideband k).toNat ≤ (Sparse.get 0#64 t.sideband k).toNat ∧ t.poison.contains k = false)) ∧
  (∀ (sector : Nat) (seen : BitVec 512) (tag : Word) (s : State), sector ∈ s.correctable →
    (s.num .sys (64 * sector) 64 = seen.toNat → Sparse.get 0#64 s.sideband sector = tag → s.stores = [] → s.dev.ckpt.saving = false →
      ∃ t, exec (.scrubCorrection sector seen tag) s = .next t ∧ SameMemory s t ∧ t.correctable = s.correctable.filter (· ≠ sector)) ∧
    (s.num .sys (64 * sector) 64 ≠ seen.toNat ∨
        (∃ w ∈ s.stores, w.addr < 64 * sector + 64 ∧ 64 * sector < w.addr + w.bytes.length) →
      exec (.scrubCorrection sector seen tag) s = .next { s with correctable := s.correctable.filter (· ≠ sector) })) ∧
  ∀ (k : BitVec 5) (s : State), k.toNat < 24 →
    exec (.stackFailure k) s = .next { s with dev := { s.dev with mclost := s.dev.mclost ||| BitVec.ofNat 64 (2 ^ k.toNat) } }

/-! ## Scheduling -/

/-- 10 R208 to R211, R225, 02 R76, 01 R31: LSUB submits the record it names: refused with its code where the die or the record is not
fit, else checked and queued; while a restore runs or the method table's page has HOLD the submission stands with GO = 1 and nothing is
taken; a write meanwhile is ignored, and once that is over the submission that stands is answered as any. A launch is dealt to the tail of
each die's queue of its priority. The host's register access does
nothing until its port is ready, and a new one of Brioche nothing after a boot that failed. What LSUB answers on a die that is not ready is the reading of log entry 39; that the submission stands
during a restore, rather than is refused, is the model's choice (log entry 40). -/
def Obligations.SubmissionsAreCheckedAndQueued : Prop :=
  (∀ (die : Idx3) (addr : BitVec 44) (host : Bool) (s : State),
    let d := die.toNat
    let q := (s.pendingLsub d).getD (addr, host)
    let a := q.1.toNat * 256
    let u := s.pkgEvent
    let r : LRec := BitVec.ofNat 2048 (s.num .sys a 256)
    let answers (t : State) (ecode : Nat) : Prop := exec (.lsubSubmit die addr host) s = .next { t with dev := { t.dev with
      lsub := Sparse.set 0#64 t.dev.lsub d (BitVec.ofNat 64 ((if ecode = 0 then 0 else 2 ^ 62 + ecode * 2 ^ 58) + q.1.toNat * 2 ^ 8)) } }
    let stands : Prop := ∃ t, exec (.lsubSubmit die addr host) s = .next t ∧ t.pendingLsub d = some q ∧
      t = { s with dev := { s.dev with lsub := t.dev.lsub, lsubHost := t.dev.lsubHost } } ∧
      ∀ k, k ≠ d → Sparse.get 0#64 t.dev.lsub k = Sparse.get 0#64 s.dev.lsub k
    ((Sparse.get 0#64 s.dev.rdydie d).getLsbD 5 = false → exec (.lsubSubmit die addr host) s = .next s) ∧
    let usable : Prop := (Sparse.get 0#64 s.dev.rdydie d).getLsbD 5 = true
    let heard : Prop := s.pendingLsub d = none → if host then s.dev.rdyhub.getLsbD 1 = true else s.dev.bootstat.getLsbD 62 = false
    (usable → ¬heard → exec (.lsubSubmit die addr host) s = .next s) ∧
    (usable → heard → s.dev.ckpt.restoring = true → stands) ∧
    (usable → heard → s.dev.ckpt.restoring = false →
      (s.dieReady d = false → answers u 4) ∧
      (s.dieReady d = true → s.backed a = false → answers u 3) ∧
      (s.dieReady d = true → s.backed a = true → cwOk r = false → answers u 2) ∧
      (s.dieReady d = true → s.backed a = true → cwOk r = true →
        (∀ id t, u.takeLaunch r d q.2 none = .ok id t → answers t 0) ∧ (∀ t, u.takeLaunch r d q.2 none = .full t → answers t 1) ∧
        ∀ va n, u.takeLaunch r d q.2 none = .wait va n → stands))) ∧
  (∀ (s t : State) (r : LRec) (home : Nat) (host : Bool) (n : Nat), s.checkLaunch home none r = .fail n t →
    ∃ l u, s.takeLaunch r home host none = .ok l.id u ∧ l.aborted = some n ∧ l.rcd = r ∧ u.launches = t.launches ++ [l] ∧
      u.queues = t.queues) ∧
  ∀ (s t : State) (r : LRec) (home : Nat) (host : Bool) (ms : List Method), s.checkLaunch home none r = .pass ms t →
    let l := { t.newLaunch r home host none with methods := ms }
    (t.roomFor l = false → s.takeLaunch r home host none = .full t) ∧
    (t.roomFor l = true → ∃ u, s.takeLaunch r home host none = .ok l.id u ∧ u.launches = t.launches ++ [l] ∧ l.ep = lPrio r ∧
      ∀ d p, d < 8 → p < 8 → u.dieQueue d p = if p = l.ep ∧ d ∈ l.dealt then t.dieQueue d p ++ [l.id] else t.dieQueue d p)

/-- 10 R211 to R214, R226, 08 R171, R189: an item whose turn it is starts on a free core with the state of 08 R171; one of priority 7 that
finds none takes a candidate, whose context spills once its harts have ended their instructions; a tick, of which there is none before
the event arbiter is ready, raises a launch that has waited. The bank and the order of placement follow log entry 36, the moment of a swap
log entry 30, and the tick's readiness log entry 70. -/
def Obligations.ItemsArePlacedInTurn : Prop :=
  (∀ (launch item core : Nat) (s : State) (l : Launch), s.launch launch = some l → gangLevel (lSched l.rcd) = none →
    s.placeable l item core = true → s.hasTurn l (dieOf core) = true →
    (s.admits .free l item core = true → ∃ t, exec (.itemPlacement launch item core) s = .next t ∧ t.ctx = l.context item core 0 ∧
      (∃ x ∈ t.launches, x.id = l.id ∧ x.placed = (item, core) :: l.placed) ∧ t.evseq = s.pkgEvent.evseq ∧ SameMemory s t) ∧
    (∀ c, l.ep = 7 → s.midMajority core = false → s.somewhere .free l item (dieOf core) = false → s.admits .swap l item core = true → s.activeOn core = some c →
      (s.candidateEp core).isSome = true → s.bestCandidate l item core = true →
      ∃ t, exec (.shadowBankSwap core launch item) s = .next t ∧ t.ctx = l.context item core (1 - c.bank) ∧
        (∃ d ∈ t.others, d.isAt core c.bank = true ∧ d.place = .spilling) ∧ SameMemory s t)) ∧
  (∀ (l : Launch) (item core bank : Nat),
    let c := l.context item core bank
    c.core = core ∧ c.bank = bank ∧ c.place = .active ∧ c.launch = l.id ∧ c.item = item ∧ c.ah.pc = lAentry l.rcd ∧
    c.xh.pc = lXentry l.rcd ∧ c.ah.run = .running ∧ c.xh.run = .running ∧ c.ah.t.hstat = 0#64 ∧ c.xh.t.hstat = 0#64 ∧ c.ax = [] ∧
    c.v = Vec.start ∧ c.q = [] ∧ c.spad.bytes = [] ∧ c.m.methods = l.methods ∧ c.sr.hwin = 0#64 ∧ c.sr.pto = 18000000#64 ∧
    c.sr.fctl = 0#64 ∧ c.strip = none ∧ ∀ i < 8, Sparse.get 0#128 c.win i = lWindow l.rcd i) ∧
  (∀ (s : State), s.dev.rdyhub.getLsbD 15 = false → exec .tick s = .next s) ∧
  ∀ (s : State), s.dev.rdyhub.getLsbD 15 = true →
    ∃ t, exec .tick s = .next t ∧ t = { s with launches := t.launches, queues := t.queues, evseq := s.evseq + 1 } ∧
    (∀ x ∈ t.launches, x.placedSinceTick = false) ∧
    ∀ l d, s.launches = [l] → l.resident = true → l.ep < 6 → l.placedSinceTick = false → l.placed.length < l.total → d < 8 →
      l.id ∈ s.dieQueue d l.ep → (∀ k < 8, (s.dieQueue k (l.ep + 1)).length < 128) →
      t.launches = [{ l with ep := l.ep + 1, placedSinceTick := false }]

/-- 10 R214 to R219, R227, 04 R121: a context swapped out is spilled to its save area, whose poison goes, and filled again; a launch with
nothing left writes its completion word and leaves, once none of its stores is on its way to another package and no killed child of a killed
launch has a context; a scan of a free core starts, and ends with its result. The words of a save area are free (log entry 21);
completion and scan follow log entries 37 and 38. -/
def Obligations.SwapsCompletionsAndScans : Prop :=
  (∀ (core : Nat) (s : State) (c : Context), s.contexts.find? (fun c => decide (c.core = core) && decide (c.place = .spilling)) = some c →
    c.m.pend = [] →
    let base := (bits (Sparse.get 0#64 s.dev.csa core).toNat 23 29) * 2 ^ 23
    let r := s.raise (fun w => w.knownIn core c.bank) .pkg
    ∃ t, exec (.spillComplete core) s = .next t ∧ t.free = s.free + 1 ∧
      (∃ d ∈ t.contexts, d = { c with place := .spilled, save := some (base, s.free) }) ∧
      (s.dev.ckpt.saving = false → t.poisoned base 0x800000 = false ∧ ∀ v a, a < base ∨ base + 0x800000 ≤ a → t.byte v a = r.byte v a)) ∧
  (∀ (core : Nat) (s : State) (c : Context),
    s.contexts.find? (fun c => decide (c.core = core) && decide (c.place = .spilled) && c.held) = some c →
    (∀ d ∈ s.contexts, d.core = core → d.bank ≠ c.bank → d.held = false) →
    (∀ base mark, c.save = some (base, mark) → s.bytes .sys base 0x800000 = areaBytes mark ∧ s.poisoned base 0x800000 = false) →
    ∃ t, exec (.swapBack core) s = .next t ∧ { c with place := .active, save := none } ∈ t.contexts ∧ SameMemory s t ∧
      t = { s with ctx := t.ctx, others := t.others, evseq := s.pkgEvent.evseq }) ∧
  (∀ (id : Nat) (s t : State) (l : Launch) (pa : Nat), s.launch id = some l → s.launchDone l = true →
    let r := s.releaseLaunch l.id
    r.xl { core := Config.coresPerDie * l.home, asid := lAsid l.rcd, k := .write } (lCw l.rcd) = (.ok pa, t) →
    let verdict : Nat × Nat := if l.killed then (2, 0) else match l.aborted, l.faulted with
      | some n, _ => (3, n)
      | none, some n => (1, n)
      | none, none => (0, 0)
    ∃ u, exec (.completionWordWrite id) s = .next u ∧
      (∀ v, u.bytes v pa 8 = toBytes 8 (BitVec.ofNat 64 (verdict.1 * 2 ^ 56 + verdict.2 * 2 ^ 48 + l.flags.toNat)).toNat) ∧
      u.msix = (if l.viaHost then s.msix ++ [0] else s.msix) ∧ ∀ x ∈ u.launches, x.id = l.id → x.written = true ∧ x.status = verdict.1) ∧
  (∀ (id : Nat) (s : State), (∃ r ∈ s.remote, r.flying = true ∧ freshKey id ∈ r.who) → exec (.completionWordWrite id) s = .next s) ∧
  (∀ (id : Nat) (s : State) (l k : Launch), s.launch id = some l → l.killed = true → k ∈ s.launches → k.parent = some id →
    k.resident = true → k.killed = true → s.noContext k.id = false → exec (.completionWordWrite id) s = .next s) ∧
  (∀ (core : BitVec 9) (s : State),
    (s.scanning = none → s.mapped core.toNat = true → s.coreHeld core.toNat = false →
      exec (.scanctl core) s = .next { s with dev := { s.dev with scanctl := BitVec.ofNat 64 (2 ^ 63 + 3 * 2 ^ 60 + core.toNat) } }) ∧
    (s.scanning.isSome = true ∨ s.mapped core.toNat = false ∨ s.coreHeld core.toNat = true → ∃ t, exec (.scanctl core) s = .next t ∧
      t.dev.scanctl.getLsbD 62 = true ∧ t.scanning = s.scanning ∧ t = { s with dev := { s.dev with scanctl := t.dev.scanctl } })) ∧
  ∀ (pass : Bool) (c : Nat) (s : State), s.scanning = some c →
    exec (.scanComplete pass) s = .next { s with
      evseq := s.pkgEvent.evseq, dev := { s.dev with scanctl := BitVec.ofNat 64 ((if pass then 0 else 2 ^ 60) + c) } }

/-! ## Boot, links, the host -/

/-- 10 R225, R230, R233, R228, 01 R24, 11 R256: readiness bits and boot stages, device reset, and a write of a device register by Brioche,
which does nothing where the function is not usable or a failed boot has halted Brioche, and refuses where no rule lists it. PKGID, LNKEN,
LNKTBL, CMAP, CSA, PWRBUD, PWRTO, XMSET, CKDST and MCLOST read back what their fields hold. An image that fails after stage 2 leaves its
function not ready for good. Outcomes of boot are arguments (log entry 13); that after a boot that failed the host port alone becomes ready
is the reading of log entry 88; memory over a reset is the choice of log entry 42; the refused registers are log entry 39. -/
def Obligations.BootResetAndDeviceRegisters : Prop :=
  (∀ (die : Option Idx3) (bit : BitVec 4) (s : State), s.dev.unloaded.contains (die.map (·.toNat), bit.toNat) = true →
    exec (.readinessSet die bit) s = .next s) ∧
  (∀ (die : Option Idx3) (bit : BitVec 4) (s : State), s.dev.bootstat.getLsbD 62 = true → ¬(die = none ∧ bit = 1#4) →
    exec (.readinessSet die bit) s = .next s) ∧
  (∀ (d : Idx3) (bit : BitVec 4) (s : State), bit.toNat ≤ 8 → s.dev.bootstat.getLsbD 62 = false → s.dev.unloaded.contains (some d.toNat, bit.toNat) = false →
    ∃ t, exec (.readinessSet (some d) bit) s = .next t ∧ t = { s with dev := { s.dev with rdydie := t.dev.rdydie } } ∧
      ∀ k, Sparse.get 0#64 t.dev.rdydie k = if k = d.toNat then Sparse.get 0#64 s.dev.rdydie k ||| BitVec.ofNat 64 (2 ^ bit.toNat)
        else Sparse.get 0#64 s.dev.rdydie k) ∧
  (∀ (bit : BitVec 4) (s : State), s.dev.unloaded.contains (none, bit.toNat) = false → s.dev.bootstat.getLsbD 62 = false ∨ bit = 1#4 →
    ∃ t, exec (.readinessSet none bit) s = .next t ∧
    t.dev.rdyhub = s.dev.rdyhub ||| BitVec.ofNat 64 (2 ^ bit.toNat) ∧
    t = { s with dev := { s.dev with rdyhub := t.dev.rdyhub, cxlGib := t.dev.cxlGib } }) ∧
  (∀ (stage : BitVec 8) (image : BootImage) (s : State), s.dev.bootstat.getLsbD 62 = true → exec (.bootStage stage image) s = .next s) ∧
  (∀ (stage : BitVec 8) (image : BootImage) (s : State), s.dev.bootstat.getLsbD 62 = false →
    let now := (s.dev.bootstat.extractLsb' 0 8).toNat
    let fcode := image.fcode.toNat
    (1 ≤ fcode → fcode ≤ 3 → 2 ≤ now → ∃ t, exec (.bootStage stage image) s = .next t ∧
      t = { s with dev := { s.dev with unloaded := t.dev.unloaded } } ∧
      ∀ f, f ∈ t.dev.unloaded ↔ f = (image.die.map (·.toNat), image.bit.toNat) ∨ f ∈ s.dev.unloaded) ∧
    (1 ≤ fcode → fcode ≤ 3 → now < 2 → exec (.bootStage stage image) s =
      .next { s with dev := { s.dev with bootstat := BitVec.ofNat 64 (2 ^ 62 + fcode * 2 ^ 8 + now) } }) ∧
    (fcode = 0 → now < 7 → stage.toNat = now + 1 → ∃ t, exec (.bootStage stage image) s = .next t ∧
      t.dev.bootstat = BitVec.ofNat 64 ((if stage.toNat = 7 then 2 ^ 63 else 0) + stage.toNat) ∧
      t = { s with dev := { s.dev with bootstat := t.dev.bootstat, ports := t.dev.ports } } ∧
      (stage.toNat ≠ 5 → t.dev.ports = s.dev.ports))) ∧
  (∀ (s : State), ∃ t, exec .deviceReset s = .next t ∧ (∀ v a, t.byte v a = s.byte .sys a) ∧ t.dev = Dev.reset ∧
    t.ctx = Context.empty 0 0 ∧ t.others = [] ∧ t.launches = [] ∧ t.tlb = [] ∧ t.stores = []) ∧
  (∀ (addr : BitVec 52) (v : Word) (s : State), s.dev.bootstat.getLsbD 62 = true → exec (.deviceRegisterWrite addr v) s = .next s) ∧
  ∀ (addr : BitVec 52) (v : Word) (s : State) (off : Nat), s.dev.bootstat.getLsbD 62 = false → partOf addr.toNat = .device off →
    (∀ r, devReg off = some r → s.regUsable r = false → exec (.deviceRegisterWrite addr v) s = .next s ∧
      exec (.briocheAccess addr (.read 8)) s = .next { s with answer := 0#64 }) ∧
    (∀ r, devReg off = some r → exec (.deviceRegisterWrite addr v) s = .next (s.writeDev true r v)) ∧
    (devReg off = none → exec (.deviceRegisterWrite addr v) s = .refused (.unlistedDeviceRegister (0x5000000000000 + off))) ∧
    let back (d : Dev) (w : Word) : Prop := exec (.deviceRegisterWrite addr v) s = .next { s with dev := d } ∧
      exec (.briocheAccess addr (.read 8)) { s with dev := d } = .next { s with dev := d, answer := w }
    let only (z : Word) (old new : Sparse Word) (i : Nat) : Prop := ∀ k, k ≠ i → Sparse.get z new k = Sparse.get z old k
    (off = 0xC0000 → back { s.dev with pkgid := v &&& 0x3F#64 } (v &&& 0x3F#64)) ∧
    (off = 0xC0008 → back { s.dev with lnken := v } v) ∧
    (∀ q < 64, off = 0xC0100 + 16 * q → ∃ m, back { s.dev with lnktbl := m } v ∧
      (Sparse.get 0#96 m q).extractLsb' 64 32 = (Sparse.get 0#96 s.dev.lnktbl q).extractLsb' 64 32 ∧
      ∀ k, k ≠ q → Sparse.get 0#96 m k = Sparse.get 0#96 s.dev.lnktbl k) ∧
    (∀ q < 64, off = 0xC0108 + 16 * q → ∃ m, back { s.dev with lnktbl := m } (v &&& 0xFFFFFFFF#64) ∧
      (Sparse.get 0#96 m q).extractLsb' 0 64 = (Sparse.get 0#96 s.dev.lnktbl q).extractLsb' 0 64 ∧
      ∀ k, k ≠ q → Sparse.get 0#96 m k = Sparse.get 0#96 s.dev.lnktbl k) ∧
    (∀ d < 8, off = 0x70000 + 8 * d → ∃ m, back { s.dev with cmap := m } v ∧ only 0#64 s.dev.cmap m d) ∧
    (∀ c < 512, off = 0x71000 + 8 * c → ∃ m, back { s.dev with csa := m } (v &&& 0x800FFFFFFF800000#64) ∧ only 0#64 s.dev.csa m c) ∧
    (∀ d < 8, off = 0x60000 + 0x100 * d → (Sparse.get 0#64 s.dev.rdydie d).getLsbD 1 = true →
      ∃ m, back { s.dev with pwrbud := m } (v &&& 0xFFFF#64) ∧ only 1688#64 s.dev.pwrbud m d) ∧
    (∀ d < 8, off = 0x60008 + 0x100 * d → (Sparse.get 0#64 s.dev.rdydie d).getLsbD 1 = true →
      ∃ m, back { s.dev with pwrto := m } (v &&& 0xFFFFFFFF#64) ∧ only 1800000#64 s.dev.pwrto m d) ∧
    (∀ i < 16, off = 0x10100 + 8 * i → s.xlateUsable = true →
      ∃ m, back { s.dev with xmset := m } (v &&& 0xF000000001FFFFFF#64) ∧ only 0#64 s.dev.xmset m i) ∧
    (off = 0x30008 → s.dev.rdyhub.getLsbD 14 = true →
      back { s.dev with ckpt := { s.dev.ckpt with dst := v &&& 0x3FFC0000000#64 } } (v &&& 0x3FFC0000000#64)) ∧
    (off = 0x40000 → back { s.dev with mclost := s.dev.mclost ||| (v &&& 0xFFFFFF#64) } (s.dev.mclost ||| (v &&& 0xFFFFFF#64)))

/-- 10 R232, 11 R256, R257: arming an injector; a flit that arrives, and with it the oldest request in flight over its port, or fails; a
port that has failed seventeen times goes down, and its requests go over another port of their package, or are lost. -/
def Sys2Proof.Claims.PortsCarryFlits : Prop :=
  (∀ (port : BitVec 7) (ctl : Word) (n : BitVec 32) (s : State), s.dev.bootstat.getLsbD 62 = true →
    exec (.linjctlArm port ctl n) s = .next s) ∧
  (∀ (port : BitVec 7) (ctl : Word) (n : BitVec 32) (s : State), port.toNat < 96 → s.dev.bootstat.getLsbD 62 = false →
    let p := port.toNat
    let mode := (ctl.extractLsb' 61 2).toNat
    (mode ≠ 3 → n ≠ 0#32 → (mode = 2 → ctl.extractLsb' 30 8 ≠ 0#8) → ∃ t, exec (.linjctlArm port ctl n) s = .next t ∧
      (Sparse.get 0#64 t.dev.linjctl p).extractLsb' 59 5 = ctl.extractLsb' 59 5 ∧ (Sparse.get 0#64 t.dev.linjctl p).getLsbD 58 = false ∧
      (Sparse.get 0#64 t.dev.linjcnt p).extractLsb' 0 32 = n ∧ (t.port p).since = 0 ∧ (t.port p).live = (s.port p).live ∧
      ∀ q, q ≠ p → Sparse.get 0#64 t.dev.linjctl q = Sparse.get 0#64 s.dev.linjctl q) ∧
    (mode = 3 ∨ n = 0#32 → ∃ t, exec (.linjctlArm port ctl n) s = .next t ∧ (Sparse.get 0#64 t.dev.linjctl p).getLsbD 63 = false ∧
      (Sparse.get 0#64 t.dev.linjctl p).getLsbD 58 = true ∧ t = { s with dev := { s.dev with linjctl := t.dev.linjctl } })) ∧
  (∀ (port : BitVec 7) (ok : Bool) (s : State), port.toNat < 96 → (s.port port.toNat).live = true →
    let x := s.port port.toNat
    (17 ≤ x.fails → exec (.flitReceive port ok) s = .next s) ∧
    (x.fails < 17 → (Sparse.get 0#64 s.dev.linjctl port.toNat).getLsbD 63 = false →
      ∃ t, exec (.flitReceive port ok) s = .next t ∧
        t = { s with dev := { s.dev with ports := t.dev.ports }, remote := t.remote } ∧
        t.port port.toNat =
          { live := true, since := x.since + 1, seq := if ok then x.seq + 1 else x.seq, fails := if ok then 0 else x.fails + 1 } ∧
        (∀ q, q ≠ port.toNat → t.port q = s.port q) ∧ (ok = false → t.remote = s.remote) ∧
        ∀ l r m, ok = true → s.remote = l ++ r :: m → (∀ y ∈ l, y.way ≠ .over port.toNat) → r.way = .over port.toNat →
          t.remote = l ++ { r with way := .arrived } :: m)) ∧
  ∀ (port : BitVec 7) (s : State), (s.port port.toNat).live = true → 17 ≤ (s.port port.toNat).fails →
    let p := port.toNat
    ∃ t, exec (.portDown port) s = .next t ∧ (t.port p).live = false ∧ (∀ q, q ≠ p → t.port q = s.port q) ∧ SameMemory s t ∧
      (t.remote = s.remote.flatMap fun r =>
        if r.way = .over p then
          match t.portTo (dieOf r.by_.core) r.pkg with
          | some q => [{ r with way := .over q }]
          | none => if r.by_.cmd = none ∧ r.by_.bank < 2 then [{ r with way := .lost p }] else []
        else [r]) ∧
      ((∀ r ∈ s.remote, r.way = .over p → r.by_.cmd = none ∨ t.portTo (dieOf r.by_.core) r.pkg ≠ none) →
        t.notices = s.notices ++ [.portDown p] ∧ t.msix = s.msix ++ [1])

/-- 10 R233, R234, 01 R19, 11 R255, R257: a scalar store, an integer `amo` and a `cas` on the usable part of a remote-package window are
carried over a live port, behind a request of the hart in flight to the same bytes, and change nothing here; with no live port they take
MACHINE_CHECK with SRC 8 and the port concerned; an atomic whose answer is poisoned, MACHINE_CHECK with SRC 1 and the stack of that
package. An atomic waits for the hart's requests in flight to its bytes, and a release at sys scope for all that it orders. A load there
takes LOAD_XLATE with REASON 6. `t` is the state after the translation,
`r` after the release that the modifier asks. -/
def Sys2Proof.Claims.RemoteWindowsCarryStoresAndAtomics : Prop :=
  (∀ (s t : State) (pa q off : Nat), s.ctx.lane = none → partOf pa = .remote q off → t.remoteUsable pa = true →
    let me : Requester := { core := s.ctx.core, bank := s.ctx.bank, hart := s.hart, cmd := none }
    let asks (bs : List Byte) (atomic : Bool) (way : Way) : Remote :=
      { pkg := q, asid := none, addr := off, bytes := bs, atomic := atomic, bad := false, way := way, by_ := me }
    let goes (i : Instr) (r : State) (rq : Remote) (u : State) : Prop :=
      exec i s = .next u ∧ SameMemory r u ∧ u.pc = s.pc + 8#64 ∧ u.remote = r.remote ++ [rq]
    let waits (i : Instr) : Prop := exec i s = .next (t.irrevocable.setWait .other)
    let checks (i : Instr) (t : State) (a info : Word) : Prop := CanTrap s →
      let r := ({ t with notices := t.notices ++ [Notice.machineCheck s.ctx.core a info], msix := t.msix ++ [1] } : State).pkgEvent
      ∃ u, exec i s = .next u ∧ Entered r u 0x10 a info s.pc s.pc
    let dead := BitVec.ofNat 64 (256 * s.portConcerned q + 8)
    (∀ o : MemArgs, s.ready [o.m.a, o.d] [] = true → Ordered s false o.ar → Performs s o.ar → o.m.sp = false → 8 ≤ o.t.width →
      let a := s.addr o.m
      let n := o.t.width / 8
      a.toNat % n = 0 → s.xlAll (s.req .write .direct true) a n = (.ok [(pa, n)], t) →
      (∀ p, s.portTo (dieOf s.ctx.core) q = some p → Arrived t o.ar →
        let rq := asks (toBytes n (s.x o.d).toNat) false .arrived
        let way := (((t.releaseFor o.ar).2.remote.find? fun x => x.flying && x.overlaps rq).map (·.way)).getD (.over p)
        ∃ u, goes (.st o) (t.releaseFor o.ar).2 { rq with way := way, who := [s.party], space := s.ctx.asid } u ∧ ∀ k, u.x k = s.x k) ∧
      (s.portTo (dieOf s.ctx.core) q ≠ none → ¬Arrived t o.ar → waits (.st o)) ∧
      (s.portTo (dieOf s.ctx.core) q = none → checks (.st o) t a dead)) ∧
    ∀ o : AmoArgs, Ordered s false o.ar → o.m.sp = false → 8 ≤ o.t.width →
      let a := s.addr o.m
      let n := o.t.width / 8
      let drawn : State := { t with free := t.free + 1 }
      let r := (drawn.irrevocable.releaseFor o.ar).2
      let old := (Config.remoteOld t.free).toNat % 2 ^ (8 * n)
      let sent (i : Instr) (bs : List Byte) : Prop :=
        let alone : Prop := Arrived t o.ar ∧ t.irrevocable.inFlight me [(pa, n)] = false
        (s.portTo (dieOf s.ctx.core) q ≠ none → ¬alone → waits i) ∧
        (s.portTo (dieOf s.ctx.core) q ≠ none → alone → Config.remoteBad t.free 0 = false →
          ∃ u, goes i r (asks bs true .arrived) u ∧ ∀ k, u.x k = if k = o.d then ext o.t old else s.x k) ∧
        (s.portTo (dieOf s.ctx.core) q ≠ none → alone → Config.remoteBad t.free 0 = true →
          s.hart = .acc ∨ (∀ p, s.ctx.strip = some p → p.revocable = false) → checks i drawn a (BitVec.ofNat 64 (256 * (off / 2 ^ 36) + 1))) ∧
        (s.portTo (dieOf s.ctx.core) q = none → checks i t a dead)
      a.toNat % n = 0 → s.xlAll (s.req .rmw .gather true) a n = (.ok [(pa, n)], t) →
      (∀ op, o.t.isInt = true → s.ready [o.m.a, o.b] [o.d] = true →
        sent (.amo op o) (toBytes n (amoValue op o.t .rne old (low o.t (s.x o.b))).1)) ∧
      (s.ready [o.m.a, o.b, o.d] [o.d] = true →
        sent (.cas o) (if old = low o.t (s.x o.d) then toBytes n (low o.t (s.x o.b)) else []))) ∧
  ∀ (o : MemArgs) (s : State) (e at_ level q off : Nat), s.ready [o.m.a] [o.d] = true → s.drained = true → o.m.sp = false →
    let a := s.addr o.m
    a.toNat % (o.t.width / 8) = 0 → 8 ≤ o.t.width → canonical a = true → s.dev.xatb.getLsbD 0 = true →
    s.cached s.ctx.core s.ctx.asid a.toNat = none → s.walk s.ctx.asid a.toNat = .leaf e at_ level → pteMAJ e = false →
    partOf (leafPA e level a.toNat) = .remote q off →
    Traps (.ld o) s 0x04 a (BitVec.ofNat 64 (s.ctx.asid.toNat * 4096 + level * 16 + 6))

/-- 11 R257: the requester of a lost request takes MACHINE_CHECK with SRC 8 and the port at its next boundary. -/
def Sys2Proof.Claims.LostRequestsTrap : Prop :=
  ∀ (s : State) (m : Move) (l : List Move) (i port : Nat), s.agenda = m :: l → m.act = .instr →
    let t := ({ s with agenda := l } : State).focus m.core m.bank m.hart
    t.lostRequest = some (i, port) → CanTrap t →
    let info := BitVec.ofNat 64 (256 * port + 8)
    let r := (({ t with remote := t.remote.eraseIdx i } : State).interrupt t.hart)
    let c := ({ r with notices := r.notices ++ [Notice.machineCheck t.ctx.core 0#64 info], msix := r.msix ++ [1] } : State).pkgEvent
    ∃ u, step s = .next u ∧ Entered c u 0x10 0#64 info t.pc t.pc ∧ SameMemory s u

/-- 04 R123, 10 R234: a request of another package on this package's HBM performs at sys scope. -/
def Sys2Proof.Claims.OtherPackagesStoreAndUpdate : Prop :=
  ∀ (addr : BitVec 41) (v : Word) (s : State) (stk : Nat), partOf addr.toNat = .hbm stk → s.stores = [] → s.dev.ckpt.saving = false →
    let a := addr.toNat
    let puts (t : State) (n : Nat) (w : Nat) : Prop :=
      ∀ view b, t.byte view b = if a ≤ b ∧ b < a + n then (toBytes n w).getD (b - a) 0#8 else s.byte view b
    (∀ n ≤ 8, ∃ t, exec (.remoteRequest .store addr n v) s = .next t ∧ puts t n v.toNat) ∧
    (∀ op ty rm, s.poisoned a (ty.width / 8) = false → 8 ≤ ty.width →
      ∃ t, exec (.remoteRequest (.amo op ty rm) addr (ty.width / 8) v) s = .next t ∧
        puts t (ty.width / 8) (amoValue op ty (resolveRm rm 0#64) (s.num .sys a (ty.width / 8)) (low ty v)).1) ∧
    ∀ want : Word, s.poisoned a 8 = false →
      (s.num .sys a 8 = want.toNat → ∃ t, exec (.remoteRequest (.cas want) addr 8 v) s = .next t ∧ puts t 8 v.toNat) ∧
      (s.num .sys a 8 ≠ want.toNat → exec (.remoteRequest (.cas want) addr 8 v) s = .next s)

/-- 10 R232 to R234, 11 R256, R257, 01 R19: the link's ports, the requests of this package's harts to other packages, and those of other
packages here. The number of failures and the injector's count are the readings of log entry 43, the port that a machine check names log
entry 19, when a lost request traps log entry 69; what another package answers is free (log entry 19). -/
def Obligations.LinkPortsAndRemoteRequests : Prop :=
  PortsCarryFlits ∧ RemoteWindowsCarryStoresAndAtomics ∧ LostRequestsTrap ∧ OtherPackagesStoreAndUpdate

/-- 04 R98, R99, R122, 10 R228, 01 R15, R16, 02 R45, R50, R51: an access of the host or of Brioche reads and writes backed memory at sys scope;
every party then reads what it read, but one that sees a newer store of its own side, where the outside sees no block in part. Where nothing answers the host reads 0; that Brioche's access to a reserved address then
faults is the model's own choice (log entry 65). A store that becomes visible in the next wider instance takes its block along, and changes
what only the parties newly included read; an error marks its sector, which in a CXL window is the
poison of a response. What an outside read returns stands in the model's own field (log
entry 22). -/
def Obligations.OutsideAccessesAndVisibility : Prop :=
  (∀ (addr : BitVec 52) (n : Nat) (v : Word) (s : State) (stk : Nat), partOf addr.toNat = .hbm stk → s.backed addr.toNat = true → n ≤ 8 →
    let a := addr.toNat
    let r := s.read View.sys.sees 0 sysKey (some .sys) ((List.range n).map (a + ·))
    let reads (i : Instr) : Prop := s.poisoned a n = false → exec i s = .next { r with answer := BitVec.ofNat 64 (s.num .sys a n) } ∧
      ((∀ w ∈ s.stores, w.level = .sys) → SameMemory s r) ∧ (s.stores = [] → r = s) ∧
      ((∀ w ∈ s.stores, ∀ x ∈ s.stores, w.grp ≠ 0 → x.grp = w.grp → View.sys.sees x = View.sys.sees w) → ∀ view, ∀ k < n,
        (∀ w ∈ s.stores, w.covers (a + k) = true → view.sees w = true → View.sys.sees w = true) → r.byte view (a + k) = s.byte .sys (a + k))
    let writes (i : Instr) : Prop := s.dev.ckpt.saving = false → ∃ t, exec i s = .next t ∧
      ∀ view b, t.byte view b = if a ≤ b ∧ b < a + n then (toBytes n v.toNat).getD (b - a) 0#8 else s.byte view b
    (s.dev.rdyhub.getLsbD 1 = true → reads (.hostAccess addr (.read n)) ∧ writes (.hostAccess addr (.write n v))) ∧
    (s.dev.bootstat.getLsbD 62 = false → reads (.briocheAccess addr (.read n)) ∧ writes (.briocheAccess addr (.write n v)))) ∧
  (∀ (addr : BitVec 52) (n : Nat) (v : Word) (s : State), partOf addr.toNat = .hole →
    (s.dev.rdyhub.getLsbD 1 = true → exec (.hostAccess addr (.read n)) s = .next { s with answer := 0#64 } ∧
      exec (.hostAccess addr (.write n v)) s = .next s) ∧
    (s.dev.bootstat.getLsbD 62 = false → exec (.briocheAccess addr (.read n)) s = .fault (.physicalHole addr.toNat))) ∧
  (∀ (k : Nat) (s : State) (w : PStore), s.stores[k]? = some w → s.dev.ckpt.saving = false →
    let wider := match w.level with
      | .core => Scope.cluster
      | .cluster => .die
      | .die => .pkg
      | .pkg | .sys => .sys
    let block (x : PStore) : Prop := x = w ∨ (x.grp ≠ 0 ∧ x.grp = w.grp)
    ∃ t, exec (.storeBecomesVisible k) s = .next t ∧ t = { s with mem := t.mem, stores := t.stores } ∧
      (∀ x ∈ s.stores, block x → { x with level := scopeMax x.level wider } ∈ t.stores ∨ scopeMax x.level wider = .sys) ∧
      (∀ v a, t.byte v a = s.byteBy (fun x => v.sees (if x = w ∨ (x.grp ≠ 0 ∧ x.grp = w.grp) then
        { x with level := scopeMax x.level wider } else x)) a) ∧
      (wider = .sys → ∀ v a, w.covers a = true → (∀ x ∈ s.stores.take k, x.covers a = false) → t.byte v a = w.bytes.getD (a - w.addr) 0#8) ∧
      ∀ v a, (∀ x ∈ s.stores, block x → v.sees { x with level := scopeMax x.level wider } = v.sees x) → t.byte v a = s.byte v a) ∧
  (∀ (sector : Nat) (s : State), 64 * sector < 24 * 2 ^ 36 → s.poison.contains sector = false →
    (s.correctable.contains sector = false →
      exec (.sectorError sector true) s = .next { s with correctable := sector :: s.correctable }) ∧
    exec (.sectorError sector false) s =
      .next { s with correctable := s.correctable.filter (· ≠ sector), poison := sector :: s.poison }) ∧
  ∀ (sector p off : Nat) (s : State), partOf (64 * sector) = .cxl p off → s.poison.contains sector = false →
    exec (.sectorError sector true) s = .next s ∧
    exec (.sectorError sector false) s = .next (if s.backed (64 * sector) then
      { s with correctable := s.correctable.filter (· ≠ sector), poison := sector :: s.poison } else s)

/-! ## The machine as a whole -/

/-- Memory keeps its canonical form over every step: addresses strictly rising, and no byte listed that reads as an unlisted one. The form
is the model's own representation of memory (log entry 3). -/
def Obligations.StepKeepsMemoryCanonical : Prop :=
  ∀ s t : State, Memory.wf s.mem = true → step s = .next t → Memory.wf t.mem = true

/-- The state after device reset (10 R225, R230, 01 R24, 02 R46, 08 R170): memory in its canonical form with nothing listed, no context in
any bank, no function ready, no launch, no cached translation. That unwritten memory reads 0 and the values of registers with no stated
reset are the model's choices of log entries 3 and 4. -/
def Obligations.ResetLeavesNothingRunning : Prop :=
  Memory.wf State.reset.mem = true ∧ (∀ c ∈ State.reset.contexts, c.place = .empty ∧ c.ah.run = .idle ∧ c.xh.run = .idle) ∧
  State.reset.dev.rdyhub = 0#64 ∧ (∀ d, Sparse.get 0#64 State.reset.dev.rdydie d = 0#64) ∧ State.reset.dev.xatb = 0#64 ∧
  State.reset.dev.bootstat = 0#64 ∧ (∀ d, State.reset.pwrto d = 1800000 ∧ State.reset.pwrbud d = 1688) ∧ State.reset.launches = [] ∧
  State.reset.tlb = [] ∧ State.reset.stores = [] ∧ State.reset.maj = [] ∧ State.reset.evseq = 0

/-- 11 R242, R244, R255, 10 R228: any trap, by whatever cause, in the handler halts both harts with the first trap registers kept and the
second set written, which Brioche can read, and ends the item with 0x11; a trap while HWIN is not enabled ends the item with its own
cause. Memory stays, its rays leave the engine, and Brioche has the machine checks. That the registers of a context halted by a trap in its handler
stay readable until its bank is used again is the reading of log entry 72, and the dropped rays log entry 34. -/
def Obligations.TrapInTheHandlerEndsTheItem : Prop :=
  (∀ (h : HartId) (t : Trap) (pc npc : Word) (vs : Bool) (s : State),
    let x := s.ctx.hs h
    let inHandler := x.t.hstat.getLsbD 0
    inHandler = true ∨ s.ctx.sr.hwin.getLsbD 63 = false →
    let u := s.takeTrap h t pc npc vs
    let noticed := if t.cause = 0x10 then s.notices ++ [Notice.machineCheck s.ctx.core t.addr t.info] else s.notices
    let told := if t.cause = 0x10 then s.msix ++ [1] else s.msix
    u.ctx.ah.run = .halted ∧ u.ctx.xh.run = .halted ∧ u.ctx.v.vq = [] ∧ u.ctx.m.mq = [] ∧ u.ctx.strip = none ∧ u.ctx.vps = [] ∧
    u.ctx.ray.rays = [] ∧ SameMemory s u ∧
    (inHandler = true →
      (u.ctx.hs h).t = { x.t with tcause2 := BitVec.ofNat 64 t.cause, taddr2 := t.addr, tpc2 := pc } ∧
      (s.ctx.place = .active → (List.range 7).map (u.trapWord s.ctx.core s.ctx.bank h) =
        [x.t.tcause, x.t.taddr, x.t.tpc, x.t.tinfo, BitVec.ofNat 64 t.cause, t.addr, pc]) ∧
      u.notices = noticed ++ [.handlerDouble s.ctx.core s.ctx.bank h] ∧ u.msix = told ++ [1]) ∧
    (inHandler = false → (u.ctx.hs h).t = x.t ∧ u.notices = noticed ∧ u.msix = told) ∧
    ∀ l ∈ s.launches, l.id = s.ctx.launch → ∃ y ∈ u.launches, y.id = l.id ∧
      y.faulted = l.faulted.or (some (if inHandler then 0x11 else t.cause))) ∧
  ∀ (n : BitVec 14) (s : State), (s.hart = .exe → s.ctx.v.vq = []) →
    exec (.svc n) s = .next (s.irrevocable.takeTrap s.hart
      { cause := 0x13, addr := 0#64, info := n.zeroExtend 64, toNext := true } s.pc (s.pc + 8#64) false)
end

