-- ==== Sys2Proof/Laws/Sparse.lean ====
section
/-! SUPPORT. Sparse maps: reading after writing, and the canonical form that every write keeps. -/

namespace Sys2Proof.Machine

variable {β : Type}

theorem Sparse.get_insert (d : β) (m : Sparse β) (j k : Nat) (w : β) :
    Sparse.get d (Sparse.insert m j w) k = if j = k then w else Sparse.get d m k := by
  induction m with
  | nil => simp [Sparse.insert, Sparse.get]
  | cons c t ih =>
    obtain ⟨a, v⟩ := c
    simp only [Sparse.insert]
    split
    · subst a
      simp only [Sparse.get]
      split <;> simp_all
    · split
      · simp only [Sparse.get]
      · simp only [Sparse.get, ih]
        by_cases h : a = k
        · subst a; simp_all; omega
        · simp [h]

theorem Sparse.get_filter_ne (d : β) (m : Sparse β) (j k : Nat) :
    Sparse.get d (m.filter fun c => c.1 != j) k = if j = k then d else Sparse.get d m k := by
  induction m with
  | nil => simp [Sparse.get]
  | cons c t ih =>
    obtain ⟨a, v⟩ := c
    by_cases h : a = j
    · subst a
      simp only [List.filter, bne_self_eq_false, ih, Sparse.get]
      split <;> rfl
    · have : (a != j) = true := by simpa using h
      simp only [List.filter, this, Sparse.get, ih]
      by_cases h2 : a = k
      · subst a; simp; omega
      · simp [h2]

variable [DecidableEq β]

/-- A read after a write gives the value written at its key, and what was there elsewhere. -/
theorem Sparse.get_set (d : β) (m : Sparse β) (j k : Nat) (w : β) :
    Sparse.get d (Sparse.set d m j w) k = if j = k then w else Sparse.get d m k := by
  unfold Sparse.set
  split
  · rename_i h; subst h; exact Sparse.get_filter_ne w m j k
  · exact Sparse.get_insert d m j k w

@[simp] theorem Sparse.get_set_same (d : β) (m : Sparse β) (j : Nat) (w : β) : Sparse.get d (Sparse.set d m j w) j = w := by
  simp [Sparse.get_set]

theorem Sparse.get_set_other (d : β) (m : Sparse β) {j k : Nat} (h : j ≠ k) (w : β) :
    Sparse.get d (Sparse.set d m j w) k = Sparse.get d m k := by
  simp [Sparse.get_set, h]

omit [DecidableEq β] in
theorem Sparse.rising_filter (p : Nat × β → Bool) (m : Sparse β) (lo lo' : Option Nat)
    (hl : ∀ a, lo' = some a → ∃ b, lo = some b ∧ a ≤ b) (h : Sparse.rising lo m = true) :
    Sparse.rising lo' (m.filter p) = true := by
  induction m generalizing lo lo' with
  | nil => rfl
  | cons c t ih =>
    obtain ⟨k, v⟩ := c
    have hk : Sparse.rising (some k) t = true ∧ (∀ b, lo = some b → b < k) := by
      cases lo with
      | none => exact ⟨h, by simp⟩
      | some b =>
        simp only [Sparse.rising, Bool.and_eq_true, decide_eq_true_eq] at h
        exact ⟨h.2, by rintro c ⟨⟩; exact h.1⟩
    by_cases hp : p (k, v) = true
    · simp only [List.filter, hp]
      cases lo' with
      | none => exact ih (some k) (some k) (by rintro a ⟨⟩; exact ⟨k, rfl, le_refl _⟩) hk.1
      | some a =>
        obtain ⟨b, hb, hab⟩ := hl a rfl
        simp only [Sparse.rising, Bool.and_eq_true, decide_eq_true_eq]
        exact ⟨lt_of_le_of_lt hab (hk.2 b hb), ih (some k) (some k) (by rintro a ⟨⟩; exact ⟨k, rfl, le_refl _⟩) hk.1⟩
    · simp only [List.filter, hp]
      refine ih (some k) lo' ?_ hk.1
      intro a ha
      obtain ⟨b, hb, hab⟩ := hl a ha
      exact ⟨k, rfl, le_of_lt (lt_of_le_of_lt hab (hk.2 b hb))⟩

omit [DecidableEq β] in
theorem Sparse.rising_insert (m : Sparse β) (j : Nat) (w : β) (lo : Option Nat) (hl : ∀ a, lo = some a → a < j)
    (h : Sparse.rising lo m = true) : Sparse.rising lo (Sparse.insert m j w) = true := by
  induction m generalizing lo with
  | nil =>
    cases lo with
    | none => rfl
    | some a => simp [Sparse.insert, Sparse.rising, hl a rfl]
  | cons c t ih =>
    obtain ⟨k, v⟩ := c
    have hk : Sparse.rising (some k) t = true ∧ (∀ b, lo = some b → b < k) := by
      cases lo with
      | none => exact ⟨h, by simp⟩
      | some b =>
        simp only [Sparse.rising, Bool.and_eq_true, decide_eq_true_eq] at h
        exact ⟨h.2, by rintro c ⟨⟩; exact h.1⟩
    have put (q : Nat) (u : Sparse β) (hq : ∀ a, lo = some a → a < q) (r : β) (hr : Sparse.rising (some q) u = true) :
        Sparse.rising lo ((q, r) :: u) = true := by
      cases lo with
      | none => exact hr
      | some a => simp [Sparse.rising, hq a rfl, hr]
    simp only [Sparse.insert]
    split
    · rename_i e; subst e; exact put k t hl w hk.1
    · split
      · rename_i hlt
        exact put j ((k, v) :: t) hl w (by simp [Sparse.rising, hlt, hk.1])
      · refine put k _ hk.2 v (ih (some k) ?_ hk.1)
        rintro a ⟨⟩; omega

omit [DecidableEq β] in
theorem Sparse.mem_insert (m : Sparse β) (j : Nat) (w : β) (c : Nat × β) (h : c ∈ Sparse.insert m j w) : c = (j, w) ∨ c ∈ m := by
  induction m with
  | nil => simpa [Sparse.insert] using h
  | cons a t ih =>
    obtain ⟨k, v⟩ := a
    simp only [Sparse.insert] at h
    split at h
    · rcases List.mem_cons.mp h with h | h
      · exact .inl h
      · exact .inr (List.mem_cons_of_mem _ h)
    · split at h
      · rcases List.mem_cons.mp h with h | h
        · exact .inl h
        · exact .inr h
      · rcases List.mem_cons.mp h with h | h
        · exact .inr (h ▸ List.mem_cons_self)
        · rcases ih h with h | h
          · exact .inl h
          · exact .inr (List.mem_cons_of_mem _ h)

/-- A write keeps the canonical form. -/
theorem Sparse.wf_set (d : β) (m : Sparse β) (j : Nat) (w : β) (h : Sparse.wf d m = true) : Sparse.wf d (Sparse.set d m j w) = true := by
  simp only [Sparse.wf, Bool.and_eq_true, List.all_eq_true] at h ⊢
  unfold Sparse.set
  split
  · refine ⟨Sparse.rising_filter _ m none none (by simp) h.1, fun c hc => h.2 c (List.mem_of_mem_filter hc)⟩
  · rename_i hw
    refine ⟨Sparse.rising_insert m j w none (by simp) h.1, fun c hc => ?_⟩
    rcases Sparse.mem_insert m j w c hc with rfl | hc
    · simpa using hw
    · exact h.2 c hc

@[simp] theorem Sparse.wf_nil (d : β) : Sparse.wf d ([] : Sparse β) = true := rfl

/-- Filtering keeps the canonical form. -/
theorem Sparse.wf_filter (d : β) (p : Nat × β → Bool) (m : Sparse β) (h : Sparse.wf d m = true) :
    Sparse.wf d (m.filter p) = true := by
  simp only [Sparse.wf, Bool.and_eq_true, List.all_eq_true] at h ⊢
  exact ⟨Sparse.rising_filter p m none none (by simp) h.1, fun c hc => h.2 c (List.mem_of_mem_filter hc)⟩

end Sys2Proof.Machine
end

