-- ==== Sys2Proof/Laws/Mem.lean ====
section
/-! SUPPORT. Memory: reading after writing, the canonical form that every memory operation keeps, and the merging of stores that are
visible everywhere, which no party can see. -/

namespace Sys2Proof.Machine

/-! ## Bytes -/

theorem memGet_memPut (bs : List Byte) (m : Sparse Byte) (a b : Nat) :
    memGet (memPut m a bs) b = if a ≤ b ∧ b < a + bs.length then bs.getD (b - a) 0#8 else memGet m b := by
  induction bs generalizing m a with
  | nil => simp [memPut]
  | cons x t ih =>
    simp only [memPut, ih, List.length_cons]
    by_cases h : a = b
    · subst h
      rw [if_neg (by omega), if_pos (by omega)]
      simp [memGet]
    · by_cases h2 : a + 1 ≤ b ∧ b < a + 1 + t.length
      · rw [if_pos h2, if_pos (by omega)]
        have : b - a = (b - (a + 1)) + 1 := by omega
        rw [this, List.getD_cons_succ]
      · rw [if_neg h2, if_neg (by omega)]
        simp only [memGet, Sparse.get_set_other 0#8 m h]

theorem memPut_wf (bs : List Byte) (m : Sparse Byte) (a : Nat) (h : Memory.wf m = true) : Memory.wf (memPut m a bs) = true := by
  induction bs generalizing m a with
  | nil => exact h
  | cons x t ih => exact ih _ _ (Sparse.wf_set 0#8 m a x h)

/-! ## The canonical form, operation by operation -/

theorem reset_memory_wf : Memory.wf State.reset.mem = true := rfl

theorem settleList_wf (k : List Nat) (m : Sparse Byte) (l : List PStore) (h : Memory.wf m = true) :
    Memory.wf (settleList k m l).1 = true := by
  induction l with
  | nil => exact h
  | cons w t ih =>
    simp only [settleList]
    split
    · exact memPut_wf _ _ _ ih
    · exact ih

theorem State.settle_wf (s : State) (h : Memory.wf s.mem = true) : Memory.wf s.settle.mem = true := settleList_wf _ _ _ h

theorem copyRange_wf (m src : Sparse Byte) (lo n from_ : Nat) (h : Memory.wf m = true) :
    Memory.wf (Sparse.copyRange 0#8 m lo n src from_) = true := by
  have base : Memory.wf (m.filter fun c => !(decide (lo ≤ c.1) && decide (c.1 < lo + n))) = true := Sparse.wf_filter 0#8 _ m h
  have step : ∀ (l : Sparse Byte) (m : Sparse Byte), Memory.wf m = true →
      Memory.wf (l.foldl (fun m c => Sparse.set 0#8 m (lo + (c.1 - from_)) c.2) m) = true := by
    intro l
    induction l with
    | nil => exact fun _ h => h
    | cons c t ih => exact fun m h => ih _ (Sparse.wf_set 0#8 m _ _ h)
  exact step _ _ base

theorem foldPut_wf (l : List Nat) (m : Sparse Byte) (f : Nat → Nat) (b : Nat → List Byte) (h : Memory.wf m = true) :
    Memory.wf (l.foldl (fun m i => memPut m (f i) (b i)) m) = true := by
  induction l generalizing m with
  | nil => exact h
  | cons c t ih => exact ih _ (memPut_wf _ _ _ h)

theorem State.copyGranule_wf (s : State) (g : Nat) (h : Memory.wf s.mem = true) : Memory.wf (s.copyGranule g).mem = true := by
  simp only [State.copyGranule]
  generalize List.range (granule / 64) = l
  exact foldPut_wf l _ _ _ (copyRange_wf _ _ _ _ _ h)

theorem State.protect_wf (s : State) (a n : Nat) (h : Memory.wf s.mem = true) : Memory.wf (s.protect a n).mem = true := by
  have step : ∀ (l : List Nat) (g : Nat) (s : State), Memory.wf s.mem = true →
      Memory.wf (l.foldl (fun s i => if s.uncopied (g + i) = true then s.copyGranule (g + i) else s) s).mem = true := by
    intro l g
    induction l with
    | nil => exact fun _ h => h
    | cons c t ih =>
      intro s h
      refine ih _ ?_
      dsimp only
      split
      · exact s.copyGranule_wf _ h
      · exact h
  exact step _ _ s h

theorem State.push_wf (s : State) (w : PStore) (h : Memory.wf s.mem = true) : Memory.wf (s.push w).mem = true := by
  simp only [State.push]
  apply State.settle_wf
  split
  · exact s.protect_wf _ _ h
  · exact h

theorem State.perform_wf (s : State) (core : Nat) (level : Scope) (a : Nat) (bs : List Byte) (h : Memory.wf s.mem = true) :
    Memory.wf (s.perform core level a bs).mem = true := s.push_wf _ h

theorem State.raise_wf (s : State) (p : PStore → Bool) (sc : Scope) (h : Memory.wf s.mem = true) : Memory.wf (s.raise p sc).mem = true := by
  have step : ∀ (q : PStore → Bool) (l : List PStore) (s : State), Memory.wf s.mem = true →
      Memory.wf (l.foldl (fun t w => if q w = true then t.protect w.addr w.bytes.length else t) s).mem = true := by
    intro q l
    induction l with
    | nil => exact fun _ h => h
    | cons c t ih =>
      intro s h
      refine ih _ ?_
      dsimp only
      split
      · exact s.protect_wf _ _ h
      · exact h
  simp only [State.raise]
  apply State.settle_wf
  split
  · exact step _ _ s h
  · exact h

theorem State.release_wf (s : State) (key : Nat) (sc : Scope) (h : Memory.wf s.mem = true) : Memory.wf (s.release key sc).mem = true :=
  s.raise_wf _ sc h

theorem State.gatherStores_wf (s : State) (v : View) (a n : Nat) (h : Memory.wf s.mem = true) :
    Memory.wf (s.gatherStores v a n).mem = true := by
  have step : ∀ (meets : PStore → Bool) (l : List PStore) (s : State), Memory.wf s.mem = true →
      Memory.wf (l.foldl (fun s w =>
        if meets w then s.raise (fun x => meets x && decide (x.core = w.core)) (joinScope v w.core) else s) s).mem = true := by
    intro meets l
    induction l with
    | nil => exact fun _ h => h
    | cons c t ih =>
      intro s h
      refine ih _ ?_
      dsimp only
      split
      · exact s.raise_wf _ _ h
      · exact h
  exact step _ _ s h

theorem State.sysMem_wf (s : State) (h : Memory.wf s.mem = true) : Memory.wf s.sysMem = true := by
  simp only [State.sysMem]
  induction s.stores with
  | nil => exact h
  | cons w t ih =>
    simp only [List.foldr_cons]
    split
    · exact memPut_wf _ _ _ ih
    · exact ih

/-! ## Merging -/

theorem View.sees_sys (v : View) (w : PStore) (h : w.level = .sys) : v.sees w = true := by
  cases v <;> simp [View.sees, h]

/-- The byte that a party reads from stores, newest first, over memory. -/
def byteIn (v : View) (a : Nat) (m : Sparse Byte) (l : List PStore) : Byte :=
  match l.find? (fun w => v.sees w && w.covers a) with
  | some w => w.bytes.getD (a - w.addr) 0#8
  | none => memGet m a

theorem byteIn_cons (v : View) (a : Nat) (m : Sparse Byte) (w : PStore) (t : List PStore) :
    byteIn v a m (w :: t) = if v.sees w && w.covers a then w.bytes.getD (a - w.addr) 0#8 else byteIn v a m t := by
  simp only [byteIn, List.find?_cons]
  cases (v.sees w && w.covers a) <;> rfl

/-- Merging stores that are visible everywhere changes what no party reads. -/
theorem settleList_byte (k : List Nat) (v : View) (a : Nat) (m : Sparse Byte) (l : List PStore) :
    byteIn v a (settleList k m l).1 (settleList k m l).2 = byteIn v a m l := by
  induction l with
  | nil => rfl
  | cons w t ih =>
    rw [byteIn_cons, ← ih]
    by_cases h : (settleList k m t).2 = [] ∧ w.level = .sys ∧ w.sync.all (fun y => !k.contains y.key)
    · have e : settleList k m (w :: t) = (memPut (settleList k m t).1 w.addr w.bytes, []) := by simp only [settleList, if_pos h]
      have n (x : Sparse Byte) : byteIn v a x [] = memGet x a := rfl
      rw [e, h.1, n, n, memGet_memPut, View.sees_sys v w h.2.1]
      simp [PStore.covers]
    · have e : settleList k m (w :: t) = ((settleList k m t).1, w :: (settleList k m t).2) := by simp only [settleList, if_neg h]
      rw [e, byteIn_cons]

theorem State.byte_settle (s : State) (v : View) (a : Nat) : s.settle.byte v a = s.byte v a :=
  settleList_byte s.liveKeys v a s.mem s.stores

/-- What a party reads after a store has performed that does not reach the die cache: the store's bytes where it sees the store, and
everything else as before. -/
theorem State.byte_perform (s : State) (core : Nat) (level : Scope) (hl : reachesDie level = false) (a : Nat) (bs : List Byte) (v : View) (b : Nat) :
    (s.perform core level a bs).byte v b =
      if v.sees { addr := a, bytes := bs, core := core, level := level } = true ∧ a ≤ b ∧ b < a + bs.length then bs.getD (b - a) 0#8
      else s.byte v b := by
  simp only [State.perform, State.push, hl, Bool.false_eq_true, if_false, State.byte_settle]
  simp only [State.byte, State.byteBy, List.find?_cons, PStore.covers]
  by_cases hs : v.sees { addr := a, bytes := bs, core := core, level := level } = true
  · by_cases hc : a ≤ b ∧ b < a + bs.length
    · simp [hs, hc]
    · have : (decide (a ≤ b) && decide (b < a + bs.length)) = false := by
        simp only [Bool.and_eq_false_iff, decide_eq_false_iff_not]; omega
      simp only [hs, this, Bool.and_false, true_and, if_neg hc]
  · simp only [Bool.not_eq_true] at hs
    simp [hs]

end Sys2Proof.Machine
end

