-- ==== Sys2Proof/Laws/Ops.lean ====
section
/-! SUPPORT. What the shared operations come to: the ends of an instruction, the scoreboard, issue into a queue, the trap entry. -/

namespace Sys2Proof.Machine

/-! ## The end of an instruction -/

@[simp] theorem conclude_ok (s t : State) : conclude s (.ok t) = .next (t.setWait .none) := rfl
@[simp] theorem conclude_stall (s t : State) (w : Wait) : conclude s (.stall w t) = .next (t.setWait w) := rfl
@[simp] theorem conclude_rewind (s t : State) : conclude s (.rewind t) = .next t := rfl

/-- A trap is taken at once unless the execute hart's vector stream has entries left. -/
theorem conclude_trap (s u : State) (t : Trap) (h : s.hart = .exe → s.ctx.v.vq = []) :
    conclude s (.trap t u) = .next (u.takeTrap s.hart t s.pc (if t.toNext then s.pc + 8#64 else s.pc) false) := by
  have hn : ¬ (s.hart = .exe ∧ s.ctx.v.vq ≠ []) := fun hh => hh.2 (h hh.1)
  exact if_neg hn

/-- An instruction of a hart neither faults nor refuses. -/
theorem conclude_next (s : State) (r : Res) : ∃ t, conclude s r = .next t := by
  cases r with
  | ok t => exact ⟨_, rfl⟩
  | stall w t => exact ⟨_, rfl⟩
  | rewind t => exact ⟨_, rfl⟩
  | trap t u =>
    unfold conclude
    dsimp only
    split <;> exact ⟨_, rfl⟩

theorem runExe_exe (i : Instr) (f : State → Res) (s : State) (h : s.hart = .exe) : runExe i f s = conclude s (f s) := by
  simp [runExe, h]
theorem runAcc_acc (i : Instr) (f : State → Res) (s : State) (h : s.hart = .acc) : runAcc i f s = conclude s (f s) := by
  simp [runAcc, h]
/-- On the other hart the instruction is illegal. -/
theorem runExe_acc (i : Instr) (f : State → Res) (s : State) (h : s.hart = .acc) :
    runExe i f s = conclude s (.trap (illegalTrap i) s) := by simp [runExe, h]
theorem runAcc_exe (i : Instr) (f : State → Res) (s : State) (h : s.hart = .exe) :
    runAcc i f s = conclude s (.trap (illegalTrap i) s) := by simp [runAcc, h]

theorem runBoth_next (f : State → Res) (s : State) : ∃ t, runBoth f s = .next t := conclude_next s (f s)
theorem runExe_next (i : Instr) (f : State → Res) (s : State) : ∃ t, runExe i f s = .next t := conclude_next s _
theorem runAcc_next (i : Instr) (f : State → Res) (s : State) : ∃ t, runAcc i f s = .next t := conclude_next s _
theorem runMat_next (i : Instr) (f : State → Res) (s : State) : ∃ t, runMat i f s = .next t := runExe_next i _ s

/-- A matrix instruction of the execute hart, outside the handler or after `tsave`. -/
theorem runMat_exe (i : Instr) (f : State → Res) (s : State) (h : s.hart = .exe) (hm : (s.hs.handler && !s.hs.ts) = false) :
    runMat i f s = conclude s (f s) := by
  simp only [runMat, runExe_exe _ _ _ h, hm, Bool.false_eq_true, if_false]

/-! ## The scoreboard -/

theorem State.whenReady_ready (s : State) (rs ws : List Reg) (f : State → Res) (h : s.ready rs ws = true) :
    s.whenReady rs ws f = f s := by simp [State.whenReady, h]
theorem State.whenReady_busy (s : State) (rs ws : List Reg) (f : State → Res) (h : s.ready rs ws = false) :
    s.whenReady rs ws f = .stall .other s := by simp [State.whenReady, h]

/-- Two instructions of one state that both wait for registers, as one. -/
theorem State.whenReady_twice (s : State) (rs rs' ws : List Reg) (f : State → Res) (h : s.ready rs ws = true)
    (h' : s.ready rs' [] = true) : (s.whenReady rs ws fun s => s.whenReady rs' [] f) = f s := by
  simp [State.whenReady, h, h']

theorem State.memOrder_drained (s : State) (sp rel : Bool) (f : State → Res) (h : s.drained = true) : s.memOrder sp rel f = f s := by
  simp [State.memOrder, h]
theorem State.drained_acc (s : State) (h : s.hart = .acc) : s.drained = true := by simp [State.drained, h]

/-! ## Issue into the vector and the matrix command queue -/

/-- An instruction that the captured state allows joins the queue. -/
theorem issue_next (i : Instr) (ok : Vec → Bool) (rs : List Reg) (pg : PReg) (op : State → VOp) (s : State)
    (hx : s.hart = .exe) (ho : ok s.ctx.v = true) (hr : s.ready rs [] = true) (hq : s.ctx.v.vq.length < Config.vqDepth) :
    issue i ok rs pg op s = .next ((s.enqueue (op s) pg none).setWait .none) := by
  simp [issue, runExe_exe _ _ _ hx, ho, State.issueOp, State.whenReady_ready _ _ _ _ hr, Nat.not_le.mpr hq]

/-- A matrix instruction commits when no earlier entry can trap and the queue has room. -/
theorem State.commitMat_light (s : State) (ops : List MOp) (hv : s.ctx.v.vq = [])
    (hq : s.ctx.m.mq.length + ops.length ≤ Config.mqDepth) : s.commitMat ops none = .ok (s.enterMat none ops).advance := by
  simp [State.commitMat, hv, Nat.not_lt.mpr hq]

/-! ## The trap entry (11 R238) -/

/-- Outside handler mode and with a handler window the trap enters the handler. -/
theorem State.takeTrap_entry (s : State) (h : HartId) (t : Trap) (pc npc : Word) (vs : Bool) (hm : (s.ctx.hs h).handler = false)
    (hw : s.ctx.sr.hwin.getLsbD 63 = true) (hc : t.cause ≠ Cause.machineCheck) :
    s.takeTrap h t pc npc vs =
      s.setCtx ((s.ctx.setHs h { s.ctx.hs h with
        pc := entryOf s.ctx.sr.hwin h, wait := .none,
        t := { (s.ctx.hs h).t with
          tcause := BitVec.ofNat 64 (t.cause + (if vs then 0x100 else 0) + (if t.lb then 0x200 else 0)),
          taddr := t.addr, tinfo := t.info, tpc := pc, tnpc := npc, tsp := s.ctx.x h 30#5,
          hstat := (s.ctx.hs h).t.hstat ||| 1#64 } }).setX h 30#5 (stackTop s.ctx.sr.hwin h)) := by
  have hl : s.logCheck t = s := by simp [State.logCheck, hc]
  simp [State.takeTrap, hl, hm, hw]

end Sys2Proof.Machine
end

