-- ==== Sys2Proof/Laws/State.lean ====
section
/-! SUPPORT. What each named update of a state, a context or a hart leaves in each field. -/

namespace Sys2Proof.Machine

/-! ## Updates of the context in focus -/

@[simp] theorem State.setCtx_ctx (s : State) (c : Context) : (s.setCtx c).ctx = c := rfl
@[simp] theorem State.setCtx_agenda (s : State) (c : Context) : (s.setCtx c).agenda = s.agenda := rfl
@[simp] theorem State.setCtx_hart (s : State) (c : Context) : (s.setCtx c).hart = s.hart := rfl
@[simp] theorem State.setCtx_others (s : State) (c : Context) : (s.setCtx c).others = s.others := rfl
@[simp] theorem State.setCtx_mem (s : State) (c : Context) : (s.setCtx c).mem = s.mem := rfl
@[simp] theorem State.setCtx_sideband (s : State) (c : Context) : (s.setCtx c).sideband = s.sideband := rfl
@[simp] theorem State.setCtx_poison (s : State) (c : Context) : (s.setCtx c).poison = s.poison := rfl
@[simp] theorem State.setCtx_correctable (s : State) (c : Context) : (s.setCtx c).correctable = s.correctable := rfl
@[simp] theorem State.setCtx_stores (s : State) (c : Context) : (s.setCtx c).stores = s.stores := rfl
@[simp] theorem State.setCtx_remote (s : State) (c : Context) : (s.setCtx c).remote = s.remote := rfl
@[simp] theorem State.setCtx_tlb (s : State) (c : Context) : (s.setCtx c).tlb = s.tlb := rfl
@[simp] theorem State.setCtx_dev (s : State) (c : Context) : (s.setCtx c).dev = s.dev := rfl
@[simp] theorem State.setCtx_maj (s : State) (c : Context) : (s.setCtx c).maj = s.maj := rfl
@[simp] theorem State.setCtx_repWrites (s : State) (c : Context) : (s.setCtx c).repWrites = s.repWrites := rfl
@[simp] theorem State.setCtx_repAnswers (s : State) (c : Context) : (s.setCtx c).repAnswers = s.repAnswers := rfl
@[simp] theorem State.setCtx_majRel (s : State) (c : Context) : (s.setCtx c).majRel = s.majRel := rfl
@[simp] theorem State.setCtx_launches (s : State) (c : Context) : (s.setCtx c).launches = s.launches := rfl
@[simp] theorem State.setCtx_queues (s : State) (c : Context) : (s.setCtx c).queues = s.queues := rfl
@[simp] theorem State.setCtx_nextId (s : State) (c : Context) : (s.setCtx c).nextId = s.nextId := rfl
@[simp] theorem State.setCtx_leaveQ (s : State) (c : Context) : (s.setCtx c).leaveQ = s.leaveQ := rfl
@[simp] theorem State.setCtx_heavy (s : State) (c : Context) : (s.setCtx c).heavy = s.heavy := rfl
@[simp] theorem State.setCtx_notices (s : State) (c : Context) : (s.setCtx c).notices = s.notices := rfl
@[simp] theorem State.setCtx_msix (s : State) (c : Context) : (s.setCtx c).msix = s.msix := rfl
@[simp] theorem State.setCtx_evseq (s : State) (c : Context) : (s.setCtx c).evseq = s.evseq := rfl
@[simp] theorem State.setCtx_answer (s : State) (c : Context) : (s.setCtx c).answer = s.answer := rfl
@[simp] theorem State.setCtx_free (s : State) (c : Context) : (s.setCtx c).free = s.free := rfl

@[simp] theorem State.setHs_ctx (s : State) (x : HartSt) : (s.setHs x).ctx = s.ctx.setHs s.hart x := rfl
@[simp] theorem State.setHs_agenda (s : State) (x : HartSt) : (s.setHs x).agenda = s.agenda := rfl
@[simp] theorem State.setHs_hart (s : State) (x : HartSt) : (s.setHs x).hart = s.hart := rfl
@[simp] theorem State.setHs_others (s : State) (x : HartSt) : (s.setHs x).others = s.others := rfl
@[simp] theorem State.setHs_mem (s : State) (x : HartSt) : (s.setHs x).mem = s.mem := rfl
@[simp] theorem State.setHs_sideband (s : State) (x : HartSt) : (s.setHs x).sideband = s.sideband := rfl
@[simp] theorem State.setHs_poison (s : State) (x : HartSt) : (s.setHs x).poison = s.poison := rfl
@[simp] theorem State.setHs_correctable (s : State) (x : HartSt) : (s.setHs x).correctable = s.correctable := rfl
@[simp] theorem State.setHs_stores (s : State) (x : HartSt) : (s.setHs x).stores = s.stores := rfl
@[simp] theorem State.setHs_remote (s : State) (x : HartSt) : (s.setHs x).remote = s.remote := rfl
@[simp] theorem State.setHs_tlb (s : State) (x : HartSt) : (s.setHs x).tlb = s.tlb := rfl
@[simp] theorem State.setHs_dev (s : State) (x : HartSt) : (s.setHs x).dev = s.dev := rfl
@[simp] theorem State.setHs_maj (s : State) (x : HartSt) : (s.setHs x).maj = s.maj := rfl
@[simp] theorem State.setHs_repWrites (s : State) (x : HartSt) : (s.setHs x).repWrites = s.repWrites := rfl
@[simp] theorem State.setHs_repAnswers (s : State) (x : HartSt) : (s.setHs x).repAnswers = s.repAnswers := rfl
@[simp] theorem State.setHs_majRel (s : State) (x : HartSt) : (s.setHs x).majRel = s.majRel := rfl
@[simp] theorem State.setHs_launches (s : State) (x : HartSt) : (s.setHs x).launches = s.launches := rfl
@[simp] theorem State.setHs_queues (s : State) (x : HartSt) : (s.setHs x).queues = s.queues := rfl
@[simp] theorem State.setHs_nextId (s : State) (x : HartSt) : (s.setHs x).nextId = s.nextId := rfl
@[simp] theorem State.setHs_leaveQ (s : State) (x : HartSt) : (s.setHs x).leaveQ = s.leaveQ := rfl
@[simp] theorem State.setHs_heavy (s : State) (x : HartSt) : (s.setHs x).heavy = s.heavy := rfl
@[simp] theorem State.setHs_notices (s : State) (x : HartSt) : (s.setHs x).notices = s.notices := rfl
@[simp] theorem State.setHs_msix (s : State) (x : HartSt) : (s.setHs x).msix = s.msix := rfl
@[simp] theorem State.setHs_evseq (s : State) (x : HartSt) : (s.setHs x).evseq = s.evseq := rfl
@[simp] theorem State.setHs_answer (s : State) (x : HartSt) : (s.setHs x).answer = s.answer := rfl
@[simp] theorem State.setHs_free (s : State) (x : HartSt) : (s.setHs x).free = s.free := rfl

@[simp] theorem State.setPc_agenda (s : State) (a : Word) : (s.setPc a).agenda = s.agenda := rfl
@[simp] theorem State.setPc_hart (s : State) (a : Word) : (s.setPc a).hart = s.hart := rfl
@[simp] theorem State.setPc_others (s : State) (a : Word) : (s.setPc a).others = s.others := rfl
@[simp] theorem State.setPc_mem (s : State) (a : Word) : (s.setPc a).mem = s.mem := rfl
@[simp] theorem State.setPc_sideband (s : State) (a : Word) : (s.setPc a).sideband = s.sideband := rfl
@[simp] theorem State.setPc_poison (s : State) (a : Word) : (s.setPc a).poison = s.poison := rfl
@[simp] theorem State.setPc_correctable (s : State) (a : Word) : (s.setPc a).correctable = s.correctable := rfl
@[simp] theorem State.setPc_stores (s : State) (a : Word) : (s.setPc a).stores = s.stores := rfl
@[simp] theorem State.setPc_remote (s : State) (a : Word) : (s.setPc a).remote = s.remote := rfl
@[simp] theorem State.setPc_tlb (s : State) (a : Word) : (s.setPc a).tlb = s.tlb := rfl
@[simp] theorem State.setPc_dev (s : State) (a : Word) : (s.setPc a).dev = s.dev := rfl
@[simp] theorem State.setPc_maj (s : State) (a : Word) : (s.setPc a).maj = s.maj := rfl
@[simp] theorem State.setPc_repWrites (s : State) (a : Word) : (s.setPc a).repWrites = s.repWrites := rfl
@[simp] theorem State.setPc_repAnswers (s : State) (a : Word) : (s.setPc a).repAnswers = s.repAnswers := rfl
@[simp] theorem State.setPc_majRel (s : State) (a : Word) : (s.setPc a).majRel = s.majRel := rfl
@[simp] theorem State.setPc_launches (s : State) (a : Word) : (s.setPc a).launches = s.launches := rfl
@[simp] theorem State.setPc_queues (s : State) (a : Word) : (s.setPc a).queues = s.queues := rfl
@[simp] theorem State.setPc_nextId (s : State) (a : Word) : (s.setPc a).nextId = s.nextId := rfl
@[simp] theorem State.setPc_leaveQ (s : State) (a : Word) : (s.setPc a).leaveQ = s.leaveQ := rfl
@[simp] theorem State.setPc_heavy (s : State) (a : Word) : (s.setPc a).heavy = s.heavy := rfl
@[simp] theorem State.setPc_notices (s : State) (a : Word) : (s.setPc a).notices = s.notices := rfl
@[simp] theorem State.setPc_msix (s : State) (a : Word) : (s.setPc a).msix = s.msix := rfl
@[simp] theorem State.setPc_evseq (s : State) (a : Word) : (s.setPc a).evseq = s.evseq := rfl
@[simp] theorem State.setPc_answer (s : State) (a : Word) : (s.setPc a).answer = s.answer := rfl
@[simp] theorem State.setPc_free (s : State) (a : Word) : (s.setPc a).free = s.free := rfl

@[simp] theorem State.advance_agenda (s : State)  : (s.advance).agenda = s.agenda := rfl
@[simp] theorem State.advance_hart (s : State)  : (s.advance).hart = s.hart := rfl
@[simp] theorem State.advance_others (s : State)  : (s.advance).others = s.others := rfl
@[simp] theorem State.advance_mem (s : State)  : (s.advance).mem = s.mem := rfl
@[simp] theorem State.advance_sideband (s : State)  : (s.advance).sideband = s.sideband := rfl
@[simp] theorem State.advance_poison (s : State)  : (s.advance).poison = s.poison := rfl
@[simp] theorem State.advance_correctable (s : State)  : (s.advance).correctable = s.correctable := rfl
@[simp] theorem State.advance_stores (s : State)  : (s.advance).stores = s.stores := rfl
@[simp] theorem State.advance_remote (s : State)  : (s.advance).remote = s.remote := rfl
@[simp] theorem State.advance_tlb (s : State)  : (s.advance).tlb = s.tlb := rfl
@[simp] theorem State.advance_dev (s : State)  : (s.advance).dev = s.dev := rfl
@[simp] theorem State.advance_maj (s : State)  : (s.advance).maj = s.maj := rfl
@[simp] theorem State.advance_repWrites (s : State)  : (s.advance).repWrites = s.repWrites := rfl
@[simp] theorem State.advance_repAnswers (s : State)  : (s.advance).repAnswers = s.repAnswers := rfl
@[simp] theorem State.advance_majRel (s : State)  : (s.advance).majRel = s.majRel := rfl
@[simp] theorem State.advance_launches (s : State)  : (s.advance).launches = s.launches := rfl
@[simp] theorem State.advance_queues (s : State)  : (s.advance).queues = s.queues := rfl
@[simp] theorem State.advance_nextId (s : State)  : (s.advance).nextId = s.nextId := rfl
@[simp] theorem State.advance_leaveQ (s : State)  : (s.advance).leaveQ = s.leaveQ := rfl
@[simp] theorem State.advance_heavy (s : State)  : (s.advance).heavy = s.heavy := rfl
@[simp] theorem State.advance_notices (s : State)  : (s.advance).notices = s.notices := rfl
@[simp] theorem State.advance_msix (s : State)  : (s.advance).msix = s.msix := rfl
@[simp] theorem State.advance_evseq (s : State)  : (s.advance).evseq = s.evseq := rfl
@[simp] theorem State.advance_answer (s : State)  : (s.advance).answer = s.answer := rfl
@[simp] theorem State.advance_free (s : State)  : (s.advance).free = s.free := rfl

@[simp] theorem State.setWait_agenda (s : State) (w : Wait) : (s.setWait w).agenda = s.agenda := rfl
@[simp] theorem State.setWait_hart (s : State) (w : Wait) : (s.setWait w).hart = s.hart := rfl
@[simp] theorem State.setWait_others (s : State) (w : Wait) : (s.setWait w).others = s.others := rfl
@[simp] theorem State.setWait_mem (s : State) (w : Wait) : (s.setWait w).mem = s.mem := rfl
@[simp] theorem State.setWait_sideband (s : State) (w : Wait) : (s.setWait w).sideband = s.sideband := rfl
@[simp] theorem State.setWait_poison (s : State) (w : Wait) : (s.setWait w).poison = s.poison := rfl
@[simp] theorem State.setWait_correctable (s : State) (w : Wait) : (s.setWait w).correctable = s.correctable := rfl
@[simp] theorem State.setWait_stores (s : State) (w : Wait) : (s.setWait w).stores = s.stores := rfl
@[simp] theorem State.setWait_remote (s : State) (w : Wait) : (s.setWait w).remote = s.remote := rfl
@[simp] theorem State.setWait_tlb (s : State) (w : Wait) : (s.setWait w).tlb = s.tlb := rfl
@[simp] theorem State.setWait_dev (s : State) (w : Wait) : (s.setWait w).dev = s.dev := rfl
@[simp] theorem State.setWait_maj (s : State) (w : Wait) : (s.setWait w).maj = s.maj := rfl
@[simp] theorem State.setWait_repWrites (s : State) (w : Wait) : (s.setWait w).repWrites = s.repWrites := rfl
@[simp] theorem State.setWait_repAnswers (s : State) (w : Wait) : (s.setWait w).repAnswers = s.repAnswers := rfl
@[simp] theorem State.setWait_majRel (s : State) (w : Wait) : (s.setWait w).majRel = s.majRel := rfl
@[simp] theorem State.setWait_launches (s : State) (w : Wait) : (s.setWait w).launches = s.launches := rfl
@[simp] theorem State.setWait_queues (s : State) (w : Wait) : (s.setWait w).queues = s.queues := rfl
@[simp] theorem State.setWait_nextId (s : State) (w : Wait) : (s.setWait w).nextId = s.nextId := rfl
@[simp] theorem State.setWait_leaveQ (s : State) (w : Wait) : (s.setWait w).leaveQ = s.leaveQ := rfl
@[simp] theorem State.setWait_heavy (s : State) (w : Wait) : (s.setWait w).heavy = s.heavy := rfl
@[simp] theorem State.setWait_notices (s : State) (w : Wait) : (s.setWait w).notices = s.notices := rfl
@[simp] theorem State.setWait_msix (s : State) (w : Wait) : (s.setWait w).msix = s.msix := rfl
@[simp] theorem State.setWait_evseq (s : State) (w : Wait) : (s.setWait w).evseq = s.evseq := rfl
@[simp] theorem State.setWait_answer (s : State) (w : Wait) : (s.setWait w).answer = s.answer := rfl
@[simp] theorem State.setWait_free (s : State) (w : Wait) : (s.setWait w).free = s.free := rfl

@[simp] theorem State.setX_ctx (s : State) (r : Reg) (w : Word) : (s.setX r w).ctx = s.ctx.setX s.hart r w := rfl
@[simp] theorem State.setX_agenda (s : State) (r : Reg) (w : Word) : (s.setX r w).agenda = s.agenda := rfl
@[simp] theorem State.setX_hart (s : State) (r : Reg) (w : Word) : (s.setX r w).hart = s.hart := rfl
@[simp] theorem State.setX_others (s : State) (r : Reg) (w : Word) : (s.setX r w).others = s.others := rfl
@[simp] theorem State.setX_mem (s : State) (r : Reg) (w : Word) : (s.setX r w).mem = s.mem := rfl
@[simp] theorem State.setX_sideband (s : State) (r : Reg) (w : Word) : (s.setX r w).sideband = s.sideband := rfl
@[simp] theorem State.setX_poison (s : State) (r : Reg) (w : Word) : (s.setX r w).poison = s.poison := rfl
@[simp] theorem State.setX_correctable (s : State) (r : Reg) (w : Word) : (s.setX r w).correctable = s.correctable := rfl
@[simp] theorem State.setX_stores (s : State) (r : Reg) (w : Word) : (s.setX r w).stores = s.stores := rfl
@[simp] theorem State.setX_remote (s : State) (r : Reg) (w : Word) : (s.setX r w).remote = s.remote := rfl
@[simp] theorem State.setX_tlb (s : State) (r : Reg) (w : Word) : (s.setX r w).tlb = s.tlb := rfl
@[simp] theorem State.setX_dev (s : State) (r : Reg) (w : Word) : (s.setX r w).dev = s.dev := rfl
@[simp] theorem State.setX_maj (s : State) (r : Reg) (w : Word) : (s.setX r w).maj = s.maj := rfl
@[simp] theorem State.setX_repWrites (s : State) (r : Reg) (w : Word) : (s.setX r w).repWrites = s.repWrites := rfl
@[simp] theorem State.setX_repAnswers (s : State) (r : Reg) (w : Word) : (s.setX r w).repAnswers = s.repAnswers := rfl
@[simp] theorem State.setX_majRel (s : State) (r : Reg) (w : Word) : (s.setX r w).majRel = s.majRel := rfl
@[simp] theorem State.setX_launches (s : State) (r : Reg) (w : Word) : (s.setX r w).launches = s.launches := rfl
@[simp] theorem State.setX_queues (s : State) (r : Reg) (w : Word) : (s.setX r w).queues = s.queues := rfl
@[simp] theorem State.setX_nextId (s : State) (r : Reg) (w : Word) : (s.setX r w).nextId = s.nextId := rfl
@[simp] theorem State.setX_leaveQ (s : State) (r : Reg) (w : Word) : (s.setX r w).leaveQ = s.leaveQ := rfl
@[simp] theorem State.setX_heavy (s : State) (r : Reg) (w : Word) : (s.setX r w).heavy = s.heavy := rfl
@[simp] theorem State.setX_notices (s : State) (r : Reg) (w : Word) : (s.setX r w).notices = s.notices := rfl
@[simp] theorem State.setX_msix (s : State) (r : Reg) (w : Word) : (s.setX r w).msix = s.msix := rfl
@[simp] theorem State.setX_evseq (s : State) (r : Reg) (w : Word) : (s.setX r w).evseq = s.evseq := rfl
@[simp] theorem State.setX_answer (s : State) (r : Reg) (w : Word) : (s.setX r w).answer = s.answer := rfl
@[simp] theorem State.setX_free (s : State) (r : Reg) (w : Word) : (s.setX r w).free = s.free := rfl

@[simp] theorem State.orFlags_agenda (s : State) (f : BitVec 8) : (s.orFlags f).agenda = s.agenda := rfl
@[simp] theorem State.orFlags_hart (s : State) (f : BitVec 8) : (s.orFlags f).hart = s.hart := rfl
@[simp] theorem State.orFlags_others (s : State) (f : BitVec 8) : (s.orFlags f).others = s.others := rfl
@[simp] theorem State.orFlags_mem (s : State) (f : BitVec 8) : (s.orFlags f).mem = s.mem := rfl
@[simp] theorem State.orFlags_sideband (s : State) (f : BitVec 8) : (s.orFlags f).sideband = s.sideband := rfl
@[simp] theorem State.orFlags_poison (s : State) (f : BitVec 8) : (s.orFlags f).poison = s.poison := rfl
@[simp] theorem State.orFlags_correctable (s : State) (f : BitVec 8) : (s.orFlags f).correctable = s.correctable := rfl
@[simp] theorem State.orFlags_stores (s : State) (f : BitVec 8) : (s.orFlags f).stores = s.stores := rfl
@[simp] theorem State.orFlags_remote (s : State) (f : BitVec 8) : (s.orFlags f).remote = s.remote := rfl
@[simp] theorem State.orFlags_tlb (s : State) (f : BitVec 8) : (s.orFlags f).tlb = s.tlb := rfl
@[simp] theorem State.orFlags_dev (s : State) (f : BitVec 8) : (s.orFlags f).dev = s.dev := rfl
@[simp] theorem State.orFlags_maj (s : State) (f : BitVec 8) : (s.orFlags f).maj = s.maj := rfl
@[simp] theorem State.orFlags_repWrites (s : State) (f : BitVec 8) : (s.orFlags f).repWrites = s.repWrites := rfl
@[simp] theorem State.orFlags_repAnswers (s : State) (f : BitVec 8) : (s.orFlags f).repAnswers = s.repAnswers := rfl
@[simp] theorem State.orFlags_majRel (s : State) (f : BitVec 8) : (s.orFlags f).majRel = s.majRel := rfl
@[simp] theorem State.orFlags_launches (s : State) (f : BitVec 8) : (s.orFlags f).launches = s.launches := rfl
@[simp] theorem State.orFlags_queues (s : State) (f : BitVec 8) : (s.orFlags f).queues = s.queues := rfl
@[simp] theorem State.orFlags_nextId (s : State) (f : BitVec 8) : (s.orFlags f).nextId = s.nextId := rfl
@[simp] theorem State.orFlags_leaveQ (s : State) (f : BitVec 8) : (s.orFlags f).leaveQ = s.leaveQ := rfl
@[simp] theorem State.orFlags_heavy (s : State) (f : BitVec 8) : (s.orFlags f).heavy = s.heavy := rfl
@[simp] theorem State.orFlags_notices (s : State) (f : BitVec 8) : (s.orFlags f).notices = s.notices := rfl
@[simp] theorem State.orFlags_msix (s : State) (f : BitVec 8) : (s.orFlags f).msix = s.msix := rfl
@[simp] theorem State.orFlags_evseq (s : State) (f : BitVec 8) : (s.orFlags f).evseq = s.evseq := rfl
@[simp] theorem State.orFlags_answer (s : State) (f : BitVec 8) : (s.orFlags f).answer = s.answer := rfl
@[simp] theorem State.orFlags_free (s : State) (f : BitVec 8) : (s.orFlags f).free = s.free := rfl

@[simp] theorem State.mapLaunch_agenda (s : State) (id : Nat) (f : Launch → Launch) : (s.mapLaunch id f).agenda = s.agenda := rfl
@[simp] theorem State.mapLaunch_hart (s : State) (id : Nat) (f : Launch → Launch) : (s.mapLaunch id f).hart = s.hart := rfl
@[simp] theorem State.mapLaunch_ctx (s : State) (id : Nat) (f : Launch → Launch) : (s.mapLaunch id f).ctx = s.ctx := rfl
@[simp] theorem State.mapLaunch_others (s : State) (id : Nat) (f : Launch → Launch) : (s.mapLaunch id f).others = s.others := rfl
@[simp] theorem State.mapLaunch_mem (s : State) (id : Nat) (f : Launch → Launch) : (s.mapLaunch id f).mem = s.mem := rfl
@[simp] theorem State.mapLaunch_sideband (s : State) (id : Nat) (f : Launch → Launch) : (s.mapLaunch id f).sideband = s.sideband := rfl
@[simp] theorem State.mapLaunch_poison (s : State) (id : Nat) (f : Launch → Launch) : (s.mapLaunch id f).poison = s.poison := rfl
@[simp] theorem State.mapLaunch_correctable (s : State) (id : Nat) (f : Launch → Launch) : (s.mapLaunch id f).correctable = s.correctable := rfl
@[simp] theorem State.mapLaunch_stores (s : State) (id : Nat) (f : Launch → Launch) : (s.mapLaunch id f).stores = s.stores := rfl
@[simp] theorem State.mapLaunch_remote (s : State) (id : Nat) (f : Launch → Launch) : (s.mapLaunch id f).remote = s.remote := rfl
@[simp] theorem State.mapLaunch_tlb (s : State) (id : Nat) (f : Launch → Launch) : (s.mapLaunch id f).tlb = s.tlb := rfl
@[simp] theorem State.mapLaunch_dev (s : State) (id : Nat) (f : Launch → Launch) : (s.mapLaunch id f).dev = s.dev := rfl
@[simp] theorem State.mapLaunch_maj (s : State) (id : Nat) (f : Launch → Launch) : (s.mapLaunch id f).maj = s.maj := rfl
@[simp] theorem State.mapLaunch_repWrites (s : State) (id : Nat) (f : Launch → Launch) : (s.mapLaunch id f).repWrites = s.repWrites := rfl
@[simp] theorem State.mapLaunch_repAnswers (s : State) (id : Nat) (f : Launch → Launch) : (s.mapLaunch id f).repAnswers = s.repAnswers := rfl
@[simp] theorem State.mapLaunch_majRel (s : State) (id : Nat) (f : Launch → Launch) : (s.mapLaunch id f).majRel = s.majRel := rfl
@[simp] theorem State.mapLaunch_queues (s : State) (id : Nat) (f : Launch → Launch) : (s.mapLaunch id f).queues = s.queues := rfl
@[simp] theorem State.mapLaunch_nextId (s : State) (id : Nat) (f : Launch → Launch) : (s.mapLaunch id f).nextId = s.nextId := rfl
@[simp] theorem State.mapLaunch_leaveQ (s : State) (id : Nat) (f : Launch → Launch) : (s.mapLaunch id f).leaveQ = s.leaveQ := rfl
@[simp] theorem State.mapLaunch_heavy (s : State) (id : Nat) (f : Launch → Launch) : (s.mapLaunch id f).heavy = s.heavy := rfl
@[simp] theorem State.mapLaunch_notices (s : State) (id : Nat) (f : Launch → Launch) : (s.mapLaunch id f).notices = s.notices := rfl
@[simp] theorem State.mapLaunch_msix (s : State) (id : Nat) (f : Launch → Launch) : (s.mapLaunch id f).msix = s.msix := rfl
@[simp] theorem State.mapLaunch_evseq (s : State) (id : Nat) (f : Launch → Launch) : (s.mapLaunch id f).evseq = s.evseq := rfl
@[simp] theorem State.mapLaunch_answer (s : State) (id : Nat) (f : Launch → Launch) : (s.mapLaunch id f).answer = s.answer := rfl
@[simp] theorem State.mapLaunch_free (s : State) (id : Nat) (f : Launch → Launch) : (s.mapLaunch id f).free = s.free := rfl

@[simp] theorem State.pkgEvent_agenda (s : State)  : (s.pkgEvent).agenda = s.agenda := rfl
@[simp] theorem State.pkgEvent_hart (s : State)  : (s.pkgEvent).hart = s.hart := rfl
@[simp] theorem State.pkgEvent_ctx (s : State)  : (s.pkgEvent).ctx = s.ctx := rfl
@[simp] theorem State.pkgEvent_others (s : State)  : (s.pkgEvent).others = s.others := rfl
@[simp] theorem State.pkgEvent_mem (s : State)  : (s.pkgEvent).mem = s.mem := rfl
@[simp] theorem State.pkgEvent_sideband (s : State)  : (s.pkgEvent).sideband = s.sideband := rfl
@[simp] theorem State.pkgEvent_poison (s : State)  : (s.pkgEvent).poison = s.poison := rfl
@[simp] theorem State.pkgEvent_correctable (s : State)  : (s.pkgEvent).correctable = s.correctable := rfl
@[simp] theorem State.pkgEvent_stores (s : State)  : (s.pkgEvent).stores = s.stores := rfl
@[simp] theorem State.pkgEvent_remote (s : State)  : (s.pkgEvent).remote = s.remote := rfl
@[simp] theorem State.pkgEvent_tlb (s : State)  : (s.pkgEvent).tlb = s.tlb := rfl
@[simp] theorem State.pkgEvent_dev (s : State)  : (s.pkgEvent).dev = s.dev := rfl
@[simp] theorem State.pkgEvent_maj (s : State)  : (s.pkgEvent).maj = s.maj := rfl
@[simp] theorem State.pkgEvent_repWrites (s : State)  : (s.pkgEvent).repWrites = s.repWrites := rfl
@[simp] theorem State.pkgEvent_repAnswers (s : State)  : (s.pkgEvent).repAnswers = s.repAnswers := rfl
@[simp] theorem State.pkgEvent_majRel (s : State)  : (s.pkgEvent).majRel = s.majRel := rfl
@[simp] theorem State.pkgEvent_launches (s : State)  : (s.pkgEvent).launches = s.launches := rfl
@[simp] theorem State.pkgEvent_queues (s : State)  : (s.pkgEvent).queues = s.queues := rfl
@[simp] theorem State.pkgEvent_nextId (s : State)  : (s.pkgEvent).nextId = s.nextId := rfl
@[simp] theorem State.pkgEvent_leaveQ (s : State)  : (s.pkgEvent).leaveQ = s.leaveQ := rfl
@[simp] theorem State.pkgEvent_heavy (s : State)  : (s.pkgEvent).heavy = s.heavy := rfl
@[simp] theorem State.pkgEvent_notices (s : State)  : (s.pkgEvent).notices = s.notices := rfl
@[simp] theorem State.pkgEvent_msix (s : State)  : (s.pkgEvent).msix = s.msix := rfl
@[simp] theorem State.pkgEvent_answer (s : State)  : (s.pkgEvent).answer = s.answer := rfl
@[simp] theorem State.pkgEvent_free (s : State)  : (s.pkgEvent).free = s.free := rfl

@[simp] theorem State.draw_agenda (s : State)  : (s.draw.2).agenda = s.agenda := rfl
@[simp] theorem State.draw_hart (s : State)  : (s.draw.2).hart = s.hart := rfl
@[simp] theorem State.draw_ctx (s : State)  : (s.draw.2).ctx = s.ctx := rfl
@[simp] theorem State.draw_others (s : State)  : (s.draw.2).others = s.others := rfl
@[simp] theorem State.draw_mem (s : State)  : (s.draw.2).mem = s.mem := rfl
@[simp] theorem State.draw_sideband (s : State)  : (s.draw.2).sideband = s.sideband := rfl
@[simp] theorem State.draw_poison (s : State)  : (s.draw.2).poison = s.poison := rfl
@[simp] theorem State.draw_correctable (s : State)  : (s.draw.2).correctable = s.correctable := rfl
@[simp] theorem State.draw_stores (s : State)  : (s.draw.2).stores = s.stores := rfl
@[simp] theorem State.draw_remote (s : State)  : (s.draw.2).remote = s.remote := rfl
@[simp] theorem State.draw_tlb (s : State)  : (s.draw.2).tlb = s.tlb := rfl
@[simp] theorem State.draw_dev (s : State)  : (s.draw.2).dev = s.dev := rfl
@[simp] theorem State.draw_maj (s : State)  : (s.draw.2).maj = s.maj := rfl
@[simp] theorem State.draw_repWrites (s : State)  : (s.draw.2).repWrites = s.repWrites := rfl
@[simp] theorem State.draw_repAnswers (s : State)  : (s.draw.2).repAnswers = s.repAnswers := rfl
@[simp] theorem State.draw_majRel (s : State)  : (s.draw.2).majRel = s.majRel := rfl
@[simp] theorem State.draw_launches (s : State)  : (s.draw.2).launches = s.launches := rfl
@[simp] theorem State.draw_queues (s : State)  : (s.draw.2).queues = s.queues := rfl
@[simp] theorem State.draw_nextId (s : State)  : (s.draw.2).nextId = s.nextId := rfl
@[simp] theorem State.draw_leaveQ (s : State)  : (s.draw.2).leaveQ = s.leaveQ := rfl
@[simp] theorem State.draw_heavy (s : State)  : (s.draw.2).heavy = s.heavy := rfl
@[simp] theorem State.draw_notices (s : State)  : (s.draw.2).notices = s.notices := rfl
@[simp] theorem State.draw_msix (s : State)  : (s.draw.2).msix = s.msix := rfl
@[simp] theorem State.draw_evseq (s : State)  : (s.draw.2).evseq = s.evseq := rfl
@[simp] theorem State.draw_answer (s : State)  : (s.draw.2).answer = s.answer := rfl

/-! ## Updates of a context -/

@[simp] theorem Context.setHs_core (c : Context) (h : HartId) (x : HartSt) : (c.setHs h x).core = c.core := by cases h <;> rfl
@[simp] theorem Context.setHs_bank (c : Context) (h : HartId) (x : HartSt) : (c.setHs h x).bank = c.bank := by cases h <;> rfl
@[simp] theorem Context.setHs_place (c : Context) (h : HartId) (x : HartSt) : (c.setHs h x).place = c.place := by cases h <;> rfl
@[simp] theorem Context.setHs_launch (c : Context) (h : HartId) (x : HartSt) : (c.setHs h x).launch = c.launch := by cases h <;> rfl
@[simp] theorem Context.setHs_item (c : Context) (h : HartId) (x : HartSt) : (c.setHs h x).item = c.item := by cases h <;> rfl
@[simp] theorem Context.setHs_asid (c : Context) (h : HartId) (x : HartSt) : (c.setHs h x).asid = c.asid := by cases h <;> rfl
@[simp] theorem Context.setHs_ctl (c : Context) (h : HartId) (x : HartSt) : (c.setHs h x).ctl = c.ctl := by cases h <;> rfl
@[simp] theorem Context.setHs_ax (c : Context) (h : HartId) (x : HartSt) : (c.setHs h x).ax = c.ax := by cases h <;> rfl
@[simp] theorem Context.setHs_v (c : Context) (h : HartId) (x : HartSt) : (c.setHs h x).v = c.v := by cases h <;> rfl
@[simp] theorem Context.setHs_q (c : Context) (h : HartId) (x : HartSt) : (c.setHs h x).q = c.q := by cases h <;> rfl
@[simp] theorem Context.setHs_sr (c : Context) (h : HartId) (x : HartSt) : (c.setHs h x).sr = c.sr := by cases h <;> rfl
@[simp] theorem Context.setHs_m (c : Context) (h : HartId) (x : HartSt) : (c.setHs h x).m = c.m := by cases h <;> rfl
@[simp] theorem Context.setHs_spad (c : Context) (h : HartId) (x : HartSt) : (c.setHs h x).spad = c.spad := by cases h <;> rfl
@[simp] theorem Context.setHs_cmds (c : Context) (h : HartId) (x : HartSt) : (c.setHs h x).cmds = c.cmds := by cases h <;> rfl
@[simp] theorem Context.setHs_ray (c : Context) (h : HartId) (x : HartSt) : (c.setHs h x).ray = c.ray := by cases h <;> rfl
@[simp] theorem Context.setHs_strip (c : Context) (h : HartId) (x : HartSt) : (c.setHs h x).strip = c.strip := by cases h <;> rfl
@[simp] theorem Context.setHs_vps (c : Context) (h : HartId) (x : HartSt) : (c.setHs h x).vps = c.vps := by cases h <;> rfl
@[simp] theorem Context.setHs_kids (c : Context) (h : HartId) (x : HartSt) : (c.setHs h x).kids = c.kids := by cases h <;> rfl
@[simp] theorem Context.setHs_win (c : Context) (h : HartId) (x : HartSt) : (c.setHs h x).win = c.win := by cases h <;> rfl
@[simp] theorem Context.setHs_standing (c : Context) (h : HartId) (x : HartSt) : (c.setHs h x).standing = c.standing := by cases h <;> rfl
@[simp] theorem Context.setHs_save (c : Context) (h : HartId) (x : HartSt) : (c.setHs h x).save = c.save := by cases h <;> rfl
@[simp] theorem Context.setHs_qk (c : Context) (h : HartId) (x : HartSt) : (c.setHs h x).qk = c.qk := by cases h <;> rfl
@[simp] theorem Context.setHs_slog (c : Context) (h : HartId) (x : HartSt) : (c.setHs h x).slog = c.slog := by cases h <;> rfl
@[simp] theorem Context.setHs_lane (c : Context) (h : HartId) (x : HartSt) : (c.setHs h x).lane = c.lane := by cases h <;> rfl
@[simp] theorem Context.setHs_same (c : Context) (h : HartId) (x : HartSt) : (c.setHs h x).hs h = x := by cases h <;> rfl
@[simp] theorem Context.setHs_other (c : Context) (h : HartId) (x : HartSt) : (c.setHs h x).hs h.other = c.hs h.other := by
  cases h <;> rfl

@[simp] theorem Context.setX_core (c : Context) (h : HartId) (r : Reg) (w : Word) : (c.setX h r w).core = c.core := by
  cases h <;> rfl
@[simp] theorem Context.setX_bank (c : Context) (h : HartId) (r : Reg) (w : Word) : (c.setX h r w).bank = c.bank := by
  cases h <;> rfl
@[simp] theorem Context.setX_place (c : Context) (h : HartId) (r : Reg) (w : Word) : (c.setX h r w).place = c.place := by
  cases h <;> rfl
@[simp] theorem Context.setX_launch (c : Context) (h : HartId) (r : Reg) (w : Word) : (c.setX h r w).launch = c.launch := by
  cases h <;> rfl
@[simp] theorem Context.setX_item (c : Context) (h : HartId) (r : Reg) (w : Word) : (c.setX h r w).item = c.item := by
  cases h <;> rfl
@[simp] theorem Context.setX_asid (c : Context) (h : HartId) (r : Reg) (w : Word) : (c.setX h r w).asid = c.asid := by
  cases h <;> rfl
@[simp] theorem Context.setX_ctl (c : Context) (h : HartId) (r : Reg) (w : Word) : (c.setX h r w).ctl = c.ctl := by
  cases h <;> rfl
@[simp] theorem Context.setX_ah (c : Context) (h : HartId) (r : Reg) (w : Word) : (c.setX h r w).ah = c.ah := by
  cases h <;> rfl
@[simp] theorem Context.setX_xh (c : Context) (h : HartId) (r : Reg) (w : Word) : (c.setX h r w).xh = c.xh := by
  cases h <;> rfl
@[simp] theorem Context.setX_q (c : Context) (h : HartId) (r : Reg) (w : Word) : (c.setX h r w).q = c.q := by
  cases h <;> rfl
@[simp] theorem Context.setX_sr (c : Context) (h : HartId) (r : Reg) (w : Word) : (c.setX h r w).sr = c.sr := by
  cases h <;> rfl
@[simp] theorem Context.setX_m (c : Context) (h : HartId) (r : Reg) (w : Word) : (c.setX h r w).m = c.m := by
  cases h <;> rfl
@[simp] theorem Context.setX_spad (c : Context) (h : HartId) (r : Reg) (w : Word) : (c.setX h r w).spad = c.spad := by
  cases h <;> rfl
@[simp] theorem Context.setX_cmds (c : Context) (h : HartId) (r : Reg) (w : Word) : (c.setX h r w).cmds = c.cmds := by
  cases h <;> rfl
@[simp] theorem Context.setX_ray (c : Context) (h : HartId) (r : Reg) (w : Word) : (c.setX h r w).ray = c.ray := by
  cases h <;> rfl
@[simp] theorem Context.setX_strip (c : Context) (h : HartId) (r : Reg) (w : Word) : (c.setX h r w).strip = c.strip := by
  cases h <;> rfl
@[simp] theorem Context.setX_vps (c : Context) (h : HartId) (r : Reg) (w : Word) : (c.setX h r w).vps = c.vps := by
  cases h <;> rfl
@[simp] theorem Context.setX_kids (c : Context) (h : HartId) (r : Reg) (w : Word) : (c.setX h r w).kids = c.kids := by
  cases h <;> rfl
@[simp] theorem Context.setX_win (c : Context) (h : HartId) (r : Reg) (w : Word) : (c.setX h r w).win = c.win := by
  cases h <;> rfl
@[simp] theorem Context.setX_standing (c : Context) (h : HartId) (r : Reg) (w : Word) : (c.setX h r w).standing = c.standing := by
  cases h <;> rfl
@[simp] theorem Context.setX_save (c : Context) (h : HartId) (r : Reg) (w : Word) : (c.setX h r w).save = c.save := by
  cases h <;> rfl
@[simp] theorem Context.setX_qk (c : Context) (h : HartId) (r : Reg) (w : Word) : (c.setX h r w).qk = c.qk := by
  cases h <;> rfl
@[simp] theorem Context.setX_slog (c : Context) (h : HartId) (r : Reg) (w : Word) : (c.setX h r w).slog = c.slog := by
  cases h <;> rfl
@[simp] theorem Context.setX_lane (c : Context) (h : HartId) (r : Reg) (w : Word) : (c.setX h r w).lane = c.lane := by
  cases h <;> rfl
@[simp] theorem Context.setX_hs (c : Context) (h k : HartId) (r : Reg) (w : Word) : (c.setX h r w).hs k = c.hs k := by
  cases h <;> cases k <;> rfl

/-! ## The hart in focus -/

@[simp] theorem State.setHs_hs (s : State) (x : HartSt) : (s.setHs x).hs = x := Context.setHs_same s.ctx s.hart x
@[simp] theorem State.setPc_hs (s : State) (a : Word) : (s.setPc a).hs = { s.hs with pc := a } := State.setHs_hs s _
@[simp] theorem State.advance_hs (s : State) : s.advance.hs = { s.hs with pc := s.hs.pc + 8#64 } := State.setPc_hs s _
@[simp] theorem State.setWait_hs (s : State) (w : Wait) : (s.setWait w).hs = { s.hs with wait := w } := State.setHs_hs s _
@[simp] theorem State.setX_hs (s : State) (r : Reg) (w : Word) : (s.setX r w).hs = s.hs := Context.setX_hs s.ctx s.hart s.hart r w
@[simp] theorem State.setX_pc (s : State) (r : Reg) (w : Word) : (s.setX r w).pc = s.pc := by simp [State.pc]
@[simp] theorem State.setWait_pc (s : State) (w : Wait) : (s.setWait w).pc = s.pc := by simp [State.pc]
@[simp] theorem State.advance_pc (s : State) : s.advance.pc = s.pc + 8#64 := by simp [State.pc]
@[simp] theorem State.setPc_pc (s : State) (a : Word) : (s.setPc a).pc = a := by simp [State.pc]

end Sys2Proof.Machine
end

