-- ==== Sys2Proof/Laws/Regs.lean ====
section
/-! SUPPORT. Registers: what a read gives after a write, and what a write of one register leaves of every other. -/

namespace Sys2Proof.Machine

/-! ## Rows and grade masks -/

theorem Vec.raw_setRaw (v : Vec) (r row : Nat) (x : Row) (r' row' : Nat) (h : row < 16) (h' : row' < 16) :
    (v.setRaw r row x).raw r' row' = if r = r' ∧ row = row' then x else v.raw r' row' := by
  simp only [Vec.setRaw, Vec.raw, Sparse.get_set]
  by_cases e : r = r' ∧ row = row'
  · obtain ⟨rfl, rfl⟩ := e; simp
  · rw [if_neg e, if_neg]; omega

@[simp] theorem Vec.mask_setRaw (v : Vec) (r row : Nat) (x : Row) (r' : Nat) : (v.setRaw r row x).mask r' = v.mask r' := rfl

theorem Vec.zeroRows (l : List Nat) (v : Vec) (r g r' row' : Nat) (z : Row) (h : row' < 16) (hl : ∀ a ∈ l, a < 16) :
    let u := l.foldl (fun v row => if gradeOfRow row = g then v.setRaw r row z else v) v
    u.raw r' row' = (if r = r' ∧ row' ∈ l ∧ gradeOfRow row' = g then z else v.raw r' row') ∧ u.mask r' = v.mask r' := by
  induction l generalizing v with
  | nil => simp
  | cons a t ih =>
    have ha : a < 16 := hl a List.mem_cons_self
    have ht : ∀ b ∈ t, b < 16 := fun b hb => hl b (List.mem_cons_of_mem _ hb)
    simp only [List.foldl_cons]
    split
    · rename_i hg
      obtain ⟨h1, h2⟩ := ih (v.setRaw r a z) ht
      refine ⟨?_, h2⟩
      rw [h1, Vec.raw_setRaw v r a _ r' row' ha h]
      by_cases e : a = row'
      · subst e
        by_cases hr : r = r'
        · by_cases ht : a ∈ t <;> simp [hr, hg, ht]
        · simp [hr]
      · have e' : ¬ row' = a := fun h => e h.symm
        simp [e, e']
    · rename_i hg
      obtain ⟨h1, h2⟩ := ih v ht
      refine ⟨?_, h2⟩
      rw [h1]
      by_cases e : row' = a
      · subst e; simp [hg]
      · simp [e]

theorem Vec.raw_revive (v : Vec) (r row r' row' : Nat) (h : row' < 16) :
    (v.revive r row).raw r' row' =
      if r = r' ∧ (v.mask r).getLsbD (gradeOfRow row) = false ∧ gradeOfRow row' = gradeOfRow row then 0#4096 else v.raw r' row' := by
  simp only [Vec.revive]
  split
  · rename_i hm; simp [hm]
  · rename_i hm
    have := (Vec.zeroRows (List.range 16) v r (gradeOfRow row) r' row' 0#4096 h (by simp)).1
    have hz : (v.zeroGrade r (gradeOfRow row)).raw r' row' = _ := this
    simp only [Vec.raw, Vec.setMask] at hz ⊢
    simp only [Bool.not_eq_true] at hm
    simp only [hz, hm, List.mem_range, h, true_and]

theorem Vec.mask_revive (v : Vec) (r row r' : Nat) :
    (v.revive r row).mask r' =
      if r = r' ∧ (v.mask r).getLsbD (gradeOfRow row) = false then v.mask r ||| BitVec.ofNat 5 (2 ^ gradeOfRow row) else v.mask r' := by
  simp only [Vec.revive]
  split
  · rename_i hm; simp [hm]
  · rename_i hm
    have hz := (Vec.zeroRows (List.range 16) v r (gradeOfRow row) r' 0 0#4096 (by omega) (by simp)).2
    have hz' : (v.zeroGrade r (gradeOfRow row)).mask r' = v.mask r' := hz
    simp only [Bool.not_eq_true] at hm
    simp only [Vec.mask, Vec.setMask, Sparse.get_set] at hz' ⊢
    by_cases e : r = r'
    · subst e; simp [Vec.mask] at hm; simp [hm]
    · simp [e, hz']

theorem slot0_low (x : Row) (w : Word) : (slot0 x w).extractLsb' 0 64 = w := by
  unfold slot0
  ext i hi
  simp only [BitVec.getElem_extractLsb', Nat.zero_add]
  have : (x.extractLsb' 64 4032 ++ w).getLsbD i = w.getLsbD i := by
    rw [BitVec.getLsbD_append, if_pos hi]
  exact this.trans (BitVec.getLsbD_eq_getElem hi)

/-- A scalar read of the execute hart after a scalar write. -/
theorem Vec.x_setX (v : Vec) (d r : Nat) (w : Word) : (v.setX d w).x r = if d = r then w else v.x r := by
  have hg : gradeOfRow 0 = 0 := rfl
  simp only [Vec.x, Vec.setX, Vec.row, hg, Vec.mask_setRaw, Vec.mask_revive]
  rw [Vec.raw_setRaw _ _ _ _ _ _ (by omega) (by omega)]
  by_cases e : d = r
  · subst e
    simp only [true_and, and_self, if_true]
    split
    · rename_i h
      have : (v.mask d ||| BitVec.ofNat 5 (2 ^ 0)).getLsbD 0 = true := by simp
      rw [this, if_pos rfl, slot0_low]
    · rename_i h
      simp only [Bool.not_eq_false] at h
      rw [h, if_pos rfl, slot0_low]
  · have e1 (p : Prop) : ¬ (d = r ∧ p) := fun h => e h.1
    simp only [if_neg (e1 _), if_neg e]
    rw [Vec.raw_revive _ _ _ _ _ (by omega), if_neg (e1 _)]

/-! ## Scalar registers -/

/-- A read of an x register after a write of one by the same hart. -/
theorem Context.x_setX (c : Context) (h : HartId) (d r : Reg) (w : Word) :
    (c.setX h d w).x h r = if d = r then w else c.x h r := by
  have e : (d.toNat = r.toNat) = (d = r) := by simp [BitVec.toNat_inj]
  cases h
  · simp only [Context.x, Context.setX, Sparse.get_set, e]
  · simp only [Context.x, Context.setX, Vec.x_setX, e]

/-- The other hart's x registers are its own. -/
theorem Context.x_setX_other (c : Context) (h : HartId) (d r : Reg) (w : Word) :
    (c.setX h d w).x h.other r = c.x h.other r := by
  cases h <;> rfl

theorem State.x_setX (s : State) (d r : Reg) (w : Word) : (s.setX d w).x r = if d = r then w else s.x r :=
  Context.x_setX s.ctx s.hart d r w

@[simp] theorem State.x_setX_same (s : State) (d : Reg) (w : Word) : (s.setX d w).x d = w := by simp [State.x_setX]

@[simp] theorem State.x_advance (s : State) (r : Reg) : s.advance.x r = s.x r := by
  show (s.ctx.setHs s.hart _).x s.hart r = s.ctx.x s.hart r
  cases s.hart <;> rfl

@[simp] theorem State.x_setWait (s : State) (w : Wait) (r : Reg) : (s.setWait w).x r = s.x r := by
  show (s.ctx.setHs s.hart _).x s.hart r = s.ctx.x s.hart r
  cases s.hart <;> rfl

@[simp] theorem State.x_setPc (s : State) (a : Word) (r : Reg) : (s.setPc a).x r = s.x r := by
  show (s.ctx.setHs s.hart _).x s.hart r = s.ctx.x s.hart r
  cases s.hart <;> rfl

/-! ## Predicates -/

@[simp] theorem Vec.pred_p0 (v : Vec) : v.pred 0#4 = BitVec.allOnes 512 := rfl

theorem Vec.pred_setPred (v : Vec) (p q : PReg) (x : Pred) (h : p ≠ 0#4) :
    (v.setPred p x).pred q = if p = q then x else v.pred q := by
  have e : (p.toNat = q.toNat) = (p = q) := by simp [BitVec.toNat_inj]
  simp only [Vec.setPred, Vec.pred, if_neg h, Sparse.get_set, e]
  by_cases hq : p = q
  · subst hq; simp [h]
  · simp [hq]

@[simp] theorem Vec.setPred_p0 (v : Vec) (x : Pred) : v.setPred 0#4 x = v := rfl

end Sys2Proof.Machine
end

