-- ==== Sys2Proof/Laws/Frames.lean ====
section
/-! SUPPORT. The frames of the statements: the ends that a scalar instruction has, each with all that it leaves as it was. -/

namespace Sys2Proof.Claims
open Sys2Proof.Machine

theorem SameMemory.of_eq {s t : State} (h1 : t.mem = s.mem) (h2 : t.stores = s.stores) : SameMemory s t := by
  intro v a; simp [State.byte, State.byteBy, h1, h2]

/-! ## A scalar write of the execute hart -/

theorem gradeOfRow_pos {row : Nat} (h : row ≠ 0) : gradeOfRow row ≠ 0 := by
  unfold gradeOfRow; rw [if_neg h]; split <;> (try split) <;> (try split) <;> decide

theorem mask_or_bit (m : BitVec 5) (g : Nat) (hg : g ≠ 0) : (m ||| BitVec.ofNat 5 (2 ^ 0)).getLsbD g = m.getLsbD g := by
  have : (1#5).getLsbD g = false := by
    cases g with
    | zero => exact absurd rfl hg
    | succ n => simp [BitVec.getLsbD, Nat.testBit_succ]
  simp [BitVec.getLsbD_or, this]

theorem row_setX (v : Vec) (d : Reg) (w : Word) (r row : Nat) (hr : row < 16) (hn : r ≠ d.toNat ∨ row ≠ 0) :
    (v.setX d.toNat w).row r row = v.row r row := by
  simp only [Vec.row, Vec.setX, Vec.mask_setRaw, Vec.mask_revive]
  rw [Vec.raw_setRaw _ _ _ _ _ _ (by omega) hr, Vec.raw_revive _ _ _ _ _ hr]
  have hne : ¬ (d.toNat = r ∧ 0 = row) := by omega
  rw [if_neg hne]
  have h0 : gradeOfRow 0 = 0 := rfl
  by_cases e : d.toNat = r
  · subst e
    have hg : gradeOfRow row ≠ 0 := gradeOfRow_pos (by simpa using hn)
    simp only [h0, true_and, hg, and_false, if_false]
    split
    · rw [mask_or_bit _ _ hg]
    · rfl
  · have e1 (p : Prop) : ¬ (d.toNat = r ∧ p) := fun h => e h.1
    simp only [if_neg (e1 _)]

theorem slot0_high (x : Row) (w : Word) : (slot0 x w).extractLsb' 64 4032 = x.extractLsb' 64 4032 := by
  unfold slot0
  ext i hi
  simp only [BitVec.getElem_extractLsb']
  have : (x.extractLsb' 64 4032 ++ w).getLsbD (64 + i) = (x.extractLsb' 64 4032).getLsbD i := by
    rw [BitVec.getLsbD_append, if_neg (by omega)]; congr 1; omega
  exact this.trans (by simp [hi])

theorem raw_revive_zero (v : Vec) (d : Nat) : (v.revive d 0).raw d 0 = v.row d 0 := by
  rw [Vec.raw_revive _ _ _ _ _ (by omega)]
  have h0 : gradeOfRow 0 = 0 := rfl
  simp only [Vec.row, h0, true_and, and_true]
  cases (v.mask d).getLsbD 0 <;> rfl

theorem high_setX (v : Vec) (d : Nat) (w : Word) :
    ((v.setX d w).row d 0).extractLsb' 64 4032 = (v.row d 0).extractLsb' 64 4032 := by
  have h0 : gradeOfRow 0 = 0 := rfl
  have e : (v.setX d w).row d 0 = slot0 (v.row d 0) w := by
    conv_lhs => rw [Vec.row]
    simp only [Vec.setX, Vec.mask_setRaw, Vec.mask_revive, h0, true_and]
    rw [Vec.raw_setRaw _ _ _ _ _ _ (by omega) (by omega), raw_revive_zero]
    simp only [and_self, if_true]
    split
    · have : (v.mask d ||| BitVec.ofNat 5 (2 ^ 0)).getLsbD 0 = true := by simp
      rw [if_pos this]
    · rename_i h
      rw [if_pos (by simpa using h)]
  rw [e, slot0_high]

theorem mask_setX (v : Vec) (d r : Nat) (w : Word) (h : r ≠ d) : (v.setX d w).mask r = v.mask r := by
  simp only [Vec.setX, Vec.mask_setRaw, Vec.mask_revive]
  rw [if_neg (by omega)]

theorem zeroRows_rest (r g : Nat) (z : Row) (l : List Nat) (v : Vec) :
    ∃ x, (l.foldl (fun v row => if gradeOfRow row = g then v.setRaw r row z else v) v) = { v with rows := x } := by
  induction l generalizing v with
  | nil => exact ⟨v.rows, rfl⟩
  | cons a t ih =>
    simp only [List.foldl_cons]
    split
    · obtain ⟨x, h⟩ := ih (v.setRaw r a z); exact ⟨x, h⟩
    · exact ih v

theorem setX_rest (v : Vec) (d : Nat) (w : Word) : v.setX d w = { v with rows := (v.setX d w).rows, gm := (v.setX d w).gm } := by
  have h : ∃ x g, v.revive d 0 = { v with rows := x, gm := g } := by
    unfold Vec.revive
    dsimp only
    split
    · exact ⟨v.rows, v.gm, rfl⟩
    · obtain ⟨x, h⟩ := zeroRows_rest d (gradeOfRow 0) 0#4096 (List.range 16) v
      unfold Vec.zeroGrade
      rw [h]; exact ⟨x, _, rfl⟩
  obtain ⟨x, g, h⟩ := h
  unfold Vec.setX
  dsimp only
  rw [h]; rfl

/-! ## The ends of an instruction -/

theorem wrote_setX (s : State) (d : Reg) (w : Word) (pc : Word) : Wrote s (((s.setX d w).setPc pc).setWait .none) d w := by
  rcases s with ⟨ag, h, c, _⟩
  cases h
  · refine ⟨⟨⟨rfl, .of_eq rfl rfl⟩, rfl, rfl, rfl, rfl, fun _ => rfl, fun h => nomatch h⟩, ?_, ?_, ?_, ?_⟩
    · intro r
      rw [State.x_setWait, State.x_setPc, State.x_setX]; simp [eq_comm]
    · intros; rfl
    · intros; rfl
    · rfl
  · refine ⟨⟨⟨rfl, .of_eq rfl rfl⟩, rfl, ?_, rfl, rfl, (fun h => nomatch h), fun _ => rfl⟩, ?_, ?_, ?_, ?_⟩
    · exact setX_rest c.v d.toNat w
    · intro r
      rw [State.x_setWait, State.x_setPc, State.x_setX]; simp [eq_comm]
    · intro r row _ hr hn; exact row_setX c.v d w r row hr hn
    · intro r hr; exact mask_setX c.v d.toNat r w hr
    · exact high_setX c.v d.toNat w

theorem pc_setX (s : State) (d : Reg) (w : Word) : (s.setX d w).pc = s.pc := by
  rcases s with ⟨ag, h, c, _⟩
  cases h <;> rfl

theorem pc_setPc (s : State) (pc : Word) : ((s.setPc pc).setWait .none).pc = pc := by
  rcases s with ⟨ag, h, c, _⟩
  cases h <;> rfl
theorem fstat_setX (s : State) (d : Reg) (w : Word) (pc : Word) : (((s.setX d w).setPc pc).setWait .none).hs.fstat = s.hs.fstat := by
  rcases s with ⟨ag, h, c, _⟩
  cases h <;> rfl

/-- An instruction whose end is `finX` writes its register. -/
theorem Writes.of_exec {i : Instr} {s : State} {d : Reg} {w : Word} (h : exec i s = .next ((s.setX d w).advance.setWait .none)) :
    Writes i s d w := by
  have e : (s.setX d w).advance = (s.setX d w).setPc (s.pc + 8#64) := by rw [State.advance, pc_setX]
  rw [e] at h
  exact ⟨_, h, wrote_setX s d w _, pc_setPc _ _, fstat_setX s d w _⟩

theorem Jumps.of_exec {i : Instr} {s : State} {pc : Word} (h : exec i s = .next ((s.setPc pc).setWait .none)) : Jumps i s pc := by
  refine ⟨_, h, ?_⟩
  rcases s with ⟨ag, hh, c, _⟩
  cases hh <;> exact ⟨⟨⟨⟨rfl, .of_eq rfl rfl⟩, rfl, rfl, rfl, rfl, fun _ => rfl, fun _ => rfl⟩, rfl, rfl⟩, rfl, rfl⟩

/-! ## The trap entry -/

/-- A hart is replaced and one of its registers written. -/
theorem setHs_setX (s : State) (x : HartSt) (d : Reg) (w : Word) :
    let t := s.setCtx ((s.ctx.setHs s.hart x).setX s.hart d w)
    OnlyCtx s t ∧ t.ctx = { s.ctx with ah := t.ctx.ah, xh := t.ctx.xh, ax := t.ctx.ax, v := t.ctx.v } ∧
    t.ctx.v = { s.ctx.v with rows := t.ctx.v.rows, gm := t.ctx.v.gm } ∧
    t.ctx.hs s.hart.other = s.ctx.hs s.hart.other ∧ t.hs = x ∧ (∀ r, t.x r = if r = d then w else s.x r) ∧
    ∀ r row, r < 32 → row < 16 → r ≠ d.toNat ∨ row ≠ 0 → t.ctx.v.row r row = s.ctx.v.row r row := by
  rcases s with ⟨ag, hh, c, _⟩
  cases hh
  · refine ⟨⟨rfl, .of_eq rfl rfl⟩, rfl, rfl, rfl, rfl, ?_, fun _ _ _ _ _ => rfl⟩
    intro r
    simp only [State.x, State.setCtx, Context.x_setX, eq_comm (a := d)]
    rfl
  · refine ⟨⟨rfl, .of_eq rfl rfl⟩, rfl, setX_rest c.v d.toNat w, rfl, rfl, ?_, ?_⟩
    · intro r
      simp only [State.x, State.setCtx, Context.x_setX, eq_comm (a := d)]
      rfl
    · intro r row _ hr hn; exact row_setX c.v d w r row hr hn

theorem Entered.of_takeTrap {s : State} {t : Trap} (hm : s.hs.handler = false) (hw : s.ctx.sr.hwin.getLsbD 63 = true)
    (hc : t.cause ≠ Cause.machineCheck) (hl : t.lb = false) (pc npc : Word) :
    Entered s (s.takeTrap s.hart t pc npc false) t.cause t.addr t.info pc npc := by
  rw [State.takeTrap_entry _ _ _ _ _ _ hm hw hc, hl]
  obtain ⟨h1, h2, h3, h4, h5, h6, h7⟩ := setHs_setX s { s.ctx.hs s.hart with
    pc := entryOf s.ctx.sr.hwin s.hart, wait := .none,
    t := { (s.ctx.hs s.hart).t with
      tcause := BitVec.ofNat 64 t.cause, taddr := t.addr, tinfo := t.info, tpc := pc, tnpc := npc, tsp := s.ctx.x s.hart 30#5,
      hstat := (s.ctx.hs s.hart).t.hstat ||| 1#64 } } 30#5 (stackTop s.ctx.sr.hwin s.hart)
  exact ⟨h1, h2, h3, h4, h5, h6, h7⟩

/-- An instruction that comes to a trap with its state unchanged enters the handler. -/
theorem Traps.of_exec {i : Instr} {s : State} (t : Trap) (h : exec i s = conclude s (.trap t s)) (hc : t.cause ≠ Cause.machineCheck)
    (hl : t.lb = false) (hn : t.toNext = false) : Traps i s t.cause t.addr t.info := by
  intro ⟨hm, hw, hv⟩
  rw [conclude_trap _ _ _ hv, hn] at h
  exact ⟨_, h, Entered.of_takeTrap hm hw hc hl _ _⟩

end Sys2Proof.Claims
end

