-- ==== Sys2Proof/Laws/PerInstr.lean ====
section
/-! SUPPORT. One fact about the word of every instruction, constructor by constructor: its form bits are never 11, the form that
13 R271 reserves. -/

namespace Sys2Proof.Laws.Encodes

/-- The word of an instruction that has one is of the F, P or X form. -/
def Statement (i : Instr) : Prop := i.hasWord = true → i.encode.extractLsb' 62 2 ≠ 3#2

theorem of_top (w : Word) (h : w.getLsbD 62 = false ∨ w.getLsbD 63 = false) : w.extractLsb' 62 2 ≠ 3#2 := by
  intro e
  have h0 := congrArg (fun x : BitVec 2 => x.getLsbD 0) e
  have h1 := congrArg (fun x : BitVec 2 => x.getLsbD 1) e
  simp at h0 h1
  rcases h with h | h <;> simp_all

/-- A bit of the upper part of two joined words. -/
theorem hi_append {n m : Nat} (x : BitVec n) (y : BitVec m) (i : Nat) (h : m ≤ i) : (x ++ y).getLsbD i = x.getLsbD (i - m) := by
  rw [BitVec.getLsbD_append, if_neg (by omega)]

theorem form_pack (f : Fields) : f.pack.extractLsb' 62 2 ≠ 3#2 := by
  apply of_top; left
  unfold Fields.pack
  iterate 12 refine (hi_append _ _ _ (by decide)).trans ?_
  rfl

theorem form_x (op : BitVec 8) (d : Reg) (i : BitVec 48) : (xWord op d i).extractLsb' 62 2 ≠ 3#2 := by
  apply of_top; left
  unfold xWord
  iterate 4 refine (hi_append _ _ _ (by decide)).trans ?_
  rfl

theorem form_p (u v : BitVec 31) : (1#2 ++ u ++ v : Word).extractLsb' 62 2 ≠ 3#2 := by
  apply of_top; right
  iterate 2 refine (hi_append _ _ _ (by decide)).trans ?_
  rfl


theorem add (o : IntArgs) : Statement (.add o) := fun _ => form_pack _
theorem sub (o : IntArgs) : Statement (.sub o) := fun _ => form_pack _
theorem mul (o : IntArgs) : Statement (.mul o) := fun _ => form_pack _
theorem mulh (o : IntArgs) : Statement (.mulh o) := fun _ => form_pack _
theorem mulhn (o : IntArgs) : Statement (.mulhn o) := fun _ => form_pack _
theorem div (o : IntArgs) : Statement (.div o) := fun _ => form_pack _
theorem divn (o : IntArgs) : Statement (.divn o) := fun _ => form_pack _
theorem rem (o : IntArgs) : Statement (.rem o) := fun _ => form_pack _
theorem remn (o : IntArgs) : Statement (.remn o) := fun _ => form_pack _
theorem and (o : IntArgs) : Statement (.and o) := fun _ => form_pack _
theorem or (o : IntArgs) : Statement (.or o) := fun _ => form_pack _
theorem xor (o : IntArgs) : Statement (.xor o) := fun _ => form_pack _
theorem andn (o : IntArgs) : Statement (.andn o) := fun _ => form_pack _
theorem shl (o : IntArgs) : Statement (.shl o) := fun _ => form_pack _
theorem shr (o : IntArgs) : Statement (.shr o) := fun _ => form_pack _
theorem sra (o : IntArgs) : Statement (.sra o) := fun _ => form_pack _
theorem rot (o : IntArgs) : Statement (.rot o) := fun _ => form_pack _
theorem min (o : IntArgs) : Statement (.min o) := fun _ => form_pack _
theorem max (o : IntArgs) : Statement (.max o) := fun _ => form_pack _
theorem minn (o : IntArgs) : Statement (.minn o) := fun _ => form_pack _
theorem maxn (o : IntArgs) : Statement (.maxn o) := fun _ => form_pack _
theorem clz (o : UnArgs) : Statement (.clz o) := fun _ => form_pack _
theorem ctz (o : UnArgs) : Statement (.ctz o) := fun _ => form_pack _
theorem pop (o : UnArgs) : Statement (.pop o) := fun _ => form_pack _
theorem bswap (o : UnArgs) : Statement (.bswap o) := fun _ => form_pack _
theorem cmp (cc : Icc) (o : IntArgs) : Statement (.cmp cc o) := fun _ => form_pack _
theorem sel (t : Ty) (d : Reg) (a : Reg) (b : Reg) (c : Reg) : Statement (.sel t d a b c) := fun _ => form_pack _
theorem li (d : Reg) (i : BitVec 48) : Statement (.li d i) := fun _ => form_x _ _ _
theorem lih (d : Reg) (i : BitVec 16) : Statement (.lih d i) := fun _ => form_x _ _ _
theorem lea (d : Reg) (i : BitVec 48) : Statement (.lea d i) := fun _ => form_x _ _ _
theorem fadd (o : FBinArgs) : Statement (.fadd o) := fun _ => form_pack _
theorem fsub (o : FBinArgs) : Statement (.fsub o) := fun _ => form_pack _
theorem fmul (o : FBinArgs) : Statement (.fmul o) := fun _ => form_pack _
theorem fdiv (o : FBinArgs) : Statement (.fdiv o) := fun _ => form_pack _
theorem fsqrt (t : Ty) (rm : Rm) (sat : Bool) (d : Reg) (a : Reg) : Statement (.fsqrt t rm sat d a) := fun _ => form_pack _
theorem ffma (o : FBinArgs) (c : Reg) : Statement (.ffma o c) := fun _ => form_pack _
theorem fmin (o : FBinArgs) : Statement (.fmin o) := fun _ => form_pack _
theorem fmax (o : FBinArgs) : Statement (.fmax o) := fun _ => form_pack _
theorem fcmp (cc : Fcc) (t : Ty) (d : Reg) (a : Reg) (b : Reg) : Statement (.fcmp cc t d a b) := fun _ => form_pack _
theorem fcvt (dt : Ty) (st : Ty) (rm : Rm) (sat : Bool) (d : Reg) (a : Reg) : Statement (.fcvt dt st rm sat d a) := fun _ => form_pack _
theorem fcls (o : UnArgs) : Statement (.fcls o) := fun _ => form_pack _
theorem fsgn (op : SgnOp) (t : Ty) (d : Reg) (a : Reg) (b : Reg) : Statement (.fsgn op t d a b) := fun _ => form_pack _
theorem b (i : BitVec 48) : Statement (.b i) := fun _ => form_x _ _ _
theorem bcc (cc : Icc) (a : Reg) (b : Reg) (i : BitVec 14) : Statement (.bcc cc a b i) := fun _ => form_pack _
theorem call (i : BitVec 48) : Statement (.call i) := fun _ => form_x _ _ _
theorem ret : Statement .ret := fun _ => form_pack _
theorem jr (a : Reg) : Statement (.jr a) := fun _ => form_pack _
theorem jcall (a : Reg) : Statement (.jcall a) := fun _ => form_pack _
theorem bz (a : Reg) (i : BitVec 14) : Statement (.bz a i) := fun _ => form_pack _
theorem bnz (a : Reg) (i : BitVec 14) : Statement (.bnz a i) := fun _ => form_pack _
theorem qwr (q : Idx3) (a : Reg) : Statement (.qwr q a) := fun _ => form_pack _
theorem qrd (d : Reg) (q : Idx3) : Statement (.qrd d q) := fun _ => form_pack _
theorem bq (nz : Bool) (cons : Bool) (q : Idx3) (i : BitVec 14) : Statement (.bq nz cons q i) := fun _ => form_pack _
theorem qlvl (d : Reg) (q : Idx3) : Statement (.qlvl d q) := fun _ => form_pack _
theorem sget (d : Reg) (r : Srn) : Statement (.sget d r) := fun _ => form_pack _
theorem sset (r : Srn) (a : Reg) : Statement (.sset r a) := fun _ => form_pack _
theorem sxchg (d : Reg) (r : Srn) (a : Reg) : Statement (.sxchg d r a) := fun _ => form_pack _
theorem nop : Statement .nop := fun _ => form_pack _
theorem pFormPair (s0 : Slot) (s1 : Slot) : Statement (.pFormPair s0 s1) := fun _ => form_p _ _
theorem setvl (d : Reg) (a : Reg) (mask : Option Reg) (vt : Option (BitVec 8)) : Statement (.setvl d a mask vt) := fun _ => form_pack _
theorem setrc (n : Src) : Statement (.setrc n) := fun _ => form_pack _
theorem vlenq (d : Reg) : Statement (.vlenq d) := fun _ => form_pack _
theorem plim (d : PReg) (a : Reg) : Statement (.plim d a) := fun _ => form_pack _
theorem pand (d : PReg) (a : PReg) (b : PReg) : Statement (.pand d a b) := fun _ => form_pack _
theorem por (d : PReg) (a : PReg) (b : PReg) : Statement (.por d a b) := fun _ => form_pack _
theorem pxor (d : PReg) (a : PReg) (b : PReg) : Statement (.pxor d a b) := fun _ => form_pack _
theorem pnot (d : PReg) (a : PReg) : Statement (.pnot d a) := fun _ => form_pack _
theorem pcnt (d : Reg) (pg : PReg) (a : PReg) : Statement (.pcnt d pg a) := fun _ => form_pack _
theorem pfirst (d : Reg) (pg : PReg) (a : PReg) : Statement (.pfirst d pg a) := fun _ => form_pack _
theorem vadd (o : VArgs) : Statement (.vadd o) := fun _ => form_pack _
theorem vsub (o : VArgs) : Statement (.vsub o) := fun _ => form_pack _
theorem vmul (o : VArgs) : Statement (.vmul o) := fun _ => form_pack _
theorem vmac (o : VArgs) : Statement (.vmac o) := fun _ => form_pack _
theorem vmin (o : VArgs) : Statement (.vmin o) := fun _ => form_pack _
theorem vmax (o : VArgs) : Statement (.vmax o) := fun _ => form_pack _
theorem vabs (t : Ty) (pg : PReg) (d : Reg) (a : Reg) : Statement (.vabs t pg d a) := fun _ => form_pack _
theorem vand (o : VArgs) : Statement (.vand o) := fun _ => form_pack _
theorem vor (o : VArgs) : Statement (.vor o) := fun _ => form_pack _
theorem vxor (o : VArgs) : Statement (.vxor o) := fun _ => form_pack _
theorem vshl (o : VArgs) : Statement (.vshl o) := fun _ => form_pack _
theorem vshr (o : VArgs) : Statement (.vshr o) := fun _ => form_pack _
theorem vsra (o : VArgs) : Statement (.vsra o) := fun _ => form_pack _
theorem vcmp (cc : Icc) (t : Ty) (pg : PReg) (d : PReg) (a : Reg) (b : VSrc) : Statement (.vcmp cc t pg d a b) := fun _ => form_pack _
theorem vsel (o : VArgs) : Statement (.vsel o) := fun _ => form_pack _
theorem vbcast (t : Ty) (pg : PReg) (d : Reg) (s : Bcast) : Statement (.vbcast t pg d s) := by
  cases s <;> exact fun _ => form_pack _
theorem vidx (t : Ty) (pg : PReg) (d : Reg) (i : BitVec 14) : Statement (.vidx t pg d i) := fun _ => form_pack _
theorem vperm (t : Ty) (pg : PReg) (d : Reg) (a : Reg) (b : Reg) : Statement (.vperm t pg d a b) := fun _ => form_pack _
theorem vslide (t : Ty) (pg : PReg) (d : Reg) (a : Reg) (s : Slide) : Statement (.vslide t pg d a s) := by
  cases s <;> exact fun _ => form_pack _
theorem vred (op : RedOp) (t : Ty) (pg : PReg) (d : Reg) (a : Reg) : Statement (.vred op t pg d a) := fun _ => form_pack _
theorem vscan (op : RedOp) (t : Ty) (pg : PReg) (d : Reg) (a : Reg) : Statement (.vscan op t pg d a) := fun _ => form_pack _
theorem vfadd (o : VFArgs) : Statement (.vfadd o) := fun _ => form_pack _
theorem vfsub (o : VFArgs) : Statement (.vfsub o) := fun _ => form_pack _
theorem vfmul (o : VFArgs) : Statement (.vfmul o) := fun _ => form_pack _
theorem vfma (o : VFArgs) (c : Reg) : Statement (.vfma o c) := fun _ => form_pack _
theorem vfmin (o : VFArgs) : Statement (.vfmin o) := fun _ => form_pack _
theorem vfmax (o : VFArgs) : Statement (.vfmax o) := fun _ => form_pack _
theorem vfdiv (o : VFArgs) : Statement (.vfdiv o) := fun _ => form_pack _
theorem vfsqrt (o : VFUnArgs) : Statement (.vfsqrt o) := fun _ => form_pack _
theorem vfrsq (o : VFUnArgs) : Statement (.vfrsq o) := fun _ => form_pack _
theorem vfcmp (cc : Fcc) (t : Ty) (pg : PReg) (d : PReg) (a : Reg) (b : VSrc) : Statement (.vfcmp cc t pg d a b) := fun _ => form_pack _
theorem vfcvt (dt : Ty) (st : Ty) (rm : Rm) (sat : Bool) (pg : PReg) (d : Reg) (a : Reg)
    : Statement (.vfcvt dt st rm sat pg d a) := fun _ => form_pack _
theorem vfred (op : RedOp) (t : Ty) (rm : Rm) (pg : PReg) (d : Reg) (a : Reg) : Statement (.vfred op t rm pg d a) := fun _ => form_pack _
theorem vscl (w : Ty) (pg : PReg) (d : Reg) (a : Reg) (i : BitVec 7) : Statement (.vscl w pg d a i) := fun _ => form_pack _
theorem vqnt (n : Ty) (w : Ty) (rm : Rm) (sat : Bool) (pg : PReg) (d : Reg) (a : Reg) (s : Reg) (i : BitVec 7)
    : Statement (.vqnt n w rm sat pg d a s i) := fun _ => form_pack _
theorem vdqn (w : Ty) (n : Ty) (rm : Rm) (pg : PReg) (d : Reg) (a : Reg) (s : Reg) (i : BitVec 7)
    : Statement (.vdqn w n rm pg d a s i) := fun _ => form_pack _
theorem vbpx (k : Ty) (pg : PReg) (d : Reg) (a : Reg) : Statement (.vbpx k pg d a) := fun _ => form_pack _
theorem mvgp (o : MvArgs) : Statement (.mvgp o) := fun _ => form_pack _
theorem mvwd (o : MvArgs) : Statement (.mvwd o) := fun _ => form_pack _
theorem mvjn (o : MvArgs) : Statement (.mvjn o) := fun _ => form_pack _
theorem mvlc (o : MvArgs) : Statement (.mvlc o) := fun _ => form_pack _
theorem mvsw (o : MvArgs) : Statement (.mvsw o) := fun _ => form_pack _
theorem mvrv (op : RvOp) (o : MvUnArgs) : Statement (.mvrv op o) := fun _ => form_pack _
theorem mvdl (o : MvUnArgs) : Statement (.mvdl o) := fun _ => form_pack _
theorem mvnm (o : MvUnArgs) : Statement (.mvnm o) := fun _ => form_pack _
theorem mvexp (o : MvUnArgs) : Statement (.mvexp o) := fun _ => form_pack _
theorem mvgmRd (d : Reg) (a : Reg) : Statement (.mvgmRd d a) := fun _ => form_pack _
theorem mvgmWr (d : Reg) (k : BitVec 5) : Statement (.mvgmWr d k) := fun _ => form_pack _
theorem mvrowExt (t : Ty) (pg : PReg) (d : Reg) (a : Reg) (r : BitVec 4) : Statement (.mvrowExt t pg d a r) := fun _ => form_pack _
theorem mvrowIns (t : Ty) (pg : PReg) (d : Reg) (a : Reg) (r : BitVec 4) : Statement (.mvrowIns t pg d a r) := fun _ => form_pack _
theorem vectorEntryExecute (slip : Option (BitVec 4 × Bool)) : Statement (.vectorEntryExecute slip) := fun h => nomatch h
theorem progressTimeout (port : BitVec 8) (unit : BitVec 8) : Statement (.progressTimeout port unit) := fun h => nomatch h
theorem ld (o : MemArgs) : Statement (.ld o) := fun _ => form_pack _
theorem st (o : MemArgs) : Statement (.st o) := fun _ => form_pack _
theorem ldw (t : Ty) (d : Reg) (w : Idx3) (b : Reg) (off : BitVec 14) (ar : AcqRel) : Statement (.ldw t d w b off ar) := fun _ => form_pack _
theorem vld (o : VMemArgs) (ft : Bool) : Statement (.vld o ft) := fun _ => form_pack _
theorem vlds (o : VMemArgs) (ft : Bool) (b : Reg) : Statement (.vlds o ft b) := fun _ => form_pack _
theorem vldg (o : VMemArgs) (ft : Bool) (nf : BitVec 3) : Statement (.vldg o ft nf) := fun _ => form_pack _
theorem vst (o : VMemArgs) : Statement (.vst o) := fun _ => form_pack _
theorem vsts (o : VMemArgs) (b : Reg) : Statement (.vsts o b) := fun _ => form_pack _
theorem vstg (o : VMemArgs) (nf : BitVec 3) : Statement (.vstg o nf) := fun _ => form_pack _
theorem vgth (o : VMemArgs) (b : Reg) : Statement (.vgth o b) := fun _ => form_pack _
theorem vsct (o : VMemArgs) (b : Reg) : Statement (.vsct o b) := fun _ => form_pack _
theorem vsca (o : AmoArgs) (pg : PReg) (ord : Bool) : Statement (.vsca o pg ord) := fun _ => form_pack _
theorem vamo (op : AmoOp) (o : AmoArgs) (pg : PReg) (ord : Bool) : Statement (.vamo op o pg ord) := fun _ => form_pack _
theorem mvld (o : VMemArgs) (q : Option (BitVec 5)) : Statement (.mvld o q) := fun _ => form_pack _
theorem mvst (o : VMemArgs) (q : Option (BitVec 5)) : Statement (.mvst o q) := fun _ => form_pack _
theorem vspill (d : Reg) (m : Addr) : Statement (.vspill d m) := fun _ => form_pack _
theorem vfill (d : Reg) (m : Addr) : Statement (.vfill d m) := fun _ => form_pack _
theorem tlook (d : Reg) (a : Reg) : Statement (.tlook d a) := fun _ => form_pack _
theorem tset (slot : BitVec 12) (a : Reg) : Statement (.tset slot a) := fun _ => form_pack _
theorem tinv (slot : BitVec 12) : Statement (.tinv slot) := fun _ => form_pack _
theorem amo (op : AmoOp) (o : AmoArgs) : Statement (.amo op o) := fun _ => form_pack _
theorem cas (o : AmoArgs) : Statement (.cas o) := fun _ => form_pack _
theorem mcld (d : Reg) (a : Reg) (b : Reg) (ar : AcqRel) : Statement (.mcld d a b ar) := fun _ => form_pack _
theorem mcst (d : Reg) (a : Reg) (b : Reg) (ar : AcqRel) : Statement (.mcst d a b ar) := fun _ => form_pack _
theorem mctag (a : Reg) (b : Reg) (ar : AcqRel) : Statement (.mctag a b ar) := fun _ => form_pack _
theorem majorityAnswer (k : Nat) : Statement (.majorityAnswer k) := fun h => nomatch h
theorem replicaWrite (k : Nat) : Statement (.replicaWrite k) := fun h => nomatch h
theorem fence (s : Scope) (kinds : BitVec 5) : Statement (.fence s kinds) := fun _ => form_pack _
theorem bari (a : Reg) (exp : BitVec 12) : Statement (.bari a exp) := fun _ => form_pack _
theorem bara (d : Reg) (a : Reg) (n : BitVec 5) : Statement (.bara d a n) := fun _ => form_pack _
theorem barw (dst : BarDst) (a : Reg) (b : Reg) (ph : BitVec 4) : Statement (.barw dst a b ph) := by
  cases dst <;> exact fun _ => form_pack _
theorem barwRecheck : Statement .barwRecheck := fun h => nomatch h
theorem barwExpiry : Statement .barwExpiry := fun h => nomatch h
theorem tdesc (n : Idx3) (a : Reg) (b : Reg) : Statement (.tdesc n a b) := fun _ => form_pack _
theorem tclsSet (n : Idx3) (c : BitVec 3) : Statement (.tclsSet n c) := fun _ => form_pack _
theorem tclsRd (d : Reg) (n : Idx3) (h : Bool) : Statement (.tclsRd d n h) := fun _ => form_pack _
theorem tld (t : Idx3) (n : Idx3) : Statement (.tld t n) := fun _ => form_pack _
theorem tst (sat : Bool) (n : Idx3) (t : Idx3) : Statement (.tst sat n t) := fun _ => form_pack _
theorem tzero (t : TReg) : Statement (.tzero t) := fun _ => form_pack _
theorem mwld (b : Bool) (n : Idx3) (kp : BitVec 3) : Statement (.mwld b n kp) := fun _ => form_pack _
theorem mswap : Statement .mswap := fun _ => form_pack _
theorem mmul (set : Bool) (f : MmTy) (t : Idx3) (n : Idx3) (kp : BitVec 3) : Statement (.mmul set f t n kp) := fun _ => form_pack _
theorem mmulx (set : Bool) (f : MmTy) (t : Idx3) (n : Idx3) (b : Reg) (c : Reg) (kp : BitVec 3)
    : Statement (.mmulx set f t n b c kp) := fun _ => form_pack _
theorem mrd (d : Reg) (t : Idx3) (row : BitVec 7) : Statement (.mrd d t row) := fun _ => form_pack _
theorem mwr (t : Idx3) (s : Reg) (row : BitVec 7) : Statement (.mwr t s row) := fun _ => form_pack _
theorem tcvt (n : Idx3) (m : Idx3) : Statement (.tcvt n m) := fun _ => form_pack _
theorem send (sel : BitVec 8) (td : TReg) (ta : TReg) (tb : TReg) : Statement (.send sel td ta tb) := fun _ => form_pack _
theorem mtld (a : Reg) (b : Reg) : Statement (.mtld a b) := fun _ => form_pack _
theorem mtq (d : Reg) (sel : BitVec 8) (ta : TReg) (tb : TReg) : Statement (.mtq d sel ta tb) := fun _ => form_pack _
theorem sdret : Statement .sdret := fun _ => form_pack _
theorem tsave (a : Reg) : Statement (.tsave a) := fun _ => form_pack _
theorem tload (a : Reg) : Statement (.tload a) := fun _ => form_pack _
theorem matrixEntryExecute : Statement .matrixEntryExecute := fun h => nomatch h
theorem accumulatorRowComplete (pass : Bool) : Statement (.accumulatorRowComplete pass) := fun h => nomatch h
theorem rowRecompute (pass : Bool) : Statement (.rowRecompute pass) := fun h => nomatch h
theorem cpy (o : CpyArgs) : Statement (.cpy o) := fun _ => form_pack _
theorem cpy2 (o : CpyArgs) : Statement (.cpy2 o) := fun _ => form_pack _
theorem cpyr (o : CpyArgs) : Statement (.cpyr o) := fun _ => form_pack _
theorem cpys (o : CpyArgs) : Statement (.cpys o) := fun _ => form_pack _
theorem cpyk (tok : Tok) : Statement (.cpyk tok) := fun _ => form_pack _
theorem gdg (tok : Tok) (a : Reg) (b : Reg) (c : Reg) (mask : Option PReg) (ck : BitVec 4)
    : Statement (.gdg tok a b c mask ck) := fun _ => form_pack _
theorem gda (tok : Tok) (t : Ty) (a : Reg) (b : Reg) (c : Reg) : Statement (.gda tok t a b c) := fun _ => form_pack _
theorem dsp (tok : Tok) (a : Reg) : Statement (.dsp tok a) := fun _ => form_pack _
theorem cmb (tok : Tok) (a : Reg) : Statement (.cmb tok a) := fun _ => form_pack _
theorem chunkComplete (cmd : Nat) (chunk : Nat) : Statement (.chunkComplete cmd chunk) := fun h => nomatch h
theorem tokenWrite (cmd : Nat) : Statement (.tokenWrite cmd) := fun h => nomatch h
theorem nougatWindow (cmd : Nat) (window : Nat) : Statement (.nougatWindow cmd window) := fun h => nomatch h
theorem rtlay (tok : Tok) (a : Reg) : Statement (.rtlay tok a) := fun _ => form_pack _
theorem rtprog (tok : Tok) (a : Reg) (b : Reg) : Statement (.rtprog tok a b) := fun _ => form_pack _
theorem rtin (tok : Tok) (a : Reg) : Statement (.rtin tok a) := fun _ => form_pack _
theorem rtout (tok : Tok) : Statement (.rtout tok) := fun _ => form_pack _
theorem rtacc (tok : Tok) (a : Reg) (b : Reg) : Statement (.rtacc tok a b) := fun _ => form_pack _
theorem tvFetch : Statement .tvFetch := fun _ => form_pack _
theorem tvLd : Statement .tvLd := fun _ => form_pack _
theorem tvBox : Statement .tvBox := fun _ => form_pack _
theorem tvTri : Statement .tvTri := fun _ => form_pack _
theorem tvCmp (k : TvCmp) : Statement (.tvCmp k) := fun _ => form_pack _
theorem tvPush : Statement .tvPush := fun _ => form_pack _
theorem tvPop : Statement .tvPop := fun _ => form_pack _
theorem tvLeaf : Statement .tvLeaf := fun _ => form_pack _
theorem tvAcc : Statement .tvAcc := fun _ => form_pack _
theorem tvBr (k : TvBr) (target : BitVec 9) : Statement (.tvBr k target) := fun _ => form_pack _
theorem tvMov (k : TvMov) : Statement (.tvMov k) := fun _ => form_pack _
theorem tvEnd : Statement .tvEnd := fun _ => form_pack _
theorem ringProduce (ray : Nat) : Statement (.ringProduce ray) := fun h => nomatch h
theorem ringRetry (ray : Nat) : Statement (.ringRetry ray) := fun h => nomatch h
theorem rayFault : Statement .rayFault := fun h => nomatch h
theorem vtsend (p : PReg) (a : Reg) : Statement (.vtsend p a) := fun _ => form_pack _
theorem vtwait (kill : Option PReg) : Statement (.vtwait kill) := by
  cases kill <;> exact fun _ => form_pack _
theorem laneBlockRetire (e : Nat) : Statement (.laneBlockRetire e) := fun h => nomatch h
theorem svc (n : BitVec 14) : Statement (.svc n) := fun _ => form_pack _
theorem tret : Statement .tret := fun _ => form_pack _
theorem end_ : Statement .end_ := fun _ => form_pack _
theorem spawn (a : Reg) : Statement (.spawn a) := fun _ => form_pack _
theorem join (d : Reg) : Statement (.join d) := fun _ => form_pack _
theorem kill (d : Reg) (a : Reg) : Statement (.kill d a) := fun _ => form_pack _
theorem idle (a : Reg) : Statement (.idle a) := fun _ => form_pack _
theorem pwr (d : Reg) (a : Reg) : Statement (.pwr d a) := fun _ => form_pack _
theorem chkm (d : Reg) (a : Reg) : Statement (.chkm d a) := fun _ => form_pack _
theorem halt (a : Reg) : Statement (.halt a) := fun _ => form_pack _
theorem fetch (a : Word) : Statement (.fetch a) := fun h => nomatch h
theorem walkComplete (asid : BitVec 12) (va : Word) (k : Acc) (evict : Option Nat) : Statement (.walkComplete asid va k evict) := fun h => nomatch h
theorem holdReread : Statement .holdReread := fun h => nomatch h
theorem holdStallBound (p : Party) : Statement (.holdStallBound p) := fun h => nomatch h
theorem xatbWrite (v : Word) : Statement (.xatbWrite v) := fun h => nomatch h
theorem xinvPage (asid : BitVec 12) (vpn : BitVec 45) : Statement (.xinvPage asid vpn) := fun h => nomatch h
theorem xinvAsid (asid : BitVec 12) : Statement (.xinvAsid asid) := fun h => nomatch h
theorem xinvAll : Statement .xinvAll := fun h => nomatch h
theorem xmsetReload : Statement .xmsetReload := fun h => nomatch h
theorem xinvComplete : Statement .xinvComplete := fun h => nomatch h
theorem xvqRead (die : Idx3) : Statement (.xvqRead die) := fun h => nomatch h
theorem checkpointSave (stks : BitVec 24) : Statement (.checkpointSave stks) := fun h => nomatch h
theorem checkpointRestore (stks : BitVec 24) : Statement (.checkpointRestore stks) := fun h => nomatch h
theorem checkpointGranuleCopy (g : Nat) : Statement (.checkpointGranuleCopy g) := fun h => nomatch h
theorem checkpointComplete (elapsed : BitVec 32) : Statement (.checkpointComplete elapsed) := fun h => nomatch h
theorem mcbaseFloor (val : Bool) (count : BitVec 24) : Statement (.mcbaseFloor val count) := fun h => nomatch h
theorem mcbaseSetall (val : Bool) (count : BitVec 24) : Statement (.mcbaseSetall val count) := fun h => nomatch h
theorem mcrenew (mset : BitVec 4) (ppn : BitVec 40) : Statement (.mcrenew mset ppn) := fun h => nomatch h
theorem mcscrub (mset : BitVec 4) (ppn : BitVec 40) : Statement (.mcscrub mset ppn) := fun h => nomatch h
theorem scrubCorrection (sector : Nat) (seen : BitVec 512) (seenTag : Word) : Statement (.scrubCorrection sector seen seenTag) := fun h => nomatch h
theorem stackFailure (k : BitVec 5) : Statement (.stackFailure k) := fun h => nomatch h
theorem lsubSubmit (die : Idx3) (addr : BitVec 44) (host : Bool) : Statement (.lsubSubmit die addr host) := fun h => nomatch h
theorem itemPlacement (launch : Nat) (item : Nat) (core : Nat) : Statement (.itemPlacement launch item core) := fun h => nomatch h
theorem tick : Statement .tick := fun h => nomatch h
theorem shadowBankSwap (core : Nat) (launch : Nat) (item : Nat) : Statement (.shadowBankSwap core launch item) := fun h => nomatch h
theorem spillComplete (core : Nat) : Statement (.spillComplete core) := fun h => nomatch h
theorem swapBack (core : Nat) : Statement (.swapBack core) := fun h => nomatch h
theorem completionWordWrite (launch : Nat) : Statement (.completionWordWrite launch) := fun h => nomatch h
theorem lkill (cw : BitVec 54) : Statement (.lkill cw) := fun h => nomatch h
theorem scanctl (core : BitVec 9) : Statement (.scanctl core) := fun h => nomatch h
theorem scanComplete (pass : Bool) : Statement (.scanComplete pass) := fun h => nomatch h
theorem leaveGrant (die : Idx3) : Statement (.leaveGrant die) := fun h => nomatch h
theorem leaveTimeout : Statement .leaveTimeout := fun h => nomatch h
theorem heavyOperationComplete (k : Nat) : Statement (.heavyOperationComplete k) := fun h => nomatch h
theorem readinessSet (die : Option Idx3) (bit : BitVec 4) : Statement (.readinessSet die bit) := fun h => nomatch h
theorem bootStage (stage : BitVec 8) (image : BootImage) : Statement (.bootStage stage image) := fun h => nomatch h
theorem deviceReset : Statement .deviceReset := fun h => nomatch h
theorem linjctlArm (port : BitVec 7) (ctl : Word) (n : BitVec 32) : Statement (.linjctlArm port ctl n) := fun h => nomatch h
theorem flitReceive (port : BitVec 7) (ok : Bool) : Statement (.flitReceive port ok) := fun h => nomatch h
theorem portDown (port : BitVec 7) : Statement (.portDown port) := fun h => nomatch h
theorem remoteRequest (op : RemoteOp) (addr : BitVec 41) (n : Nat) (val : Word) : Statement (.remoteRequest op addr n val) := fun h => nomatch h
theorem hostAccess (addr : BitVec 52) (o : OutAcc) : Statement (.hostAccess addr o) := fun h => nomatch h
theorem deviceRegisterWrite (addr : BitVec 52) (val : Word) : Statement (.deviceRegisterWrite addr val) := fun h => nomatch h
theorem briocheAccess (addr : BitVec 52) (o : OutAcc) : Statement (.briocheAccess addr o) := fun h => nomatch h
theorem storeBecomesVisible (k : Nat) : Statement (.storeBecomesVisible k) := fun h => nomatch h
theorem idleExpiry : Statement .idleExpiry := fun h => nomatch h
theorem sectorError (sector : Nat) (correctable : Bool) : Statement (.sectorError sector correctable) := fun h => nomatch h

end Sys2Proof.Laws.Encodes
end

