-- ==== Sys2Proof/Tests/Slice0.lean ====
section
/-! SUPPORT. Tests of the model against the spec: ill-formed instructions refused, words of the spec's tables decoded, the witnesses
of the statements' hypotheses, and a few single steps whose results the spec states. -/

namespace Sys2Proof.Tests
set_option Elab.async false
open Sys2Proof Sys2Proof.Machine

/-! ## Ill-formed instructions -/

/-- One operand of each kind, for the terms below. -/
def im (t : Ty) : IntArgs := { t := t, d := 1#5, a := 2#5, b := .reg 3#5 }
def un (t : Ty) : UnArgs := { t := t, d := 1#5, a := 2#5 }
def fb (t : Ty) (rm : Rm) (sat : Bool) : FBinArgs := { t := t, rm := rm, sat := sat, d := 1#5, a := 2#5, b := 3#5 }
def va (t : Ty) : VArgs := { t := t, pg := 0#4, d := 1#5, a := 2#5, b := .vec 3#5 }
def vf (t : Ty) (rm : Rm) (sat : Bool) : VFArgs := { t := t, rm := rm, sat := sat, pg := 0#4, d := 1#5, a := 2#5, b := .vec 3#5 }
def mv (t : Ty) (d a : Reg) : MvArgs := { t := t, rm := .rne, pg := 0#4, k := none, d := d, a := a, b := 3#5 }
def ad (a : Reg) : Addr := { sp := false, a := a, off := 0#14 }
def me (t : Ty) (ar : AcqRel) : MemArgs := { t := t, d := 1#5, m := ad 2#5, ar := ar }
def vm (t : Ty) (d : Reg) (ar : AcqRel) : VMemArgs := { t := t, pg := 0#4, d := d, m := ad 2#5, ar := ar, ord := false }
def am (t : Ty) (rm : Rm) (d : Reg) : AmoArgs := { t := t, rm := rm, d := d, m := ad 2#5, b := 3#5, ar := .rlx }
def cp (mask : Option PReg) (ck : BitVec 4) (rsp : Bool) (c : Reg) : CpyArgs :=
  { tok := { d := 1#5, et := false }, rsp := rsp, ss := false, ds := false, a := 2#5, b := 3#5, c := c, mask := mask, ck := ck }

/-- Types that a member does not take, and the all-zero word (12 R260, 13 R284, 14 R291 to R303). -/
theorem test_wf_scalar :
    ([.add { t := .i8, d := 0#5, a := 0#5, b := .reg 0#5 }, .sub (im .f32), .clz (un .f64), .cmp .ltn (im .i32), .cmp .eq (im .bp2),
      .sel .f32 1#5 2#5 3#5 4#5, .fadd (fb .i32 .rne false), .fmul (fb .f32 .rne true), .fsqrt .i8 .rne false 1#5 2#5,
      .ffma (fb .fp4 .rne false) 4#5, .fmin (fb .f32 .rtz false), .fcmp .eq .n8 1#5 2#5 3#5, .fcvt .i8 .i16 .rne false 1#5 2#5,
      .fcvt .f32 .f32 .rne false 1#5 2#5, .fcvt .bp2 .f32 .rne false 1#5 2#5, .fcls (un .i8), .fsgn .inj .n64 1#5 2#5 3#5] : List Instr).all
      (fun i => !i.wf) = true := by decide

/-- Slots that write registers of one parity, or that both access memory (13 R282); a length out of range (15 R310). -/
theorem test_wf_pair_and_length :
    ([.pFormPair (.li 2#5 1#15) (.li 4#5 1#15), .pFormPair (.ld .n64 1#5 2#5 0#15) (.b 1#15), .setrc (.imm 0#14),
      .setrc (.imm 17#14)] : List Instr).all (fun i => !i.wf) = true := by decide

/-- Vector and multivector members (15 R311 to R333). -/
theorem test_wf_vector :
    ([.vadd (va .f32), .vabs .n8 0#4 1#5 2#5, .vcmp .gtn .i32 0#4 1#4 2#5 (.vec 3#5), .vsel (va .fp4), .vbcast .bp3 0#4 1#5 (.scal 2#5),
      .vperm .i8 0#4 1#5 1#5 2#5, .vslide .i8 0#4 1#5 1#5 (.imm 1#14), .vred .add .f32 0#4 1#5 2#5, .vfadd (vf .i32 .rne false),
      .vfmax (vf .f32 .rup false), .vfcvt .e4m3 .f32 .rne false 0#4 1#5 1#5, .vfred .add .e4m3 .rne 0#4 1#5 2#5,
      .vfred .min .f32 .rtz 0#4 1#5 2#5, .vfred .xor .f32 .rne 0#4 1#5 2#5, .vscl .f64 0#4 1#5 2#5 0#7,
      .vqnt .e4m3 .f32 .rne false 0#4 1#5 1#5 2#5 0#7, .vdqn .f32 .f16 .rne 0#4 1#5 2#5 3#5 0#7, .vbpx .i8 0#4 1#5 2#5,
      .mvgp (mv .f16 1#5 2#5), .mvsw (mv .f32 2#5 2#5), .mvrowExt .i8 0#4 1#5 2#5 0#4] : List Instr).all (fun i => !i.wf) = true := by
  decide

/-- Memory members: modifiers of the other class, segments beyond v31, a destination that is the base (16 R335 to R350). -/
theorem test_wf_memory :
    ([.ld (me .i32 (.rel .core)), .st (me .fp4 .rlx), .st (me .i32 (.acq .core)), .ldw .bp2 1#5 0#3 2#5 0#14 .rlx,
      .vld (vm .i32 2#5 .rlx) false, .vlds (vm .fp4 1#5 .rlx) false 3#5, .vldg (vm .i32 30#5 .rlx) false 3#3,
      .vldg (vm .i32 1#5 .rlx) false 2#3, .vstg (vm .i32 4#5 .rlx) 0#3, .vst (vm .i32 1#5 (.acq .core)), .vgth (vm .i32 3#5 .rlx) 3#5,
      .vsca (am .e4m3 .rne 1#5) 0#4 false, .vamo .and (am .f32 .rne 1#5) 0#4 false, .vamo .add (am .i32 .rne 3#5) 0#4 false,
      .mvld (vm .i32 1#5 .rlx) none, .vfill 2#5 (ad 2#5), .amo .add (am .i32 .rtz 1#5), .cas (am .f32 .rne 1#5), .mcld 1#5 1#5 2#5 .rlx,
      .mcst 1#5 2#5 2#5 .rlx, .mctag 1#5 2#5 (.rel .core), .fence .core 0#5, .bari 1#5 0#12, .bara 1#5 2#5 0#5, .bara 1#5 2#5 17#5]
      : List Instr).all (fun i => !i.wf) = true := by decide

/-- Engine commands: p0 as a mask, CK without a mask, RSP with neither side in a scratchpad, a register pair beyond x31 (18 R382). -/
theorem test_wf_engines :
    ([.cpy (cp (some 0#4) 0#4 false 4#5), .cpy (cp none 1#4 false 4#5), .cpy (cp none 0#4 true 4#5), .cpy2 (cp none 0#4 false 31#5),
      .gdg { d := 1#5, et := false } 2#5 3#5 31#5 none 0#4, .gda { d := 1#5, et := false } .e4m3 2#5 3#5 4#5] : List Instr).all (fun i => !i.wf) = true := by decide

/-! ## Words of the spec's tables -/

/-- `sub.i32 x3, x4, x5` -/
theorem test_decode_int : decode 0x0046428000800000#64 = .ok (.sub { t := .i32, d := 3#5, a := 4#5, b := .reg 5#5 }) := by decide
/-- `lih x7, 0x3F35` -/
theorem test_decode_li : decode 0x870E000000003F35#64 = .ok (.lih 7#5 0x3F35#16) := by decide
/-- `ffma.f32.rup x8, x9, x10, x11` -/
theorem test_decode_float : decode 0x0950952C1A400000#64 =
    .ok (.ffma { t := .f32, rm := .rup, sat := false, d := 8#5, a := 9#5, b := 10#5 } 11#5) := by decide
/-- `bcc.ltn x1, x2, back (d = -3)` -/
theorem test_decode_branch : decode 0x0C4011000001BFFD#64 = .ok (.bcc .ltn 1#5 2#5 0x3FFD#14) := by decide
/-- `jcall x12` -/
theorem test_decode_jcall : decode 0x0D40C00000000000#64 = .ok (.jcall 12#5) := by decide
/-- `sxchg x5, fstat, x5` -/
theorem test_decode_state : decode 0x0F8A500000000001#64 = .ok (.sxchg 5#5 .fstat 5#5) := by decide
/-- `setvl.vt x5, x4, 0x08` -/
theorem test_decode_setvl : decode 0x100A400000100008#64 = .ok (.setvl 5#5 4#5 none (some 8#8)) := by decide
/-- `pand p4, p5, p6` -/
theorem test_decode_predicate : decode 0x1108530000000000#64 = .ok (.pand 4#4 5#4 6#4) := by decide
/-- `vcmp.lt.i32.p3 p2, v5, v6` -/
theorem test_decode_vcmp : decode 0x12845300C0808000#64 = .ok (.vcmp .lt .i32 3#4 2#4 5#5 (.vec 6#5)) := by decide
/-- `vfma.f32 v3, v1, v2, v4` -/
theorem test_decode_vfma : decode 0x148611100240C000#64 =
    .ok (.vfma { t := .f32, rm := .rne, sat := false, pg := 0#4, d := 3#5, a := 1#5, b := .vec 2#5 } 4#5) := by decide
/-- `vqnt.e4m3.f32.sat v10, v2, v12, 0` -/
theorem test_decode_scale : decode 0x15D4262403100000#64 = .ok (.vqnt .e4m3 .f32 .rne true 0#4 10#5 2#5 12#5 0#7) := by decide
/-- `mvgm.wr.g024 v3` -/
theorem test_decode_mvgm : decode 0x1A06005400204000#64 = .ok (.mvgmWr 3#5 0b10101#5) := by decide
/-- `mvrow.ext.f32 v9, v4, 12` -/
theorem test_decode_mvrow : decode 0x1A9240000240000C#64 = .ok (.mvrowExt .f32 0#4 9#5 4#5 12#4) := by decide
/-- `st.n32 x3, spad[x8 + 16]` -/
theorem test_decode_st : decode 0x1C46800001804010#64 =
    .ok (.st { t := .n32, d := 3#5, m := { sp := true, a := 8#5, off := 16#14 }, ar := .rlx }) := by decide
/-- `vlds.f32 v4, [x10 + 64], x11` -/
theorem test_decode_vlds : decode 0x1D08A58002400040#64 =
    .ok (.vlds { t := .f32, pg := 0#4, d := 4#5, m := { sp := false, a := 10#5, off := 64#14 }, ar := .rlx, ord := false } false 11#5) := by decide
/-- `vgth.i32.p2 v6, [x12], v7` -/
theorem test_decode_vgth : decode 0x1E4CC38080800000#64 =
    .ok (.vgth { t := .i32, pg := 2#4, d := 6#5, m := { sp := false, a := 12#5, off := 0#14 }, ar := .rlx, ord := false } 7#5) := by decide
/-- `mvst.f32.g3 v7, [x4]` -/
theorem test_decode_mvst : decode 0x1F4E440002500000#64 =
    .ok (.mvst { t := .f32, pg := 0#4, d := 7#5, m := { sp := false, a := 4#5, off := 0#14 }, ar := .rlx, ord := false } (some 0b01000#5)) := by decide
/-- `tset 37, x6` -/
theorem test_decode_tag : decode 0x2040600000000025#64 = .ok (.tset 37#12 6#5) := by decide
/-- `amo.add.acqrel.cluster x5, [x6], x7` -/
theorem test_decode_amo : decode 0x20CA63E400C08000#64 =
    .ok (.amo .add { t := .i64, rm := .rne, d := 5#5, m := { sp := false, a := 6#5, off := 0#14 }, b := 7#5, ar := .acqrel .cluster }) := by decide
/-- `mcst.rel.sys v8, [x3], x9` -/
theorem test_decode_majority : decode 0x21D034D000000000#64 = .ok (.mcst 8#5 3#5 9#5 (.rel .sys)) := by decide
/-- `fence.die.sl` -/
theorem test_decode_fence : decode 0x2240000800010000#64 = .ok (.fence .die 0b00100#5) := by decide
/-- `bara x4, x9, 3` -/
theorem test_decode_bara : decode 0x22C8900000000003#64 = .ok (.bara 4#5 9#5 3#5) := by decide
/-- `barw p5, x9, x10, 2` -/
theorem test_decode_barw : decode 0x230A950000200002#64 = .ok (.barw (.p 5#4) 9#5 10#5 2#4) := by decide
/-- `tdesc t9, x4, x5` -/
theorem test_decode_tile : decode 0x2412428000000000#64 = .ok (.tdesc 1#3 4#5 5#5) := by decide
/-- `mwld 1, t12` -/
theorem test_decode_mwld : decode 0x2500C00000000001#64 = .ok (.mwld true 4#3 0#3) := by decide
/-- `mmul.e4m3 t2, t9` -/
theorem test_decode_mmul : decode 0x2584900000000000#64 = .ok (.mmul false .e4m3 2#3 1#3 0#3) := by decide
/-- `send 0, t1, t9, t12` -/
theorem test_decode_send : decode 0x26C2960000000000#64 = .ok (.send 0#8 1#4 9#4 12#4) := by decide
/-- `sdret` -/
theorem test_decode_sdret : decode 0x2780000000000000#64 = .ok (.sdret) := by decide
/-- `cpy.et x5, spad[x8], [x9], x10, p3, 2` -/
theorem test_decode_cpy : decode 0x280A84A80004E009#64 =
    .ok (.cpy { tok := { d := 5#5, et := true }, rsp := false, ss := false, ds := true, a := 8#5, b := 9#5, c := 10#5, mask := some 3#4, ck := 2#4 }) := by decide
/-- `gdg x4, spad[x12], [x13], x14` -/
theorem test_decode_gdg : decode 0x2948C6B800000001#64 = .ok (.gdg { d := 4#5, et := false } 12#5 13#5 14#5 none 0#4) := by decide
/-- `rtin x3, x6` -/
theorem test_decode_rtin : decode 0x2AC6600000000000#64 = .ok (.rtin { d := 3#5, et := false } 6#5) := by decide
/-- `vtsend p2, x7` -/
theorem test_decode_lanes : decode 0x2B80700000000002#64 = .ok (.vtsend 2#4 7#5) := by decide
/-- `svc 42` -/
theorem test_decode_svc : decode 0x300000000000002A#64 = .ok (.svc 42#14) := by decide
/-- `spawn x9` -/
theorem test_decode_spawn : decode 0x30C0900000000000#64 = .ok (.spawn 9#5) := by decide
/-- `tv.br.t leaf`, of the traversal store (18 R399): address 8. -/
theorem test_decode_micro : decodeMicro 0x2E40000000004008#64 = some (.tvBr .t 8#9) := by decide
/-- Reserved encodings: the all-zero word and the form 11 (13 R275, R284). -/
theorem test_decode_reserved : decode 0#64 = .illegal ∧ decode 0xC000000000000000#64 = .illegal := by decide

/-! ## Witnesses: states that meet the hypotheses of the statements -/

open Sys2Proof.Claims

/-- A hart that runs, a context of launch 1 with a handler window at 2 MiB, and the package with it in focus. -/
def hart0 : HartSt := { HartSt.idle with run := .running, pc := 0x1000#64 }
def ctx0 : Context :=
  { Context.empty 0 0 with place := .active, launch := 1, ah := hart0, xh := hart0, sr := { SRegs.start with hwin := 0x8000000000200000#64 } }
def base (h : HartId) : State := { State.reset with hart := h, ctx := ctx0 }
/-- The first GiB mapped to itself with every permission, stack 0 ready. -/
def paged (s : State) : State :=
  { s with mem := loadMem [] 0x55, dev := { s.dev with xatb := 1#64, rdydie := [(0, 0x7F#64)] } }
/-- In the handler; with vector state; with matrix state; with vector entries. -/
def inHandler (s : State) : State :=
  s.setHs { s.hs with t := { s.hs.t with hstat := 1#64 } }
def withV (s : State) (f : Vec → Vec) : State := { s with ctx := { s.ctx with v := f s.ctx.v } }
def withM (s : State) (f : Mat → Mat) : State := { s with ctx := { s.ctx with m := f s.ctx.m } }
def entry (op : VOp) : VEntry :=
  { op := op, pg := 0#4, pos := 0, pc := 0x900#64, resume := .fresh, leave := none,
    cap := { vl := 4, rc := 1, vtype := 2#8, fctl := 0#64, spz := 0#64 } }
def queued (op : VOp) : State := withV (base .exe) fun v => { v with vq := [entry op] }
def strip0 : Strip := { pc := 0x800#64, vl := 4, rc := 1, vtype := 2#8, xs := [], revocable := true, held := [], rewinds := 0, rewound := false }
def leave0 (h : HartId) : Leave :=
  { id := 7, die := 0, core := 0, bank := 0, hart := h, cost := 2, prio7 := false, standing := false, claimed := false }

theorem canTrap_base (h : HartId) : CanTrap (base h) := by
  cases h <;> (unfold CanTrap; decide)

theorem witness_DecodeReadsEveryEncodedInstruction : Instr.nop.wf = true ∧ Instr.nop.hasWord = true := by decide
theorem witness_WordOfAnInstructionIsUnique :
    decode 0x300000000000002A#64 = .ok (.svc 42#14) ∧ (0xC000000000000000#64).extractLsb' 62 2 = 3#2 := by decide
theorem witness_StepRunsTheDecodedInstruction :
    let s := State.reset.withFetchWord 64 0x0046428000800000
    let u := ({ s with agenda := [] } : State).focus 0 0 .exe
    s.agenda = [{ core := 0, bank := 0, hart := .exe, act := .instr }] ∧ u.lostRequest = none ∧ u.issues = true ∧ u.midOp = none ∧ u.hs.ibuf = [] ∧
    (u.xlAll (u.req .fetch) u.pc 8).1 = .ok [(0x10000, 8)] ∧ (u.xlAll (u.req .fetch) u.pc 8).2.badPiece [(0x10000, 8)] = none ∧
    BitVec.ofNat 64 (ofBytes ((u.xlAll (u.req .fetch) u.pc 8).2.ctxBytes [(0x10000, 8)])) = 0x0046428000800000#64 := by decide +kernel
theorem witness_StepRunsTheDecodedInstruction_ahead :
    let u := (base .exe).setHs { hart0 with ibuf := [(0x1000, 0x0046428000800000#64)] }
    u.lostRequest = none ∧ u.issues = true ∧ u.midOp = none ∧ (∃ c ∈ u.hs.ibuf, c.1 = u.pc.toNat) ∧ Sparse.get 0#64 u.hs.ibuf u.pc.toNat = 0x0046428000800000#64 := by
  decide +kernel
theorem witness_StepRunsTheDecodedInstruction_traps :
    let u := (base .acc).setHs { hart0 with ibuf := [(0x1000, 0#64)] }
    u.lostRequest = none ∧ u.eventDue = false ∧ u.issues = true ∧ u.midOp = none ∧ (∃ c ∈ u.hs.ibuf, c.1 = u.pc.toNat) ∧ decode 0#64 = .illegal ∧
    decode (Instr.pFormPair (.li 2#5 1#15) (.li 4#5 1#15)).encode = .pairing ∧
    decode (Instr.pFormPair (.li 2#5 1#15) (.flt .fadd32 4#5 3#5 5#5)).encode = .pairing ∧ u.hs.handler = false ∧
    u.ctx.sr.hwin.getLsbD 63 = true ∧ u.hart = .acc := by
  decide +kernel
theorem witness_IntegerInstructionsWriteTheirResult :
    Ty.isInt .n16 = true ∧ intOf (.rot (im .i8)) = some (.rot, im .i8) ∧ (base .acc).ready [2#5, 3#5] [1#5] = true := by decide
theorem witness_DivisionCoversEveryCase :
    Ty.isInt .i8 = true ∧ (lowBits .i8 0#64).toNat = 0 ∧ (lowBits .i8 0x80#64).toInt = -128 ∧ (lowBits .i8 0xFF#64).toInt = -1 ∧
    (lowBits .i8 7#64).toNat ≠ 0 := by decide
theorem witness_CountsComparesAndConstants :
    Ty.isInt .i32 = true ∧ (base .exe).ready [2#5] [1#5] = true ∧ Icc.isCmp .le = true ∧ (base .exe).ready [2#5, 3#5] [1#5] = true ∧
    (base .exe).ready [1#5, 2#5, 3#5] [4#5] = true ∧ (base .exe).ready [] [1#5] = true ∧ (base .exe).ready [1#5] [1#5] = true := by decide
/-- 1.0 / 0.0 raises DZ, which is trapped with its enable set. -/
def fdiv0 (fctl : Word) : State :=
  let s := (base .exe).setX 2#5 0x3F800000#64
  { s with ctx := { s.ctx with sr := { s.ctx.sr with fctl := fctl } } }
theorem witness_FloatInstructionsCompleteOrTrap :
    let ok (s : State) (traps : Bool) : Bool := (floatOf s (.fdiv (fb .f32 .rne false))).any fun p =>
      s.ready p.1 [p.2.1] && decide (trapping s.ctx.sr.fctl p.2.2.2 = traps) && decide (p.2.2.2 = Flag.dz)
    ok (fdiv0 0#64) false = true ∧ ok (fdiv0 0xFFF8#64) true = true ∧ (fdiv0 0#64).hart = .exe := by decide +kernel
theorem witness_FloatInstructionsCompleteOrTrap_class :
    Ty.isFloat .e5m2 = true ∧ (base .exe).ready [2#5] [1#5] = true ∧ (base .exe).ready [2#5, 3#5] [1#5] = true ∧
    0x3F800000 < 2 ^ Ty.width .f32 ∧ (ffmt .f32).decode 0x3F800000 = .fin false 0x800000 (-23) := by decide +kernel
theorem witness_FloatInstructionsCompleteOrTrap_rounds :
    Ty.isFloat .e4m3 = true ∧ ((ffmt .f32).give .rne false (.fin false 1 0)).2 &&& Flag.of = 0#8 ∧
    ((ffmt .f32).give .rtz false (.fin true 1 200)).2 &&& Flag.of ≠ 0#8 ∧ (ffmt .f32).decode 0xC0400000 = .fin true 0xC00000 (-22) := by
  decide +kernel
/-- Operands of each kind that the special cases name. -/
theorem witness_FloatInstructionsCompleteOrTrap_special :
    let x (t : Ty) (n : Nat) := (ffmt t).decode n
    Ty.isFp8 .e5m2 = true ∧ Ty.isFp8 .e4m3 = true ∧ Ty.isFloat .f32 = true ∧ x .e5m2 0x7C = .inf false ∧ x .e5m2 0xFC = .inf true ∧
    (x .e5m2 0x7D).isSig = true ∧ (x .e5m2 0x7E).isNan = true ∧ (x .e5m2 0x7E).isSig = false ∧ (x .e4m3 0x7F).isNan = true ∧
    (x .f32 0x80000000).isZero = true ∧ (x .f32 0x80000000).isNeg = true ∧ (x .f32 0x40490FDB).isZero = false ∧ (x .f32 0x40490FDB).isNan = false ∧
    (x .f32 0x40490FDB).isInf = false ∧ (x .f32 0xC0490FDB).isNeg = true ∧ Ty.isInt .i16 = true ∧ Ty.isFloat .fp4 = false ∧
    0x8000 < 2 ^ Ty.width .i16 ∧ 255 < 2 ^ Ty.width .e5m2 ∧ (x .e5m2 0x7B = .fin false 7 13) := by decide +kernel
theorem witness_BranchesGoToTheirTarget :
    (base .acc).ready [1#5, 2#5] [] = true ∧ (base .acc).ready [] [31#5] = true ∧ (base .acc).ready [31#5] [] = true ∧
    (((base .acc).setX 31#5 0x2000#64).x 31#5).toNat % 8 = 0 ∧ (base .acc).ready [5#5] [31#5] = true := by decide
theorem witness_MisalignedJumpTrapsAlign :
    let s := (base .exe).setX 31#5 0x2004#64
    (s.x 31#5).toNat % 8 ≠ 0 ∧ s.ready [31#5] [] = true ∧ s.ready [31#5] [31#5] = true ∧ s.hs.handler = false ∧
    s.ctx.sr.hwin.getLsbD 63 = true ∧ s.ctx.v.vq = [] := by decide +kernel
theorem witness_InstructionOfTheOtherHartIsIllegal :
    exeOnly .mswap = true ∧ (base .acc).hart = .acc ∧ accOnly (.rtout { d := 1#5, et := false }) = true ∧ (base .exe).hart = .exe := by
  decide
def withQ (s : State) (q : Nat) (l : List Word) : State := { s with ctx := { s.ctx with q := [(q, l)] } }
theorem witness_QueueInstructionsAndDeadlock :
    (base .acc).ctx.qWriter 0#3 = .acc ∧ ((base .acc).queue 0#3).length < 32 ∧ (base .acc).drained = true ∧ (base .acc).ready [1#5] [] = true ∧
    (base .exe).ctx.qWriter 0#3 = (base .exe).hart.other ∧ (withQ (base .exe) 0 [5#64]).queue 0#3 = [5#64] ∧
    (base .exe).ready [] [1#5] = true ∧ (base .exe).ctx.qWriter 0#3 ≠ .exe ∧ CanTrap (base .exe) := by
  refine ⟨?_, ?_, ?_, ?_, ?_, ?_, ?_, ?_, canTrap_base .exe⟩ <;> decide
/-- Queue 0 empty seen from the execute hart, and full seen from the access hart. -/
def starved (h : HartSt) : State := { base .exe with ctx := { ctx0 with ah := h } }
def crowded (h : HartSt) (vq : List VEntry) : State :=
  withV (withQ { base .acc with ctx := { ctx0 with xh := h } } 0 (List.replicate 32 0#64)) fun v => { v with vq := vq }
theorem witness_QueueInstructionsAndDeadlock_stuck :
    stallsOn (starved hart0) (.qrd 1#5 0#3) = some (0#3, false) ∧ stallsOn (starved hart0) (.bq true true 0#3 4#14) = some (0#3, false) ∧
    (starved hart0).stuckOn .acc = none ∧ (starved { hart0 with run := .stopped }).ctx.ah.run = .stopped ∧
    (starved { hart0 with wait := .ending }).ctx.ah.wait = .ending ∧
    (let s := { base .exe with ctx := { ctx0 with ah := { hart0 with wait := .queue 1#3 true }, q := [(1, List.replicate 32 0#64)] } }
     s.stuckOn .acc = some 1#3 ∧ stallsOn s (.qrd 1#5 0#3) = some (0#3, false)) ∧
    (let s := crowded { hart0 with wait := .queue 1#3 false } []
     s.stuckOn .exe = some 1#3 ∧ stallsOn s (.qwr 0#3 1#5) = some (0#3, true) ∧ s.ctx.v.vq = []) ∧
    (crowded { hart0 with wait := .queue 1#3 false } [entry (.plim 1#4 3#64)]).stuckOn .exe = some 1#3 := by decide +kernel
theorem witness_StateRegistersReadWriteAndRefuse :
    (base .exe).drained = true ∧ (base .exe).writePriv .pto = false ∧ (base .exe).writeOk .pto 5#64 = true ∧
    (base .exe).writePriv .mcc = true ∧ (base .exe).writeOk .pto 0x8000000000000000#64 = false ∧
    (withQ (base .exe) 0 [5#64]).writeOk .qdir 1#64 = false ∧ (base .exe).ready [1#5] [2#5] = true ∧ (base .exe).writeOk .vtype 1#64 = true := by decide
theorem witness_PairRunsBothSlots :
    let x : Slot := .li 2#5 1#15
    let y : Slot := .flt .fadd32 3#5 4#5 5#5
    let z : Slot := .b 4#15
    let s := base .exe
    s.ready (slotReads x ++ slotReads y) (x.dest.toList ++ y.dest.toList) = true ∧ slotTrap s x = none ∧ slotTrap s y = none ∧
    (slotValue s x).isSome = true ∧ (slotValue s y).isSome = true ∧ slotTrap s z = none ∧ slotTrap s .nop = none ∧ s.ready (slotReads x ++ slotReads .nop) x.dest.toList = true ∧
    (match slotRun s z with | some (.ok _) => true | _ => false) = true ∧ (slotIsFloat x || slotIsFloat z) = false := by decide +kernel

theorem witness_VectorInstructionsAreIssued :
    let s := withV (base .exe) fun v => { v with vtype := 2#8, vl := 4 }
    let full := withV (base .exe) fun v => { v with vtype := 2#8, vl := vtMax 2#8 }
    (queuedOf s (.vadd (va .i32))).any (fun p => p.1 && s.ready p.2.1 []) = true ∧ s.ctx.v.vq.length < 64 ∧
    (queuedOf s (.vadd (va .i8))).any (fun p => !p.1) = true ∧ s.ctx.v.fits .f32 = true ∧ s.ctx.v.vl ≠ vtMax s.ctx.v.vtype ∧
    full.ctx.v.fits .f32 = true ∧
    (let l : Leave := { leave0 .exe with cost := 6 }
     [l].find? (fun l => full.ownLeave .exe l && !l.claimed && decide (l.cost = 6)) = some l) ∧
    (∀ l ∈ full.heavy, (full.ownLeave .exe l && !l.claimed && decide (l.cost = 6)) = false) ∧
    full.covered + 6 ≤ ({ full with ctx := { full.ctx with standing := 6 } } : State).ctx.standing ∧
    full.ctx.standing < full.covered + 6 ∧ full.hs.wait = .none ∧ full.leaveQ = [] ∧ full.ownLeave .exe (leave0 .exe) = true ∧ s.ready [2#5] [] = true ∧
    (s.addr (ad 2#5)).toNat % 8 = 0 ∧ ((s.setX 2#5 4#64).addr (ad 2#5)).toNat % 8 ≠ 0 := by decide +kernel
/-- A hart that waits for the leave of its sandwich; one that does not wait any more, of a die whose budget is used up. -/
theorem witness_VectorInstructionsAreIssued_leave :
    let full := withV (base .exe) fun v => { v with vtype := 2#8, vl := vtMax 2#8 }
    let r : Leave := { leave0 .exe with cost := 6 }
    let w : State := { full.setWait (.leave 6) with leaveQ := [r] }
    let u : State := { full with leaveQ := [r], dev := { full.dev with pwruse := [(0, 1688#64)] } }
    w.hs.wait ≠ .none ∧ w.ownLeave .exe r = true ∧ r ∈ w.leaveQ ∧ r.cost = 6 ∧ w.ctx.standing < w.covered + 6 ∧ w.hart = .exe ∧
    w.ctx.v.fits .f32 = true ∧ w.ctx.v.vl = vtMax w.ctx.v.vtype ∧ w.heavy = [] ∧ u.hs.wait = .none ∧
    (u.leaveQ.filter fun r => !u.ownLeave .exe r) = [] ∧ u.pwrbud (dieOf u.ctx.core) < u.pwruse (dieOf u.ctx.core) + 6 ∧
    u.ctx.standing < u.covered + 6 := by decide +kernel
/-- A launch with SG = 1, whose open strip holds a store; x6 masks x4. -/
def opening (held : List Held) : State :=
  let s := (base .exe).setX 6#5 0x10#64
  { s with ctx := { s.ctx with ctl := 0x1000#64, strip := some { strip0 with held := held } } }
theorem witness_LengthAndShape :
    (base .exe).ctx.sg = false ∧ (opening []).ctx.sg = true ∧ vtOk 2#8 = true ∧ vtOk 0x08#8 = true ∧
    vtBlock 0x08#8 ≠ 0 ∧ (base .exe).ready [4#5] [5#5] = true ∧ ((base .exe).setX 4#5 16#64).x 4#5 = 16#64 ∧
    (base .exe).x 4#5 = 0#64 ∧
    (let s := opening [{ spad := true, addr := 64, bytes := [1#8] }]
     s.ready [4#5, 6#5] [5#5] = true ∧ s.ctx.v.vq = [] ∧ s.ctx.strip.any (·.revocable) = true ∧ (s.x 6#5).getLsbD 4 = true ∧
     ∀ r < 32, (s.x 6#5).getLsbD r = true → s.ctx.rdBusy .exe (BitVec.ofNat 5 r) = false) := by decide +kernel
theorem witness_EntriesCompleteInOrder :
    let s := queued (.plog .not 3#4 0#4 0#4)
    s.ctx.place = .active ∧ s.entryWaits (entry (.plog .not 3#4 0#4 0#4)) = false ∧ s.ctx.entryFree (entry (.plog .not 3#4 0#4 0#4)) = true ∧
    (match (({ s with hart := .exe } : State).withSpz 0#64).runEntry (entry (.plog .not 3#4 0#4 0#4)) with
     | .done _ => true
     | _ => false) = true ∧
    ctx0.entryFree (entry (.plim 3#4 5#64)) = true ∧ ctx0.entryFree (entry (.pcnt 3#5 0#4)) = true ∧
    ctx0.entryFree (entry (.pfirst 3#5 0#4)) = true := by decide +kernel
/-- 1.0 / 0.0 under an enabled DZ traps at element 0. -/
def trapEntry : VEntry :=
  let e := entry (.flt .div .f32 .rne false 1#5 2#5 (.val 0#64) 0#5)
  { e with cap := { e.cap with fctl := 0xFFF8#64 } }
def trapping0 (e : VEntry) : State := withV (base .exe) fun v => { (v.setElem 32 2#5 0 0 0x3F800000) with vq := [e] }
theorem witness_EntryTrapsSaveTheQueue :
    let s := trapping0 trapEntry
    s.ctx.entryFree trapEntry = true ∧ s.entryWaits trapEntry = false ∧
    (match (({ s with hart := .exe } : State).withSpz 0#64).runEntry trapEntry with
     | .trap 0 0 none t u => decide (t.cause ≠ 0x10) && !t.lb && !u.ctx.xh.handler && u.ctx.sr.hwin.getLsbD 63
     | _ => false) = true ∧
    s.ctx.sr.pto ≠ 0#64 ∧ portUnitOk (1#8).toNat (7#8).toNat = true ∧
    (queued (.int .add .i32 1#5 1#5 (.vec 2#5))).entryMeets (entry (.int .add .i32 1#5 1#5 (.vec 2#5))) = false ∧
    ({ ctx0 with ctl := 0x2000#64 } : Context).slc = true ∧ ctx0.strip = none ∧
    strip0.revocable = true ∧ strip0.rewinds < 7 ∧ ctx0.entryFree (entry (.int .add .i32 1#5 1#5 (.vec 2#5))) = true := by
  decide +kernel
theorem witness_ElementEntriesCompute_integer :
    let e := entry (.int .add .i32 1#5 1#5 (.vec 2#5))
    ctx0.place = .active ∧ ctx0.entryFree e = true ∧ e.cap.rc ≤ 16 ∧ e.cap.vl * Ty.width .i32 ≤ 4096 ∧ Ty.isInt .i32 = true := by
  decide +kernel
theorem witness_ElementEntriesCompute :
    let e := entry (.bcastVal .i32 1#5 7#64)
    (HeadRuns (queued e.op) e [] ∧ e.resume = .fresh ∧ e.cap.rc ≤ 16 ∧ e.cap.vl * 32 ≤ 4096) ∧
    ∃ f, newElem (queued e.op).ctx.v e = some (1#5, 32, f) ∧ ∀ r x p, f r x = some p → trapping e.cap.fctl p.2 = false := by
  refine ⟨⟨⟨?_, ?_, ?_⟩, ?_, ?_, ?_⟩, _, rfl, ?_⟩
  any_goals decide +kernel
  intro r x p h
  simp only at h
  split at h
  · cases h; decide
  · cases h
theorem witness_ElementEntriesCompute_scaled :
    let x (t : Ty) (n : Nat) := (ffmt t).decode n
    Ty.isFloat .e5m2 = true ∧ Ty.isFp8 .e5m2 = true ∧ (x .e5m2 0x7D).isNan = true ∧ x .e5m2 0x7C = .inf false ∧ (x .e5m2 0x80).isZero = true ∧
    (x .e5m2 0xBC).isNeg = true ∧ (x .e5m2 0xBC).isZero = false ∧ (x .e5m2 0x3C).isNeg = false ∧ (x .e5m2 0x3C).isInf = false ∧
    (x .bf16 0x7F81).isNan = true ∧ x .f16 0xFC00 = .inf true ∧ x .fp4 2 = .fin false 2 (-1) ∧ (127 : Nat) < 256 := by decide +kernel
theorem witness_ElementEntriesCompute_trap :
    let s := trapping0 trapEntry
    (HeadRuns s trapEntry [] ∧ trapEntry.resume = .fresh ∧ trapEntry.cap.rc ≤ 16 ∧ trapEntry.cap.vl * 32 ≤ 4096 ∧
      s.ctx.xh.handler = false ∧ s.ctx.sr.hwin.getLsbD 63 = true) ∧
    ∃ f, newElem s.ctx.v trapEntry = some (1#5, 32, f) ∧ f 0 0 = some (0x7F800000, Flag.dz) ∧
      trapping trapEntry.cap.fctl Flag.dz = true ∧
      ∀ i j q, f i j = some q → i < 0 ∨ (i = 0 ∧ j < 0) → trapping trapEntry.cap.fctl q.2 = false := by
  refine ⟨⟨⟨?_, ?_, ?_⟩, ?_, ?_, ?_, ?_, ?_⟩, _, rfl, ?_, ?_, ?_⟩
  any_goals decide +kernel
  intro i j q _ h
  omega
theorem witness_ElementEntriesCompute_compare :
    let e := entry (.icmp .lt .i32 4#4 2#5 (.val 3#64))
    let g := entry (.fcmp .eq .f32 4#4 2#5 (.val 0#64))
    HeadRuns (queued e.op) e [] ∧ HeadRuns (queued g.op) g [] ∧ e.resume = .fresh ∧ e.cap.rc = 1 ∧ e.cap.vl ≤ 512 ∧
    Icc.isCmp .lt = true ∧ ∀ j < 4, trapping g.cap.fctl ((ffmt .f32).compare .eq ((queued g.op).ctx.v.elem 32 2#5 0 j) 0).2 = false := by
  refine ⟨⟨?_, ?_, ?_⟩, ⟨?_, ?_, ?_⟩, ?_, ?_, ?_, ?_, ?_⟩ <;> decide +kernel
theorem witness_ReductionsScansAndScales :
    let r := entry (.red .add .i32 1#5 2#5)
    let n := entry (.scan .max .n32 1#5 2#5)
    let f := entry (.fred .add .f32 .rne 1#5 2#5)
    HeadRuns (queued r.op) r [] ∧ HeadRuns (queued n.op) n [] ∧ HeadRuns (queued f.op) f [] ∧ r.resume = .fresh ∧ r.cap.rc ≤ 16 ∧
    r.cap.vl * 32 ≤ 4096 ∧ r.cap.vl ≠ 0 ∧
    (∀ i < f.cap.rc, trapping f.cap.fctl
      (vfredRow .add (ffmt .f32) (resolveRm .rne f.cap.fctl) (activeBelow (queued f.op).ctx.v f 32 2#5 i f.cap.vl)).2 = false) := by
  refine ⟨⟨?_, ?_, ?_⟩, ⟨?_, ?_, ?_⟩, ⟨?_, ?_, ?_⟩, ?_, ?_, ?_, ?_, ?_⟩ <;> decide +kernel
/-- The signaling NaN of an element under an enabled NV; and a block of E4M3 codes with one element that is not zero. -/
def fredEntry : VEntry :=
  let e := entry (.fred .max .f32 .rne 1#5 2#5)
  { e with cap := { e.cap with fctl := 0xFFF8#64, vl := 1 } }
def sclEntry : VEntry :=
  let e := entry (.scl .f16 1#5 2#5 0)
  { e with cap := { e.cap with vtype := 0x08#8, vl := 32 } }
theorem witness_ReductionsScansAndScales_scale :
    let s := withV (base .exe) fun v => { (v.setElem 32 2#5 0 0 0x7F800001) with vq := [fredEntry] }
    trapping fredEntry.cap.fctl (vfredRow .max (ffmt .f32) (resolveRm .rne fredEntry.cap.fctl)
      (activeBelow s.ctx.v fredEntry 32 2#5 0 1)).2 = true ∧ s.ctx.entryFree fredEntry = true ∧
    HeadRuns (withV (base .exe) fun v => { v with vq := [sclEntry] }) sclEntry [] ∧ vtEw sclEntry.cap.vtype = 8 ∧
    vtBlock sclEntry.cap.vtype ≠ 0 ∧ sclEntry.cap.vl ≤ vtMax sclEntry.cap.vtype ∧ sclEntry.cap.vl * 16 ≤ 4096 ∧
    0 < vtBlock sclEntry.cap.vtype ∧ vtNarrow sclEntry.cap.vtype = false ∧
    (Machine.Num.fin false 1 0 : Machine.Num).isNan = false ∧ (Machine.Num.inf true).isInf = true ∧
    ((0 : Nat) = 0 ∨ ((0 : Nat).log2 : Int) + 0 ≤ (1 : Nat).log2 + 0) := by
  refine ⟨?_, ?_, ⟨?_, ?_, ?_⟩, ?_, ?_, ?_, ?_, ?_, ?_, ?_, ?_, ?_⟩ <;> decide +kernel
/-- A sum of columns of 32-bit elements, whole, with a kept grade that is not inferred, and over no element. -/
def mvEntry (fctl : Word) (k : Option (BitVec 5)) (vl : Nat) : VEntry :=
  let e := entry (.mv .gp .f32 .rne k 3#5 1#5 2#5)
  { e with cap := { e.cap with fctl := fctl, vl := vl } }
/-- v1 and v2 hold the scalar 1 in column 0, or v1 the signaling NaN. -/
def mvState (a : Nat) (e : VEntry) : State := withV (base .exe) fun v =>
  { ((v.setElem 32 1#5 0 0 a).setElem 32 2#5 0 0 0x3F800000) with vq := [e], gm := [(1, 1#5), (2, 1#5)] }
theorem witness_MultivectorEntriesCompute :
    let e := mvEntry 0#64 none 1
    let s := mvState 0x3F800000 e
    let i := inferred .gp (s.ctx.v.mask 1) (s.ctx.v.mask 2)
    let c := mvColumn .gp (ffmt .f32) .rne i i (s.ctx.v.column (ffmt .f32) 1#5 0) (s.ctx.v.column (ffmt .f32) 2#5 0)
    HeadRuns s e [] ∧ e.resume = .fresh ∧ Ty.isFloat .f32 = true ∧ vtEw e.cap.vtype = Ty.width .f32 ∧ vtNarrow e.cap.vtype = false ∧
    e.cap.vl ≤ vtMax e.cap.vtype ∧ e.cap.vl ≠ 0 ∧ (mvEntry 0#64 none 0).cap.vl = 0 ∧
    (∀ x, ActiveAt s.ctx.v e false x = true → x = 0) ∧ trapping e.cap.fctl c.2.1 = false ∧ c.2.2 = 0#5 ∧
    (let e := mvEntry 0xFFF8#64 none 1
     let s := mvState 0x7F800001 e
     let c := mvColumn .gp (ffmt .f32) .rne i i (s.ctx.v.column (ffmt .f32) 1#5 0) (s.ctx.v.column (ffmt .f32) 2#5 0)
     ActiveAt s.ctx.v e false 0 = true ∧ trapping e.cap.fctl c.2.1 = true) := by
  refine ⟨⟨?_, ?_, ?_⟩, ?_, ?_, ?_, ?_, ?_, ?_, ?_, ?_, ?_, ?_, ?_⟩
  any_goals decide +kernel
  intro x h
  have h1 := (Bool.and_eq_true _ _ ▸ h : _ ∧ _).1
  have h2 : x < 1 := of_decide_eq_true h1
  omega
theorem witness_MultivectorEntriesCompute_grades :
    (0b00101#5 &&& 0b01010#5 = 0#5) ∧ (0b00011#5 &&& 0b01010#5 ≠ 0#5 ∧ 0b00011#5 &&& 0b10101#5 ≠ 0#5) ∧
    (∀ i < 6, Column.at_ [] (5 + i) = .fin false 0 0) := by decide +kernel
theorem witness_MultivectorEntriesCompute_columns :
    let a : Column := List.replicate 5 (.fin false 0 0) ++ [.inf false]
    (a.at_ 5).isInf = true ∧ (∀ i < 3, Column.at_ [] (5 + i) = .fin false 0 0 ∧ Column.at_ [] (8 + i) = .fin false 0 0) ∧
    ctx0.entryFree (entry (.gmRd 3#5 1#5)) = true ∧ ctx0.entryFree (entry (.gmWr 3#5 21#5)) = true := by
  refine ⟨?_, ?_, ?_, ?_⟩ <;> decide +kernel
theorem witness_BladeProductIsAnAlgebra :
    (1 : Nat) ≤ 4 ∧ (4 : Nat) ≤ 4 ∧ (15 : Nat) < 16 ∧ bladeMask 4 = 1 ∧ bladeProduct 4 4 = none ∧ bladeProduct 2 2 = some (false, 0) := by decide
theorem witness_TranslationGrantsAndRecords :
    let s := paged (base .acc)
    s.dev.ckpt.saving = false ∧ (s.xl (s.req .read .direct) 0x12345#64).1 = .ok 0x12345 := by decide +kernel
/-- The page of 4 KiB at 2^30 whose leaf stands at 0xC000: of kind `flags` of 01 R18, mapped to 0x40000. -/
def leafAt (flags : Nat) (s : State) : State :=
  let s := paged s
  let m := memPut (memPut s.mem 0xA008 (toBytes 8 0xB001)) 0xB000 (toBytes 8 0xC001)
  { s with mem := memPut m 0xC000 (toBytes 8 (2 ^ 18 + flags)) }
/-- The leaf of the page with A set, as the die of core 0 has it cached. -/
def tlb0 (flags : Nat) : TlbEntry :=
  { die := 0, asid := 0#12, vpn := 2 ^ 18, pages := 1, pte := BitVec.ofNat 64 (2 ^ 18 + flags), pteAddr := 0xC000, group := [] }
theorem witness_TranslationGrantsAndRecords_leaf :
    let s := leafAt 0xC7 (base .acc)
    let c := { s with tlb := [tlb0 0xC7] }
    LeafOf s (s.req .read) 0x40000010#64 (2 ^ 18 + 0xC7) 0xC000 0x40010 ∧ LeafOf c (s.req .read) 0x40000010#64 (2 ^ 18 + 0xC7) 0xC000 0x40010 ∧
    (c.xl (s.req .read) 0x40000010#64).1 = .ok 0x40010 := by
  refine ⟨Or.inl ⟨0, ?_, ?_⟩, Or.inr ⟨tlb0 0xC7, ?_, ?_, ?_, ?_⟩, ?_⟩ <;> decide +kernel
theorem ordered_base (h : HartId) (sp : Bool) (ar : AcqRel) : Ordered (base h) sp ar := Or.inl (by cases h <;> decide)
theorem witness_LoadsWriteTheirRegister :
    let s := paged ((base .acc).setX 2#5 0x10000#64)
    let r := s.xlAll (s.req .read .direct) (s.addr (ad 2#5)) 4
    let e := { base .exe with ctx := { (base .exe).ctx with m := { (base .exe).ctx.m with mq := [] } } }
    s.ready [2#5] [1#5] = true ∧ s.drained = true ∧ r.1 = .ok [(0x10000, 4)] ∧ r.2.badPiece [(0x10000, 4)] = none ∧
    (s.addr (ad 2#5)).toNat % 4 = 0 ∧ ((s.addr (ad 1#5)).toNat + 4 ≤ 0x400000) ∧
    s.badPlaces ((List.range 4).map fun i => swizzle s.ctx.sr.spz i) = false ∧
    s.badPlaces ((List.range 4).map fun i => swizzle s.ctx.sr.spz (0x3FFFFC + i)) = false ∧ Ordered e true .rlx := by
  refine ⟨?_, ?_, ?_, ?_, ?_, ?_, ?_, ?_, Or.inr ⟨rfl, ?_, ?_⟩⟩ <;> decide +kernel
/-- A window of 6 bytes at 0x10000 (01 R27). -/
def windowed : State :=
  let s := paged (base .acc)
  { s with ctx := { s.ctx with win := [(0, BitVec.ofNat 128 (6 * 2 ^ 64 + 0x10000))] } }
theorem witness_LoadsWriteTheirRegister_window :
    let w := Sparse.get 0#128 windowed.ctx.win 0
    let r (n : Nat) (o : Word) := windowed.xlAll (windowed.req .read .direct) (winBase w + o) n
    winSize (Sparse.get 0#128 (paged (base .acc)).ctx.win 0) = 0 ∧ 0 < winSize w ∧ winSize w ≤ (8#64).toNat ∧
    (winBase w + 4#64).toNat % 4 = 0 ∧ (4#64).toNat < winSize w ∧ (r (min 4 (winSize w - 4)) 4#64).1 = .ok [(0x10004, 2)] ∧
    (r (min 4 (winSize w - 4)) 4#64).2.badPiece [(0x10004, 2)] = none ∧
    (({ windowed with dev := { windowed.dev with xatb := 0#64 } } : State).xlAll (windowed.req .read .direct) 0x10004#64 2).1
      = .fault 0x10004#64 7 7 ∧
    windowed.hs.handler = false ∧ windowed.ctx.sr.hwin.getLsbD 63 = true := by decide +kernel
/-- The page at 2^30 cannot be written; nothing beyond 2^31 is mapped (01 R12, R19). -/
def faulting (flags : Nat) (a : Word) : State := leafAt flags ((base .acc).setX 2#5 a)
theorem witness_FaultsAndPoisonTrap_faults :
    let s := faulting 0xC3 0x40000000#64
    let m := faulting 0xC3 0x80000000#64
    (s.xlAll (s.req .write .direct true) (s.addr (ad 2#5)) 4).1 = .fault 0x40000000#64 1 0 ∧
    (s.xlAll (s.req .rmw .gather true) (s.addr (ad 2#5)) 4).1 = .fault 0x40000000#64 1 0 ∧
    (m.xlAll (m.req .read .direct) (m.addr (ad 2#5)) 4).1 = .fault 0x80000000#64 0 2 ∧
    (s.addr (ad 2#5)).toNat % 4 = 0 ∧ s.drained = true ∧ s.ready [2#5] [1#5] = true ∧ s.ready [2#5, 1#5] [] = true ∧
    s.ready [2#5, 3#5] [1#5] = true ∧ s.ready [2#5, 3#5, 1#5] [1#5] = true ∧ Ty.isInt .i32 = true ∧ s.hs.handler = false ∧
    s.ctx.sr.hwin.getLsbD 63 = true ∧ s.hart = .acc ∧
    (let b := faulting 0xC3 0x400000#64
     0x400000 < (b.addr (ad 2#5)).toNat + 4 ∧ (b.addr (ad 2#5)).toNat % 4 = 0 ∧ b.ready [2#5, 3#5] [1#5] = true ∧
     b.ready [2#5, 3#5, 1#5] [1#5] = true ∧ b.ready [2#5, 1#5] [] = true ∧ b.hs.handler = false) := by decide +kernel
/-- Memory, and the scratchpad at its first word, poisoned at what register 2 addresses. -/
def poisonedAt (h : HartId) (a : Word) : State :=
  let s := paged ((base h).setX 2#5 a)
  { s with poison := [0x10000 / 64], ctx := { s.ctx with spad := { s.ctx.spad with poison := [0] } } }
theorem witness_FaultsAndPoisonTrap_poison :
    let s := poisonedAt .acc 0x10000#64
    let r := s.xlAll (s.req .read .direct) (s.addr (ad 2#5)) 4
    let q := poisonedAt .exe 0#64
    let p := { q with ctx := { q.ctx with strip := some strip0 } }
    r.1 = .ok [(0x10000, 4)] ∧ r.2.badPiece [(0x10000, 4)] = some 0x10000 ∧ partOf 0x10000 = .hbm 0 ∧ s.drained = true ∧ s.hart = .acc ∧
    s.ready [2#5] [1#5] = true ∧ s.hs.handler = false ∧ s.ctx.sr.hwin.getLsbD 63 = true ∧
    q.badPlaces ((List.range 4).map fun i => swizzle q.ctx.sr.spz ((q.addr (ad 2#5)).toNat + i)) = true ∧ q.drained = true ∧
    p.badPlaces ((List.range 4).map fun i => swizzle p.ctx.sr.spz ((p.addr (ad 2#5)).toNat + i)) = true ∧ p.ctx.strip = some strip0 ∧
    strip0.revocable = true ∧ strip0.rewinds < 7 ∧ p.hart = .exe ∧ p.drained = true ∧ p.ready [2#5] [1#5] = true ∧
    ({ strip0 with rewinds := 7 } : Strip).revocable = true := by decide +kernel
theorem witness_FaultsAndPoisonTrap_poisonedAtomics :
    let s := poisonedAt .acc 0x10000#64
    let r := s.xlAll (s.req .rmw .gather true) (s.addr (ad 2#5)) 4
    let w := { s with ctx := { s.ctx with win := [(0, BitVec.ofNat 128 (6 * 2 ^ 64 + 0x10000))] } }
    let x := w.xlAll (w.req .read .direct) 0x10000#64 4
    r.1 = .ok [(0x10000, 4)] ∧ r.2.linkDead r.2.ctx.core [(0x10000, 4)] = none ∧ r.2.remoteUsable 0x10000 = false ∧
    r.2.badPiece [(0x10000, 4)] = some 0x10000 ∧ s.ready [2#5, 3#5] [1#5] = true ∧ s.ready [2#5, 3#5, 1#5] [1#5] = true ∧ Ty.isInt .i32 = true ∧
    (0#64).toNat < winSize (Sparse.get 0#128 w.ctx.win 0) ∧ winBase (Sparse.get 0#128 w.ctx.win 0) + 0#64 = 0x10000#64 ∧
    x.1 = .ok [(0x10000, 4)] ∧ x.2.badPiece [(0x10000, 4)] = some 0x10000 ∧ w.ready [1#5] [2#5] = true := by decide +kernel
theorem local_hbm : Local 0x10000 := by
  unfold Local
  rw [show partOf 0x10000 = .hbm 0 by decide]
  intro q off h
  cases h
theorem performs_acc (s : State) (ar : AcqRel) (h : s.hart = .acc) : Performs s ar := Or.inl h
theorem witness_StoresWriteAndAlign :
    let s := paged ((base .acc).setX 2#5 0x10000#64)
    let r := s.xlAll (s.req .write .direct true) (s.addr (ad 2#5)) 4
    s.hart = .acc ∧ s.ready [2#5, 1#5] [] = true ∧ s.drained = true ∧ r.1 = .ok [(0x10000, 4)] ∧
    (s.addr (ad 1#5)).toNat + 4 ≤ 0x400000 ∧ (((base .acc).setX 2#5 2#64).addr (ad 2#5)).toNat % 4 ≠ 0 := by decide +kernel
/-- The same on the execute hart in a revocable strip. -/
def stripped : State :=
  let s := paged ((base .exe).setX 2#5 0x10000#64)
  { s with ctx := { s.ctx with strip := some strip0 } }
theorem witness_StoresWriteAndAlign_held :
    let r := stripped.xlAll (stripped.req .write .direct true) 0x10000#64 4
    r.1 = .ok [(0x10000, 4)] ∧ r.2.linkDead r.2.ctx.core [(0x10000, 4)] = none ∧ stripped.ctx.strip = some strip0 ∧
    (heldSectors [{ spad := false, addr := 0x10000, bytes := toBytes 4 0, vp := none }]).length ≤ 2048 ∧
    (heldSectors [{ spad := true, addr := 0, bytes := toBytes 4 0, vp := none }]).length ≤ 2048 ∧ stripped.ctx.lane = none ∧
    stripped.ready [2#5, 1#5] [] = true ∧ stripped.drained = true := by decide +kernel
/-- A byte held in each of 2048 sectors from 1 MiB on. -/
def heldAt (i : Nat) : Held := { spad := false, addr := 0x100000 + 64 * i, bytes := [0#8] }
theorem held_sectors (l : List Held) (h : ∀ x ∈ l, x.bytes.length = 1) (hn : (l.map fun x => (x.spad, x.addr / 64)).Nodup) :
    (heldSectors l).length = l.length := by
  have e : l.flatMap (fun h => (List.range h.bytes.length).map fun i => (h.spad, (h.addr + i) / 64)) =
      l.map fun x => (x.spad, x.addr / 64) := by
    clear hn
    induction l with
    | nil => rfl
    | cons a t ih =>
      rw [List.flatMap_cons, List.map_cons, ih fun x hx => h x (List.mem_cons_of_mem _ hx), h a List.mem_cons_self]
      rfl
  rw [heldSectors, e, List.Nodup.dedup hn, List.length_map]
theorem witness_StoresWriteAndAlign_full (sp : Bool) :
    2048 < (heldSectors ({ spad := sp, addr := 0x10000, bytes := toBytes 1 0, vp := none } :: (List.range 2048).map heldAt)).length := by
  rw [held_sectors]
  · simp
  · intro x hx
    simp only [List.mem_cons, List.mem_map] at hx
    rcases hx with rfl | ⟨i, -, rfl⟩ <;> rfl
  · rw [List.map_cons, List.map_map, List.nodup_cons]
    constructor
    · intro h
      obtain ⟨i, -, hi⟩ := List.mem_map.1 h
      simp only [heldAt, Function.comp, Prod.mk.injEq] at hi
      omega
    · refine List.Nodup.map (fun i j h => ?_) List.nodup_range
      simp only [heldAt, Function.comp, Prod.mk.injEq] at h
      omega
theorem held_not_performs : ¬Performs stripped .rlx := by
  rintro (h | h | h)
  · exact absurd h (by decide +kernel)
  · exact absurd h (by decide)
  · exact absurd (h strip0 (by decide +kernel)) (by decide)
theorem witness_ScratchpadPlacesAndTags :
    (5 : Nat) < 0x400000 ∧ (0x3FFFFF : Nat) < 0x400000 ∧ swizzle 0#64 5 = 5 ∧ (base .acc).drained = true ∧
    Sparse.wf 0#64 (base .acc).ctx.spad.tags = true ∧ (base .acc).ready [1#5] [2#5] = true := by decide
/-- A store of the access hart on its way to package 5. -/
def sent0 : Remote :=
  { pkg := 5, asid := none, addr := 0, bytes := [1#8], atomic := false, bad := false, way := .over 5,
    by_ := { core := 0, bank := 0, hart := .acc, cmd := none }, who := [ctx0.hartKey .acc] }
def sending : State := { paged ((base .acc).setX 2#5 0x10000#64) with remote := [sent0] }
theorem arrived_quiet (s : State) (ar : AcqRel) (h : s.irrevocable.remote = []) : Arrived s ar := by
  intro _ r hr
  rw [h] at hr
  cases hr
theorem witness_StoresWriteAndAlign_sent :
    let r := sending.xlAll (sending.req .write .direct true) 0x10000#64 4
    (¬Arrived r.2 (.rel .sys) ∧ r.1 = .ok [(0x10000, 4)] ∧ r.2.linkDead r.2.ctx.core [(0x10000, 4)] = none) ∧
    (¬Arrived sending (.rel .sys)) ∧ Arrived (base .acc) (.rel .sys) := by
  refine ⟨⟨fun h => h ?_ sent0 ?_ ?_ ?_, ?_, ?_⟩, fun h => h ?_ sent0 ?_ ?_ ?_, arrived_quiet _ _ ?_⟩ <;> decide +kernel
theorem witness_AtomicsReadAndWrite :
    let s := paged ((base .acc).setX 2#5 0x10000#64)
    let r := s.xlAll (s.req .rmw .gather true) 0x10000#64 4
    s.drained = true ∧ r.1 = .ok [(0x10000, 4)] ∧ r.2.remoteUsable 0x10000 = false ∧ r.2.badPiece [(0x10000, 4)] = none ∧
    r.2.linkDead r.2.ctx.core [(0x10000, 4)] = none ∧ s.ready [2#5, 3#5] [1#5] = true ∧ s.ready [2#5, 3#5, 1#5] [1#5] = true ∧
    amoValue .add .i32 .rne 5 7 = (12, 0#8) ∧ trapping s.ctx.sr.fctl 0#8 = false ∧ Ty.isInt .i32 = true ∧ Ty.isInt .f32 = false ∧
    s.badPlaces ((List.range 4).map fun i => swizzle s.ctx.sr.spz (0 + i)) = false ∧
    ofBytes ((r.2.irrevocable.gatherStores (.core 0) 0x10000 4).ctxBytes [(0x10000, 4)]) = 0x55 := by decide +kernel
/-- Every flag enabled for traps, and a signaling NaN at scratchpad offset 0. -/
def floatAmo : State :=
  let s := base .exe
  { s with ctx := { (s.ctx.putWord 0 0 0x7F800001 []) with sr := { s.ctx.sr with fctl := 0xFFF8#64 } } }
theorem witness_AtomicsReadAndWrite_float :
    let s := floatAmo
    let places := (List.range 4).map fun i => swizzle s.ctx.sr.spz (0 + i)
    Ty.isInt .f32 = false ∧ (base .acc).hart = .acc ∧ s.hart = .exe ∧ s.ready [2#5, 3#5] [1#5] = true ∧ s.drained = true ∧
    s.badPlaces places = false ∧
    trapping s.ctx.sr.fctl (amoValue .add .f32 .rne (ofBytes (places.map s.spadByte)) 0x3F800000).2 = true ∧ s.ctx.v.vq = [] ∧
    s.hs.handler = false ∧ s.ctx.sr.hwin.getLsbD 63 = true := by decide +kernel
/-- A store of the hart that performed in its core and carries a release at sys. -/
def storeOf (h : HartId) : PStore :=
  { addr := 0x10000, bytes := [7#8], core := 0, level := .core, own := ctx0.hartKey h, who := [ctx0.hartKey h], grp := 0, sync := [] }
theorem witness_FencesAndReleasesPublish :
    (base .exe).drained = true ∧ (base .acc).ctx.cmds = [] ∧ (base .acc).hart = .acc ∧ (base .exe).ctx.strip = none ∧
    (base .exe).dev.ckpt.saving = false := by decide
theorem witness_FencesAndReleasesPublish_sent :
    sending.drained = true ∧ (∃ r ∈ sending.irrevocable.remote, r.flying = true ∧ sending.party ∈ r.who) ∧
    ¬(∃ r ∈ sending.remote, r.flying = true ∧ sending.party ∈ r.who ∧
      (false = true ∨ r.by_ ≠ { core := sending.ctx.core, bank := sending.ctx.bank, hart := sending.hart, cmd := none })) := by
  decide +kernel
theorem witness_FencesAndReleasesPublish_acquired :
    let s := { base .acc with stores := [storeOf .acc] }
    let r := s.syncs 0 s.party .sys
    s.withBlock (fun w => w.who.contains s.party) (storeOf .acc) = true ∧ (storeOf .acc).level ≠ .sys ∧
    (∃ y ∈ r.1, y.core = 0 ∧ y.scope = .sys ∧ sameInst y.scope y.core 9 = true ∧ sameInst .sys y.core 9 = true ∧
      ∃ x ∈ r.2.stores, x.who.contains y.key = true) ∧
    (View.core 0).sees { storeOf .acc with level := .core } = (View.core 0).sees (storeOf .acc) := by decide +kernel
theorem witness_FencesAndReleasesPublish_held :
    let h : Held := { spad := false, addr := 0x10000, bytes := [7#8] }
    let p := { strip0 with held := [h] }
    let s := { base .acc with ctx := { ctx0 with strip := some p } }
    s.ctx.strip = some p ∧ p.held[0]? = some h ∧ p.held.findIdx? (fun x => x.covers false 0x10000) = some 0 ∧ h.spad = false ∧
    h.level ≠ .sys ∧ partOf h.addr = .hbm 0 := by decide +kernel
theorem witness_MajorityInstructions_replica :
    (base .exe).stores = [] ∧ (128 % 64 = 0) ∧ (List.replicate 64 (0#8 : Byte)).length = 64 ∧ (base .exe).dev.ckpt.saving = false ∧
    (base .exe).poison.contains 2 = false ∧ (Sparse.get 0#64 (base .exe).sideband 2).toNat < (5#64).toNat ∧
    (0#64).toNat ≤ (Sparse.get 0#64 (base .exe).sideband 2).toNat ∧ ({ base .exe with poison := [2] } : State).poison.contains 2 = true := by
  decide
def repWrite0 (op : Option Nat) : RepWrite := { op := op, replica := 0, stk := 0, pa := 128, bytes := [], tag := 5#64 }
def repAnswer0 (a : Option Answer) : RepAnswer := { op := 3, replica := 0, stk := 0, pa := 128, ans := a }
theorem witness_MajorityInstructions_messages :
    ({ base .exe with repWrites := [repWrite0 none, repWrite0 (some 3)] } : State).repWrites = [repWrite0 none] ++ repWrite0 (some 3) :: [] ∧
    (repWrite0 none).op = none ∧ (repWrite0 (some 3)).op = some 3 ∧
    ({ base .exe with repAnswers := [repAnswer0 none] } : State).repAnswers = [] ++ repAnswer0 none :: [] ∧ (repAnswer0 none).ans = none ∧
    (repAnswer0 (some (.accept false))).ans = some (.accept false) := by decide

/-- A majority page of set 0 (stacks 0, 3 and 6) at virtual 2^30, beside the mapped GiB (01 R18, R30). -/
def majPaged (s : State) : State :=
  let s := paged s
  let mem := memPut (memPut (memPut s.mem 0xA008 (toBytes 8 0xB001)) 0xB000 (toBytes 8 0xC001)) 0xC000 (toBytes 8 0x404C7)
  { s with
    mem := mem
    dev := { s.dev with rdydie := [(0, 0x7F#64), (1, 0x7F#64), (2, 0x7F#64)], mcbase := 0x8000000000000000#64,
                        xmsetLive := [(0, BitVec.ofNat 64 (2 ^ 63 + 3 * 2 ^ 60 + 6 * 2 ^ 10 + 3 * 2 ^ 5))] } }
theorem witness_MajorityInstructions :
    let s := majPaged ((base .exe).setX 2#5 0x40000000#64)
    let r := s.xlAll (s.req .majWrite) 0x40000000#64 64
    let q := s.xlAll (s.req .majRead) 0x40000000#64 64
    let lost (t : State) := (t.replicas 0).filter fun k => t.dev.mclost.getLsbD k.2
    let one := { s with dev := { s.dev with mclost := 8#64 } }
    s.ready [2#5, 1#5] [3#5] = true ∧ s.maj = [] ∧ s.drained = true ∧ r.1 = .ok [(0x40000, 64)] ∧
    (r.2.cached r.2.ctx.core r.2.ctx.asid 0x40000000).isSome = true ∧ r.2.dev.mcbase.getLsbD 63 = true ∧
    q.1 = .ok [(0x40000, 64)] ∧ (q.2.cached q.2.ctx.core q.2.ctx.asid 0x40000000).isSome = true ∧ q.2.dev.mcbase.getLsbD 63 = true ∧
    s.ready [2#5] [1#5, 3#5] = true ∧ s.ready [2#5] [3#5] = true ∧ r.2.remote = [] ∧ r.2.irrevocable.remote = [] ∧
    r.2.mccOf (slotOf 0 0 .exe) ≠ 0xFFFFFF ∧ (r.2.replicas 0).length = 3 ∧ lost r.2 = [] ∧ (lost one).length = 1 ∧
    2 * (lost one).length < (one.replicas 0).length := by decide +kernel
def majOp0 : MajOp :=
  { id := 4, instr := .mcld 1#5 2#5 3#5 .rlx, launch := 1, asid := 0#12, orphan := false, deg := false, core := 0, bank := 0, hart := .exe, store := false, addr := 0#64,
    pa := 0x40000, mset := 0#4, tag := 0#64, acc := 3, rej := 0, lost := 0, newest := 0#64, good := [], bad := [], badLost := [],
    stale := [], wrote := false, result := some (some (List.replicate 64 0#8, 0#64)) }
theorem witness_StepRunsTheDecodedInstruction_majority :
    let w := ({ base .exe with maj := [majOp0] } : State).setWait .majority
    let s : State := { w with agenda := [{ core := 0, bank := 0, hart := .exe, act := .instr }] }
    let u := ({ s with agenda := [] } : State).focus 0 0 .exe
    u.lostRequest = none ∧ u.issues = true ∧ u.midOp = some (.mcld 1#5 2#5 3#5 .rlx) := by decide +kernel
theorem witness_MajorityInstructions_complete :
    let s := ({ base .exe with maj := [majOp0] } : State).setWait .majority
    s.ownOp = some majOp0 ∧ s.hs.wait = .majority ∧ majOp0.result = some (some (List.replicate 64 0#8, 0#64)) ∧
    s.ready [] [1#5, 3#5] = true ∧ (List.replicate 64 (0#8 : Byte)).length = 64 ∧
    majOp0.instr = .mcld 1#5 2#5 3#5 .rlx ∧ ({ majOp0 with result := none } : MajOp).result = none ∧
    ({ majOp0 with instr := .mctag 2#5 3#5 .rlx } : MajOp).instr ≠ .mcld 1#5 2#5 3#5 .rlx ∧
    (let u := majPaged (base .exe)
     let s := { u with dev := { u.dev with mcc := [(slotOf 0 0 .exe, 0xFFFFFF#24)] } }
     let r := s.xlAll (s.req .majWrite) 0x40000000#64 64
     r.1 = .ok [(0x40000, 64)] ∧ s.maj = [] ∧ r.2.mccOf (slotOf 0 0 .exe) = 0xFFFFFF) := by decide +kernel
/-- A barrier object at offset 16 that expects 3 arrivals and has 2, in phase 0 (16 R349). -/
def barState : State :=
  let s := (base .acc).setX 2#5 16#64
  { s with ctx := s.ctx.putWord 0 16 (3 * 16 + 2 * 2 ^ 16) [] }
theorem witness_BarriersCountAndWait :
    let s := barState
    let w := s.ctx.objWord 16
    s.drained = true ∧ (s.x 2#5).toNat % 16 = 0 ∧ bits (s.x 2#5).toNat 25 39 = 0 ∧
    s.peer (barCore s.ctx.core (s.x 2#5)) = some s.ctx ∧ s.ctx.place = .active ∧ s.ctx.strip = none ∧
    s.objBad s.ctx 16 = false ∧ s.ready [2#5] [1#5] = true ∧ s.ready [2#5, 3#5] [1#5] = true ∧
    objArr w + (0#5).toNat < objExp w ∧ objArr w + (1#5).toNat = objExp w ∧ objExp w < objArr w + (2#5).toNat ∧
    s.hs.handler = false ∧ s.ctx.sr.hwin.getLsbD 63 = true := by decide +kernel
theorem witness_MajorityInstructions_other :
    let s := { base .exe with maj := [majOp0] }
    let t := { base .exe with maj := [{ majOp0 with store := true }] }
    s.ctx.v.vq = [] ∧ s.hs.wait ≠ .majority ∧ s.ownOp = some majOp0 ∧ majOp0.instr ≠ .mcst 1#5 2#5 3#5 .rlx ∧
    t.ownOp = some { majOp0 with store := true } := by decide +kernel
theorem witness_BarriersCountAndWait_gone :
    let s := barState
    let u := s.setWait (.barw 1 16 (.x 1#5) 0#4)
    let c : Context := { Context.empty 1 0 with place := .spilled, launch := 1, ah := hart0, xh := hart0 }
    u.hs.wait = .barw 1 16 (.x 1#5) 0#4 ∧ u.hs.run = .running ∧ u.ctx.place = .active ∧ u.barBusy (.x 1#5) = false ∧ u.peer 1 = none ∧
    ({ u with others := [c] } : State).peer 1 = some c ∧ c.place ≠ .active ∧ u.hs.handler = false ∧ u.ctx.sr.hwin.getLsbD 63 = true ∧
    u.hart = .acc := by decide +kernel
theorem witness_BarriersCountAndWait_wait :
    let s := barState
    let u := s.setWait (.barw 0 16 (.x 1#5) 0#4)
    objPhase (s.loadObj s.ctx 16) ≠ (1#4).toNat ∧ objPhase (s.loadObj s.ctx 16) = (0#4).toNat ∧ (s.setX 3#5 9#64).x 3#5 ≠ 0#64 ∧
    s.barBusy (.x 1#5) = false ∧ u.barBusy (.x 1#5) = false ∧
    u.hs.wait = .barw 0 16 (.x 1#5) 0#4 ∧ u.hs.run = .running ∧ u.ctx.place = .active ∧ u.peer 0 = some u.ctx := by decide +kernel
def memEntry (op : VOp) : VEntry := entry op
/-- The head entry alone in the queue, memory mapped, with the words 5, 6, 7, 8 at 0x10000. -/
def memState (e : VEntry) : State :=
  let s := paged (withV (base .exe) fun v => { v with vq := [e] })
  { s with mem := memPut s.mem 0x10000 (toBytes 16 (5 + 6 * 2 ^ 32 + 7 * 2 ^ 64 + 8 * 2 ^ 96)) }
def finds (sp : Bool) (r : XlReq) (e : VEntry) : List Found × State :=
  let i := entryState (memState e) e
  i.findAll sp r none (i.segmented sp ((memState e).ctx.v.elements e.op e.pg e.cap fromStart))
def allFound (t : State) (fs : List Found) : Bool :=
  fs.all fun f => match f.x with
    | .ok p => decide (t.foundDead f = none) && decide (t.spotBad p = none)
    | .fault _ _ _ | .hold | .later => false
theorem allFound_of (t : State) (fs : List Found) (reads : Bool) (h : allFound t fs = true) : AllFound t fs reads := by
  intro f hf
  have h := List.all_eq_true.mp h f hf
  split at h
  · rename_i p hx
    simp only [Bool.and_eq_true, decide_eq_true_eq] at h
    exact ⟨p, hx, h.1, fun _ => h.2⟩
  all_goals cases h
def loadEntry (sh : VShape) (ft : Bool) (b : Word) : VEntry := memEntry (.load sh .i32 1#5 false b .rlx false ft)
theorem witness_VectorMemoryEntriesCompute_loads :
    (let e := loadEntry .unit true 0x10000#64
     let r := finds false ((entryState (memState e) e).req .read .stream) e
     HeadRuns (memState e) e [] ∧ e.resume = .fresh ∧ e.cap.rc ≤ 16 ∧ e.cap.vl * Ty.width .i32 ≤ 4096 ∧ AllFound r.2 r.1 true) ∧
    (let e := loadEntry (.seg 2) false 0x10000#64
     let r := finds false ((entryState (memState e) e).req .read .direct) e
     HeadRuns (memState e) e [] ∧ AllFound r.2 r.1 true) ∧
    (let e := loadEntry (.index 2#5) false 0x10000#64
     let r := finds false ((entryState (memState e) e).req .read .gather) e
     HeadRuns (memState e) e [] ∧ AllFound r.2 r.1 true) := by
  refine ⟨⟨⟨?_, ?_, ?_⟩, ?_, ?_, ?_, allFound_of _ _ _ ?_⟩, ⟨⟨?_, ?_, ?_⟩, allFound_of _ _ _ ?_⟩, ⟨?_, ?_, ?_⟩, allFound_of _ _ _ ?_⟩ <;>
    decide +kernel
theorem witness_VectorMemoryEntriesCompute_mvld :
    let e := memEntry (.mvLoad .f32 1#5 false 0x10000#64 .rlx false (some 1#5))
    let r := finds false ((entryState (memState e) e).req .read .stream) e
    HeadRuns (memState e) e [] ∧ vtEw e.cap.vtype = Ty.width .f32 ∧ vtNarrow e.cap.vtype = false ∧ e.cap.vl ≠ 0 ∧ AllFound r.2 r.1 true ∧
    (∃ x < vtMax e.cap.vtype, ¬ActiveAt (memState e).ctx.v e false x = true) := by
  refine ⟨⟨?_, ?_, ?_⟩, ?_, ?_, ?_, allFound_of _ _ _ ?_, 4, ?_, ?_⟩ <;> decide +kernel
def hbmWord (k : Fin 0x100) : Bool :=
  match partOf (0x10000 + k.val) with
  | .remote _ _ => false
  | .hbm _ | .cxl _ _ | .aperture _ _ | .device _ | .hole => true
theorem hbm_words : ∀ k : Fin 0x100, hbmWord k = true := by decide +kernel
theorem local_words (a : Nat) (h : 0x10000 ≤ a ∧ a < 0x10100) : Local a := by
  obtain ⟨k, rfl⟩ := Nat.exists_eq_add_of_le h.1
  intro q off hp
  have := hbm_words ⟨k, by omega⟩
  unfold hbmWord at this
  simp only [hp] at this
  cases this
def localFound (fs : List Found) : Bool :=
  fs.all fun f => match f.x with
    | .ok p => (placesOf p).all fun q => q.1 || (decide (0x10000 ≤ q.2) && decide (q.2 < 0x10100))
    | .fault _ _ _ | .hold | .later => true
theorem localFound_of (fs : List Found) (h : localFound fs = true) :
    ∀ f ∈ fs, ∀ p, f.x = .ok p → ∀ a, (false, a) ∈ placesOf p → Local a := by
  intro f hf p hx a ha
  have h := List.all_eq_true.mp h f hf
  rw [hx] at h
  have h := List.all_eq_true.mp h _ ha
  simp only [Bool.false_or, Bool.and_eq_true, decide_eq_true_eq] at h
  exact local_words a h
def storeEntry (ord : Bool) : VEntry := memEntry (.store .unit .i32 1#5 false 0x10000#64 .rlx ord)
theorem witness_VectorMemoryEntriesCompute_stores :
    let e := storeEntry true
    let r := finds false ((entryState (memState e) e).req .write .stream true) e
    HeadRuns (memState e) e [] ∧ e.resume = .fresh ∧ (memState e).entryWaits e = false ∧ AllFound r.2 r.1 false ∧ r.2.dev.ckpt.saving = false ∧ (r.2.releaseFor .rlx).2.stores = [] ∧
    (∀ f ∈ r.1, ∀ p, f.x = .ok p → ∀ a, (false, a) ∈ placesOf p → Local a) ∧ (memState (storeEntry false)).ctx.strip = none := by
  refine ⟨⟨?_, ?_, ?_⟩, ?_, ?_, allFound_of _ _ _ ?_, ?_, ?_, localFound_of _ ?_, ?_⟩ <;> decide +kernel
/-- The same with the page translated by a gather before: its translation needs no change. -/
def amoEntry (sp : Bool) : VEntry := memEntry (.amo .add .i32 .rne 1#5 sp (if sp then 0#64 else 0x10000#64) 2#5 .rlx false)
def gathered (e : VEntry) : State := ((memState e).xlAll ((entryState (memState e) e).req .rmw .gather true) 0x10000#64 4).2
theorem witness_VectorMemoryEntriesCompute_atomics :
    (let e := amoEntry false
     let s := gathered e
     let i := entryState s e
     let els := s.ctx.v.elements e.op e.pg e.cap fromStart
     HeadRuns s e [] ∧ e.resume = .fresh ∧ s.entryWaits e = false ∧ e.cap.rc = 1 ∧ i.dev.ckpt.saving = false ∧ els.map (·.addr.toNat) = List.replicate 4 0x10000 ∧
     (i.xlAll (i.req .rmw .gather true) 0x10000#64 4).1 = .ok [(0x10000, 4)] ∧ (i.xlAll (i.req .rmw .gather true) 0x10000#64 4).2 = i ∧
     i.badPiece [(0x10000, 4)] = none) ∧
    (let e := amoEntry true
     let s := memState e
     let els := s.ctx.v.elements e.op e.pg e.cap fromStart
     HeadRuns s e [] ∧ els.map (·.addr.toNat) = List.replicate 4 0 ∧
     (entryState s e).badPlaces ((List.range 4).map fun k => swizzle e.cap.spz k) = false) := by
  refine ⟨⟨⟨?_, ?_, ?_⟩, ?_, ?_, ?_, ?_, ?_, ?_, ?_, ?_⟩, ⟨?_, ?_, ?_⟩, ?_, ?_⟩ <;> decide +kernel
/-- A frame of one row of four words, grade 0, at 0x10000 (07 R168). -/
def fillEntry : VEntry := memEntry (.fill 1#5 (ad 2#5) 0x10000#64)
def framed (h : Nat) : State :=
  let s := memState fillEntry
  { s with mem := memPut s.mem 0x10000 (toBytes 8 h) }
def frameHeader : VEl := { row := 0, elem := 0, num := 0, addr := 0x10000#64, len := 8, hi := none, regs := [1#5] }
theorem witness_VectorMemoryEntriesCompute_fill :
    let good := 2 ^ 32 + 4 * 2 ^ 16 + 2 * 2 ^ 8 + 1
    let read (h : Nat) := (entryState (framed h) fillEntry).findEl false ((entryState (framed h) fillEntry).req .read) frameHeader
    let rows := fun r => decide (r < 1) && (BitVec.ofNat 5 1).getLsbD (gradeOfRow r)
    let els := (List.range 4).map (frameElement 32 4 0x10008#64 rows 1#5 0)
    let p := Spot.mem [(0x10000, 8)]
    HeadRuns (framed good) fillEntry [] ∧ (read good).1 = .ok p ∧ (read good).2.spotBad p = none ∧
    ofBytes ((placesOf p).map (placeByte (read good).2)) = good ∧ (read 0).1 = .ok p ∧
    ofBytes ((placesOf p).map (placeByte (read 0).2)) = 0 ∧ (read 0).2.spotBad p = none ∧ (framed 0).ctx.xh.handler = false ∧
    els.Pairwise (fun x y => x.before y = true) ∧
    (∀ x, x ∈ els ↔ ∃ r c, r < 16 ∧ rows r = true ∧ c < 4 ∧ x = frameElement 32 4 0x10008#64 rows 1#5 r c) ∧
    (let a := (read good).2.markSpot .rlx p
     let r := a.findAll false ((entryState (framed good) fillEntry).req .read) none (a.segmented false els)
     AllFound r.2 r.1 true) := by
  refine ⟨⟨?_, ?_, ?_⟩, ?_, ?_, ?_, ?_, ?_, ?_, ?_, ?_, ?_, allFound_of _ _ _ ?_⟩
  rotate_right 2
  · intro x
    simp only [List.mem_map, List.mem_range]
    constructor
    · rintro ⟨c, hc, rfl⟩
      exact ⟨0, c, by decide, by decide, hc, rfl⟩
    · rintro ⟨r, c, hr, h, hc, rfl⟩
      have : r = 0 := by have := (Bool.and_eq_true _ _ ▸ h : _ ∧ _).1; simpa using this
      subst this
      exact ⟨c, hc, rfl⟩
  all_goals decide +kernel
/-- Elements 0 and 1 lie in the mapped GiB, 2 and 3 beyond it. -/
def edge : Word := 0x3FFFFFF8#64
def edgeEntry (ft : Bool) : VEntry := loadEntry .unit ft edge
def edgeIndexed : VEntry := loadEntry (.index 2#5) false 0x40000000#64
theorem witness_VectorMemoryEntriesCompute_faults :
    let r := finds false ((entryState (memState (edgeEntry true)) (edgeEntry true)).req .read .stream) (edgeEntry true)
    let r0 := finds false ((entryState (memState edgeIndexed) edgeIndexed).req .read .gather) edgeIndexed
    HeadRuns (memState (edgeEntry true)) (edgeEntry true) [] ∧ (memState (edgeEntry true)).entryWaits (edgeEntry true) = false ∧
    r.1.map (fun f => decide (f.x = .fault 0x40000000#64 0 2) || decide (f.x = .fault 0x40000004#64 0 2)) = [false, false, true, true] ∧
    (∀ g ∈ r.1.take 2, ∃ p, g.x = .ok p) ∧
    (r.1.all fun g => decide (g.x ≠ .hold) && match g.x with
      | .ok p => decide (r.2.spotBad p = none) && decide (r.2.foundDead g = none)
      | _ => true) = true ∧
    r0.1.map (·.x) = List.replicate 4 (.fault 0x40000000#64 0 2) ∧ edgeIndexed.cap.rc = 1 ∧ edgeIndexed.cap.vl ≤ 512 ∧
    (memState edgeIndexed).ctx.xh.handler = false := by
  refine ⟨⟨?_, ?_, ?_⟩, ?_, ?_, ?_, ?_, ?_, ?_, ?_, ?_⟩
  rotate_left 5
  · intro g hg
    have h : ((finds false ((entryState (memState (edgeEntry true)) (edgeEntry true)).req .read .stream) (edgeEntry true)).1.take 2).all
        (fun f => match f.x with | .ok _ => true | _ => false) = true := by decide +kernel
    have h := List.all_eq_true.mp h g hg
    split at h
    · rename_i p hx; exact ⟨p, hx⟩
    · cases h
  all_goals decide +kernel
def desc0 : Desc := BitVec.ofNat 128 (128 * 2 ^ 112 + 2 * 2 ^ 57 + 32 * 2 ^ 48 + 40 * 2 ^ 40)
def tiled : State := withM (base .exe) fun m => { m with desc := [(0, desc0)] }
theorem witness_MatrixInstructionsCommitOrTrap :
    let good (i : Instr) (heavy : Bool) : Bool := (matrixOf tiled i).any fun p =>
      p.1 && tiled.ready p.2.1 [] && decide (p.2.2.2.isSome = heavy)
    good .mswap false = true ∧ good (.mmul true .i8 0#3 0#3 0#3) true = true ∧
    (matrixOf tiled (.mmul true .i8 0#3 1#3 0#3)).any (fun p => !p.1) = true ∧ tiled.ctx.v.vq = [] ∧ tiled.ctx.m.mq.length < 32 ∧
    tiled.hart = .exe ∧ tiled.hs.handler = false ∧
    ((matrixOf tiled (.mmul true .i8 0#3 0#3 0#3)).bind fun p => p.2.2.2) = some 24 ∧
    (let l := { leave0 .exe with cost := 24 }
     [l].find? (fun l => tiled.ownLeave .exe l && !l.claimed && decide (l.cost = 24)) = some l) ∧
    (inHandler (base .exe)).hs.handler = true ∧ (inHandler (base .exe)).hs.ts = false := by decide +kernel
theorem witness_MatrixInstructionsCommitOrTrap_descriptors :
    descOk desc0 = true ∧ descOk (0#64 ++ 0#64) = false ∧ (base .exe).ready [1#5, 2#5] [] = true ∧ (base .exe).hart = .exe ∧
    (base .exe).hs.handler = false ∧ descOk ((tiled.desc 0#3).extractLsb' 64 64 ++ 0#3 ++ (tiled.desc 0#3).extractLsb' 0 61) = true ∧
    descOk ((tiled.desc 0#3).extractLsb' 64 64 ++ 3#3 ++ (tiled.desc 0#3).extractLsb' 0 61) = false ∧ dRows (tiled.desc 1#3) = 0 ∧
    descOk (tiled.desc 0#3) = true ∧
    (let bad := withM (base .exe) fun m => { m with desc := [(0, desc0.extractLsb' 64 64 ++ 3#3 ++ desc0.extractLsb' 0 61)] }
     descOk (bad.desc 0#3) = false ∧ dRows (bad.desc 0#3) ≠ 0) := by decide +kernel
/-- An entry of the method store that binds selector 20 of DENSE operands to a routine at 0x2000 (17 R371). -/
def routine0 : Method := BitVec.ofNat 128 (0x2000 * 2 ^ 64 + 2 ^ 24 + 20)
theorem witness_SendEntersItsMethodOrTraps :
    let called := withM tiled fun m => { m with methods := [routine0] }
    let found (s : State) (sel : Nat) : Option Found' := lookup s.ctx.m.methods sel (s.classOf 0#4) (s.classOf 1#4)
    (found called 20).any (fun e => mRoutine e.m && decide (ruleClass e.m 0 0 0 = 0)) = true ∧ called.depth < 8 ∧
    operandOk (called.operand 0#4) = true ∧ operandOk (called.operand 1#4) = true ∧ called.ready [] [31#5] = true ∧
    (match found tiled 2 with
     | some e => (match tiled.builtinSteps (mBop e.m) 2#4 (tiled.operand 2#4) (tiled.operand 0#4) (tiled.operand 1#4) with
        | some (ops, none) => decide (ops.length ≤ 32) && !mRoutine e.m && decide (ruleClass e.m 0 0 0 = 0)
        | _ => false)
     | none => false) = true ∧ found tiled 0xEE = none ∧
    (withM ((base .exe).setX 31#5 0x3000#64) fun m => { m with sendstk := [5#64] }).ctx.m.sendstk = [5#64] ∧
    (((base .exe).setX 31#5 0x3000#64).x 31#5).toNat % 8 = 0 := by decide +kernel

/-- Wildcard entries of selector 0, with OVR and without (17 R371). -/
def wild0 (ovr : Bool) : Method := BitVec.ofNat 128 ((if ovr then 2 ^ 25 else 0) + 8 * 2 ^ 20 + 8 * 2 ^ 16)
theorem witness_MethodLookupAndTables_wild :
    (∀ ovr, storeHas [wild0 ovr] 0 8 8 = some (0, wild0 ovr) ∧ storeHas [wild0 ovr] 0 0 0 = none ∧ storeHas [wild0 ovr] 0 0 8 = none ∧
      storeHas [wild0 ovr] 0 8 0 = none) ∧ mOvr (wild0 true) = true ∧ mOvr (wild0 false) = false ∧ binding 0 0 0 ≠ none := by decide +kernel
theorem witness_MethodLookupAndTables :
    let s := paged (((base .exe).setX 1#5 0x10000#64).setX 2#5 1#64)
    let r := s.xlAll (s.req .read) 0x10000#64 16
    storeHas [routine0] 20 0 0 = some (0, routine0) ∧ storeHas [routine0] 0 0 0 = none ∧
    (lookup [routine0] 0 0 0).any (fun e => e.layer) = true ∧ s.ready [1#5, 2#5] [] = true ∧ s.drained = true ∧ (s.x 2#5).toNat ≤ 256 ∧
    r.1 = .ok [(0x10000, 16)] ∧ r.2.badPiece [(0x10000, 16)] = none ∧
    tableReason 0 [] (methodsOf 1 (r.2.ctxBytes [(0x10000, 16)])) = none ∧
    (let u := { s with mem := memPut s.mem 0x10000 [7#8] }
     tableReason 0 [] (methodsOf 1 ((u.xlAll (u.req .read) 0x10000#64 16).2.ctxBytes [(0x10000, 16)]))) = some (0, 5) ∧
    s.hs.handler = false ∧ s.ctx.sr.hwin.getLsbD 63 = true ∧
    (lookup tiled.ctx.m.methods 0 (tiled.classOf 0#4) (tiled.classOf 1#4)).any (fun e => decide (e.index < 256)) = true ∧
    lookup tiled.ctx.m.methods 0xEE (tiled.classOf 0#4) (tiled.classOf 1#4) = none := by decide +kernel

/-! `tsave` and `tload`: the frame at the start of the handler window. -/

def frameState (ts : Bool) : State :=
  let s := (base .exe).setX 1#5 0x200000#64
  paged (s.setHs { s.hs with t := { s.hs.t with hstat := if ts then 3#64 else 1#64 } })
def framePieces : List (Nat × Nat) := (List.range 164).map fun k => (0x200000 + 4096 * k, 4096)
theorem witness_MatrixStateIsSavedAndLoaded :
    let s := frameState false
    let r := ({ s with free := s.free + 1 } : State).xlAll (s.req .write) 0x200000#64 0xA4000
    s.hart = .exe ∧ s.ready [1#5] [] = true ∧ s.hs.handler = true ∧ s.frameOk (s.x 1#5) = true ∧ s.ctx.v.vq = [] ∧ s.hs.ts = false ∧
    s.ctx.m.pend = [] ∧ s.ctx.strip = none ∧ r.1 = .ok framePieces ∧ r.2.linkDead r.2.ctx.core framePieces = none := by decide +kernel

theorem get_behind {β : Type} (d : β) (l m : Sparse β) (j : Nat) (h : ∀ c ∈ l, c.1 ≠ j) : Sparse.get d (l ++ m) j = Sparse.get d m j := by
  induction l with
  | nil => rfl
  | cons c t ih =>
    obtain ⟨k, v⟩ := c
    have hk : k ≠ j := h (k, v) (by simp)
    simp only [List.cons_append, Sparse.get, if_neg hk]
    exact ih fun c hc => h c (by simp [hc])
theorem get_range {β : Type} (d : β) (g : Nat → β) (b n i : Nat) (h : i < n) :
    Sparse.get d ((List.range n).map fun i => (b + i, g i)) (b + i) = g i := by
  induction n with
  | zero => omega
  | succ n ih =>
    rw [List.range_succ, List.map_append]
    by_cases hi : i < n
    · have : Sparse.get d ((List.range n).map fun i => (b + i, g i)) (b + i) = g i := ih hi
      clear ih
      have gen : ∀ l m : Sparse β, (∃ c ∈ l, c.1 = b + i) → Sparse.get d (l ++ m) (b + i) = Sparse.get d l (b + i) := by
        intro l m hl
        induction l with
        | nil => simp at hl
        | cons c t iht =>
          obtain ⟨k, v⟩ := c
          by_cases hk : k = b + i
          · simp [Sparse.get, hk]
          · simp only [List.cons_append, Sparse.get, if_neg hk]
            refine iht ?_
            obtain ⟨c, hc, e⟩ := hl
            rcases List.mem_cons.1 hc with rfl | hc
            · exact absurd e hk
            · exact ⟨c, hc, e⟩
      rw [gen _ _ ⟨(b + i, g i), by simp; exact hi, rfl⟩, this]
    · have e : i = n := by omega
      subst e
      rw [get_behind d _ _ _ (by
        intro c hc
        simp only [List.mem_map, List.mem_range] at hc
        obtain ⟨k, hk, rfl⟩ := hc
        show b + k ≠ b + i
        omega)]
      simp [Sparse.get]
theorem flat_range {β : Type} (g : Nat → β) (n m : Nat) :
    ((List.range n).flatMap fun k => (List.range m).map fun i => g (m * k + i)) = (List.range (m * n)).map g := by
  induction n with
  | zero => simp
  | succ n ih =>
    rw [List.range_succ, List.flatMap_append, ih, Nat.mul_succ, List.range_add, List.map_append]
    simp [Function.comp_def]

/-- The frame's bytes: accumulator rows of zeros, then the words that the device keeps there. -/
def frameByte (i : Nat) : Byte := if i < 0x80000 then 0#8 else (frameRest 0).getD (i - 0x80000) 0#8
def frame0 : TFrame :=
  { mark := 0, mq := [], desc := [], wts := [], wscale := [], wfmt0 := none, wfmt1 := none, act := false, cfmt0 := none, cfmt1 := none,
    cact := false, poisoned := [] }
/-- A cached translation of the first GiB, whose entry in memory has been changed since. -/
def reload : State :=
  let s := frameState true
  { s with
    mem := ((List.range 8).map fun i => (0xA000 + i, (0#8 : Byte))) ++ (List.range 0xA4000).map fun i => (0x200000 + i, frameByte i)
    tlb := [{ die := 0, asid := 0#12, vpn := 0, pages := 0x40000, pte := 0xCF#64, pteAddr := 0xA000 }]
    ctx := { s.ctx with m := { s.ctx.m with frame := some frame0 } } }
theorem xl_same (s : State) (r : XlReq) (va : Word) (t : TlbEntry) (hc : s.cached r.core r.asid va.toNat = some t)
    (h1 : pteTouched t.pte.toNat r false = t.pte.toNat) (h2 : t.pages ≠ 16) (h3 : t.fresh = false) : (s.xl r va).2 = s := by
  unfold State.xl
  split
  · rfl
  · split
    · rfl
    · simp only [hc, TlbEntry.entry, if_neg h2]
      simp only [h3, h1]
      split <;> rfl
theorem reload_xl : (reload.xlAll (reload.req .read) 0x200000#64 0xA4000).1 = .ok framePieces := by decide +kernel
theorem xlPieces_same (s : State) (r : XlReq) (l : List (Word × Nat)) (h : ∀ p ∈ l, (s.xl r p.1).2 = s) : (s.xlPieces r l).2 = s := by
  induction l with
  | nil => rfl
  | cons p t ih =>
    obtain ⟨va, n⟩ := p
    have hv : (s.xl r va).2 = s := h (va, n) (by simp)
    have ht := ih fun p hp => h p (by simp [hp])
    unfold State.xlPieces
    rcases hx : s.xl r va with ⟨x, u⟩
    rw [hx] at hv
    simp only at hv
    subst hv
    cases x <;> simp only [ht, ite_self]
    rcases hy : u.xlPieces r t with ⟨y, w⟩
    rw [hy] at ht
    simp only at ht
    subst ht
    cases y <;> rfl
theorem reload_same : (reload.xlAll (reload.req .read) 0x200000#64 0xA4000).2 = reload := by
  refine xlPieces_same _ _ _ fun p hp => xl_same _ _ _ { die := 0, asid := 0#12, vpn := 0, pages := 0x40000, pte := 0xCF#64, pteAddr := 0xA000 }
    ?_ (by decide +kernel) (by decide) rfl
  have h : ∀ p ∈ pagePieces (0xA4000 / 4096 + 2) 0x200000#64 0xA4000, reload.cached (reload.req .read).core (reload.req .read).asid p.1.toNat =
      some { die := 0, asid := 0#12, vpn := 0, pages := 0x40000, pte := 0xCF#64, pteAddr := 0xA000 } := by decide +kernel
  exact h p hp
theorem reload_byte (j : Nat) (h : j < 0xA4000) : reload.ctxByte (0x200000 + j) = frameByte j := by
  have h1 : reload.ctx.strip = none := by decide +kernel
  have h2 : reload.stores = [] := by decide +kernel
  have h3 : reload.mem = ((List.range 8).map fun i => (0xA000 + i, (0#8 : Byte))) ++
      (List.range 0xA4000).map fun i => (0x200000 + i, frameByte i) := rfl
  unfold State.ctxByte Context.heldByte State.byte State.byteBy memGet
  rw [h1, h2, h3]
  show Sparse.get 0#8 _ (0x200000 + j) = frameByte j
  rw [get_behind _ _ _ _ (by
    intro c hc
    simp only [List.mem_map, List.mem_range] at hc
    obtain ⟨k, hk, rfl⟩ := hc
    show 0xA000 + k ≠ 0x200000 + j
    omega)]
  exact get_range 0#8 frameByte 0x200000 0xA4000 j h
theorem badPiece_clean (s : State) (ps : List (Nat × Nat)) (hp : s.poison = []) (hs : s.ctx.strip = none) : s.badPiece ps = none := by
  have h : ∀ p : Nat × Nat, s.poisoned p.1 p.2 = false := by intro p; simp [State.poisoned, hp]
  have h2 : ∀ a, s.ctx.heldBad a = false := by intro a; simp [Context.heldBad, hs]
  simp [State.badPiece, h, h2]
theorem frameRest_length (mark : Nat) : (frameRest mark).length = 0x24000 := by
  have h : ∀ n, (toBytes 8 n).length = 8 := fun n => by simp [toBytes]
  simp only [frameRest, List.length_flatMap, h, List.map_const', List.sum_replicate, List.length_range]
  decide
theorem witness_MatrixStateIsSavedAndLoaded_load :
    let r := reload.xlAll (reload.req .read) 0x200000#64 0xA4000
    reload.hart = .exe ∧ reload.hs.ts = true ∧ reload.ctx.m.mq = [] ∧ reload.ctx.m.pend = [] ∧ r.1 = .ok framePieces ∧
    r.2.badPiece framePieces = none ∧ reload.ctx.m.frame = some frame0 ∧
    (r.2.ctxBytes framePieces).drop 0x80000 = frameRest frame0.mark := by
  refine ⟨by decide +kernel, by decide +kernel, by decide +kernel, by decide +kernel, reload_xl, ?_, by decide +kernel, ?_⟩
  · show (reload.xlAll (reload.req .read) 0x200000#64 0xA4000).2.badPiece framePieces = none
    rw [reload_same]
    exact badPiece_clean _ _ rfl rfl
  · show ((reload.xlAll (reload.req .read) 0x200000#64 0xA4000).2.ctxBytes framePieces).drop 0x80000 = frameRest 0
    rw [reload_same]
    have e : reload.ctxBytes framePieces = (List.range 0xA4000).map frameByte := by
      have h : reload.ctxBytes framePieces = (List.range 164).flatMap fun k => (List.range 4096).map fun i =>
          reload.ctxByte (0x200000 + (4096 * k + i)) := by
        simp only [State.ctxBytes, framePieces, List.flatMap_map, Nat.add_assoc]
      rw [h, flat_range fun j => reload.ctxByte (0x200000 + j)]
      exact List.map_congr_left fun j hj => reload_byte j (List.mem_range.1 hj)
    rw [e, show (0xA4000 : Nat) = 0x80000 + 0x24000 from rfl, List.range_add, List.map_append, List.drop_left' (by simp)]
    apply List.ext_getElem
    · simp [frameRest_length]
    · intro i h1 h2
      simp only [List.getElem_map, List.getElem_range, frameByte]
      rw [if_neg (by omega), Nat.add_sub_cancel_left]
      simp [List.getD, h2]

/-- A context whose oldest matrix entry does one thing. -/
def mhead (op : MOp) : State := withM (base .exe) fun m => { m with mq := [{ op := op, spz := 0#64, pc := 0#64, next := 0, leave := none }] }
def pend0 (failed : Bool) : PendRow := { row := 5, val := 7#4096, flags := 1#8, bank := false, failed := failed, leave := none }
theorem witness_MatrixStreamAndRows :
    (mhead .swap).ctx.place = .active ∧ (mhead .swap).ctx.m.mq.head?.map (·.op) = some .swap ∧ (mhead .swap).ctx.m.busyAcc 7#3 = false ∧
    (∀ r < 16, (mhead .swap).ctx.m.busy (accKey 7#3 (112 + r)) = false ∧
      (mhead .swap).ctx.m.accPoison.contains (accKey 7#3 (112 + r)) = false) ∧
    112 + 16 ≤ 128 ∧ (mhead .swap).ctx.vregFree 31#5 = true ∧ 0 < dRows desc0 ∧ 0 + 1 < 40 ∧
    (mhead .swap).tileBad 0#64 (tileBytes ((mhead .swap).tileByte 0#64) desc0 [0]) = none ∧ (mhead .swap).ctx.m.accPoison = [] := by
  decide +kernel
theorem witness_MatrixStreamAndRows_checks :
    let s (failed : Bool) : State := withM (base .exe) fun m => { m with pend := [pend0 failed] }
    (s false).ctx.m.pend.find? (fun p => !p.failed) = some (pend0 false) ∧ (s true).ctx.m.pend.find? (fun p => p.failed) = some (pend0 true) ∧
    (s false).ctx.place = .active := by decide +kernel
def tileOp (op : MOp) : State := withM (mhead op) fun m => { m with accPoison := [accKey 1#3 0] }
theorem witness_MatrixStreamAndRows_tiles :
    let s := mhead (.load true desc0 0)
    let e : MEntry := { op := .load true desc0 0, spz := 0#64, pc := 0#64, next := 0, leave := none }
    let b := s.beforeMat e
    MatrixHead s e [] ∧ (∀ p ∈ b.ctx.m.pend, p.bank ≠ true) ∧ dRows desc0 ≤ 128 ∧ dCols desc0 ≤ 128 ∧
    b.tileBad 0#64 (tileBytes (b.tileByte 0#64) desc0 (List.range (dRows desc0))) = none ∧ b.ctx.m.busyAcc 0#3 = false ∧
    (∀ i < dRows desc0, b.ctx.m.accPoison.contains (accKey 0#3 i) = false) ∧ dClass desc0 ≠ 1 ∧
    (let h : Held := { spad := true, addr := 0, bytes := [1#8] }
     let s := { s with ctx := { s.ctx with strip := some { strip0 with held := [h] } } }
     (s.beforeMat e).ctx.strip ≠ s.ctx.strip) ∧
    (let s := tileOp (.read 2#5 1#3 0 2)
     s.ctx.m.accPoison.contains (accKey 1#3 0) = true ∧ (∀ r < 2, s.ctx.m.busy (accKey 1#3 (0 + r)) = false) ∧
     s.ctx.vregFree 2#5 = true ∧ s.ctx.strip = none ∧ s.ctx.xh.handler = false ∧ s.ctx.sr.hwin.getLsbD 63 = true ∧ s.ctx.v.vq = [] ∧
     (inHandler s).ctx.xh.handler = true ∧ s.ctx.matHolds (entry (.int .add .i32 1#5 2#5 (.vec 3#5))) = true ∧
     s.ctx.m.mq.map (·.told) = [false] ∧ (inHandler s).tellMat.ctx.xh.handler = true ∧ (inHandler s).tellMat.ctx.m.mq.map (·.told) = [true]) := by
  refine ⟨⟨?_, ?_⟩, ?_, ?_, ?_, ?_, ?_, ?_, ?_, ?_, ?_⟩ <;> decide +kernel
/-- Tiles of 40 by 32: BSPARSE with its bitmap, MX4 with its scales, LOWRANK of rank 3 and BPLANE of 8 planes. -/
def tileOf (class_ fmt more : Nat) : Desc :=
  BitVec.ofNat 128 (128 * 2 ^ 112 + fmt * 2 ^ 57 + 32 * 2 ^ 48 + 40 * 2 ^ 40 + class_ * 2 ^ 61 + 0x10000 * 2 ^ 74 + more)
theorem witness_MatrixStreamAndRows_elements :
    tcvtOk (tileOf 1 2 0) desc0 = true ∧ tcvtOk desc0 (tileOf 1 2 0) = true ∧ tcvtOk (tileOf 4 4 (8 * 2 ^ 108)) desc0 = true ∧
    ([desc0, tileOf 1 2 0, tileOf 2 7 (3 * 2 ^ 100), tileOf 3 3 0, tileOf 4 4 (8 * 2 ^ 108)].map fun d => (dClass d, tzeroOk d)) =
      [(0, true), (1, true), (2, true), (3, true), (4, true)] ∧ dFmt (tileOf 3 3 0) = 3 ∧ dFmt (tileOf 1 6 0) ≠ 2 ∧ dX64 (tileOf 1 6 0) = false ∧
    dFmt desc0 = 2 ∧ dW desc0 = 8 ∧ (List.replicate 128 0).length = 128 ∧
    (bitmapOf (fun k => if k = 0 then 1#8 else 0#8) desc0).testBit (blockBit 0 0) = true ∧ blockBit 16 0 = 8 := by decide +kernel
theorem witness_MatrixStreamAndRows_groups :
    PairNan (.inf false, .fin true 0 0) ∧ PairInf (.inf true, .fin false 1 0) true ∧
    (¬PairNan (.fin false 3 0, .fin false 1 1) ∧ ∀ neg, ¬PairInf (.fin false 3 0, .fin false 1 1) neg) ∧
    (2 : ℚ) ^ (2 : ℤ) ≤ |numVal (.fin false 3 0) * numVal (.fin false 1 1)| ∧
    |numVal (.fin false 3 0) * numVal (.fin false 1 1)| < (2 : ℚ) ^ ((2 : ℤ) + 1) := by
  refine ⟨Or.inr ⟨false, true, 0, Or.inl ⟨rfl, rfl⟩⟩, ⟨true, false, rfl, Or.inr ⟨1, 0, by decide, Or.inl ⟨rfl, rfl⟩⟩⟩, ⟨?_, ?_⟩, ?_, ?_⟩
  · rintro (⟨q, h | h⟩ | ⟨n, k, e, h | h⟩) <;> simp at h
  · rintro neg ⟨n, k, -, h | ⟨m, e, -, h | h⟩⟩ <;> simp at h
  · norm_num [numVal, abs_of_pos]
  · norm_num [numVal, abs_of_pos]
/-- A copy of n bytes within the scratchpad, from offset 0 to offset 0x1000, in chunks of 256 bytes (18 R387). -/
def cpy0 : CpyArgs := { tok := { d := 9#5, et := false }, rsp := false, ss := true, ds := true, a := 1#5, b := 2#5, c := 3#5, mask := none, ck := 0#4 }
def copying (n : Nat) : State := ((base .acc).setX 1#5 0x1000#64).setX 3#5 (BitVec.ofNat 64 n)
def cmd0 : Cmd := { (copying 300).copyCmd .cpy cpy0 0#64 2 with id := 3 }
def issuable (s : State) (i : Instr) (cost : Option Nat) : Bool := (commandOf s i).any fun p =>
  p.1 && s.ready p.2.1 [] && decide (p.2.2.2 = cost) && !s.ctx.tokBusy p.2.2.1.hart p.2.2.1.tok && !s.engineFull p.2.2.1.kind &&
  (!p.2.2.1.mask.isSome || s.ctx.cmds.all fun x => decide (x.mask ≠ p.2.2.1.mask)) &&
  (decide (p.2.2.1.home ≠ .sys) || !s.irrevocable.unsent s.party)
theorem witness_EngineCommandsAreIssued :
    issuable (copying 300) (.cpy cpy0) none = true ∧ issuable (copying 0x100001) (.cpy { cpy0 with ck := 7#4, mask := some 15#4 }) (some 2) = true ∧
    (copying 0x100001).hart = .acc ∧
    [leave0 .acc].find? (fun l => (copying 0x100001).ownLeave .acc l && !l.claimed && decide (l.cost = 2)) = some (leave0 .acc) ∧
    2 ^ 32 ≤ ((copying 0x100000000).x 3#5).toNat ∧ (copying 0x100000000).ready [1#5, 2#5, 3#5] [] = true ∧
    issuable (((base .acc).setX 3#5 0x100000008#64).setX 4#5 0x1000000000000#64) (.gdg { d := 9#5, et := true } 1#5 2#5 3#5 none 0#4) none = true ∧
    issuable (base .acc) (.dsp { d := 9#5, et := false } 1#5) none = true := by decide +kernel
def withCmd (s : State) (k : Cmd) : State := { s with ctx := { s.ctx with cmds := [k] } }
def hasChunk (s : State) (id c : Nat) (k : Cmd) : Bool := decide (s.cmd id = some k) && !k.over_ && decide (c < k.total) && !k.did c
/-- Chunk 1 of a copy from the scratchpad, and of one from memory. -/
theorem witness_ChunksCompleteAndTokensAreWritten_copy :
    (let s := withCmd (copying 300) cmd0
     hasChunk s 3 1 cmd0 = true ∧ cmd0.kind = .cpy ∧ cmd0.rsp = false ∧ cmd0.ss = true ∧ cmd0.ds = true ∧
     min (256 * 2 ^ cmd0.ck) (bits cmd0.c0.toNat 0 32 - 256 * 2 ^ cmd0.ck * 1) = 44 ∧ cmd0.dst.toNat = 0x1000 ∧ cmd0.src.toNat = 0) ∧
    (let k : Cmd := { cmd0 with ss := false, src := 0x10000#64 }
     let s := withCmd (paged (copying 300)) k
     let a := s.loc .read .stream false k.ss k.rsp k.spz k.src 256 44
     let b := a.2.loc .write .stream false k.ds k.rsp k.spz k.dst 256 44
     hasChunk s 3 1 k = true ∧ s.dev.ckpt.saving = false ∧ a.1.contains .parked = false ∧ b.1.contains .parked = false) := by decide +kernel
/-- Two rows of 8 bytes by an index list at scratchpad offset 0x800, of a table of 4 rows at 0x100, to 0x1000. -/
def rows0 (kind : CmdKind) : Cmd :=
  { cmd0 with kind := kind, src := 0x100#64, c0 := 0x400000008#64, c1 := 0x2000000000800#64, total := 2 }
theorem witness_ChunksCompleteAndTokensAreWritten_rows :
    ∀ kind ∈ [CmdKind.cpyr, .cpys, .cpy2],
      let k := rows0 kind
      let s := withCmd (base .acc) k
      let a := s.loc .read .plain false k.ss k.rsp k.spz k.src 0 (cRowb k)
      hasChunk s 3 0 k = true ∧ k.kind = kind ∧ k.next = 0 ∧ a.1.contains .parked = false ∧
      (a.2.loc .write .plain false k.ds k.rsp k.spz k.dst 0 (cRowb k)).1.contains .parked = false ∧ locsBad a.1 = false ∧
      cList k + 4 * 0 + 4 ≤ 0x400000 ∧ listOf s k 0 < cTrows k ∧ cTrows { k with c0 := 8#64 } = 0 ∧
      (s.rowCopies { k with fault := none } false ((List.range (min (2 ^ k.ck) (k.rows - 0))).map (0 + ·))).isSome = true := by
  decide +kernel
/-- A row of 8 bytes of a table in memory at 0x10000, with the list at scratchpad offset 0 and the row at 0x100. -/
def window0 (kind : CmdKind) (dst src : Word) : Cmd :=
  { (base .acc).newCmd kind { d := 9#5, et := false } with
    id := 3, ss := true, ds := true, dst := dst, src := src, c0 := 0x100000008#64, c1 := 0x1000000000000#64, total := 1 }
theorem witness_ChunksCompleteAndTokensAreWritten_gather :
    let k := window0 .gdg 0x100#64 0x10000#64
    let s := withCmd (paged (base .acc)) k
    let r := s.nougatRows k .read false k.src [0]
    s.cmd 3 = some k ∧ k.over_ = false ∧ s.nougatTurn k = true ∧ k.next = 0 ∧ cM k = 1 ∧ listOf s k 0 = 0 ∧ cTrows k = 1 ∧
    (∀ x ∈ r.1, x.2.contains .parked = false) ∧ cList k + 4 * 1 ≤ k.dst.toNat ∧ k.dst.toNat + 1 * cRowb k ≤ 0x400000 := by decide +kernel
theorem witness_ChunksCompleteAndTokensAreWritten_scatter :
    let k := window0 (.gda .f32) 0x10000#64 0x100#64
    let s := withCmd (paged (base .acc)) k
    let r := s.nougatRows k .rmw false k.dst [0]
    s.cmd 3 = some k ∧ k.over_ = false ∧ s.nougatTurn k = true ∧ k.next = 0 ∧ k.total = 1 ∧ k.fault = none ∧ s.dev.ckpt.saving = false ∧
    cM k = 1 ∧ listOf s k 0 = 0 ∧ cRowb k = 8 ∧ r.1.map (·.1) = [0] ∧
    rowFor r.1 0 = (List.range 8).map (fun b => Loc.mem (0x10000 + b)) ∧
    (let u := withCmd (base .acc) k
     ((u.nougatRows k .rmw false k.dst [0]).1.any fun x => locsBad x.2) = true) := by decide +kernel
/-- One row of 64 bytes at scratchpad offset 0x100 with one entry of the package of the number, at 0x10000; as `dsp`, and as `cmb` with
its weight at offset 0x800 (18 R392). -/
def route0 (kind : CmdKind) (entries : List Word) : Cmd :=
  { (base .acc).newCmd kind { d := 9#5, et := false } with
    id := 3, total := 1, routes := entries
    desc := BitVec.ofNat 512 (64 + Ty.f32.code.toNat * 2 ^ 31 + 2 ^ 36 + 0x100 * 2 ^ 128 + 0x800 * 2 ^ 224) }
def routeTo (pkg : Nat) : Word := BitVec.ofNat 64 (2 ^ 63 + pkg * 2 ^ 57 + 0x10000)
def ported (s : State) : State :=
  { s with dev := { s.dev with lnktbl := [(5, 1#96)], ports := [(0, { live := true, seq := 0, fails := 0, since := 0 })] } }
theorem witness_ChunksCompleteAndTokensAreWritten_dispatch :
    (let k := route0 .dsp [0#64]
     hasChunk (withCmd (base .acc) k) 3 0 k = true ∧ k.entries 0 = []) ∧
    (let k := route0 .dsp [routeTo 0]
     let s := withCmd (paged (base .acc)) k
     let r := s.loc .write .plain false false false k.spz (reAddr (routeTo 0)) 0 64
     hasChunk s 3 0 k = true ∧ k.entries 0 = [routeTo 0] ∧ rtRowb k.desc = 64 ∧ rtRows k.desc = 0x100 ∧ s.ownPkg (rePkg (routeTo 0)) = true ∧
     s.dev.ckpt.saving = false ∧ r.1.contains .parked = false ∧ locsBad r.1 = false ∧
     locsBad ((withCmd (base .acc) k).loc .write .plain false false false k.spz (reAddr (routeTo 0)) 0 64).1 = true) ∧
    (let k := route0 .dsp [routeTo 5]
     let s := withCmd (base .acc) k
     hasChunk s 3 0 k = true ∧ k.entries 0 = [routeTo 5] ∧ s.ownPkg (rePkg (routeTo 5)) = false ∧
     s.portTo (dieOf s.ctx.core) (rePkg (routeTo 5)) = none ∧ (ported s).portTo (dieOf s.ctx.core) (rePkg (routeTo 5)) = some 0) := by
  decide +kernel
def reachedOk (r : Reached) (faults : Bool) : Bool := match r with
  | .ok _ q l => decide (q.fault.isSome = faults) && decide (l.map (·.1) = [0])
  | .wait | .dead _ _ _ => false
theorem witness_ChunksCompleteAndTokensAreWritten_combine :
    let k := route0 .cmb [routeTo 0]
    let s := withCmd (paged (base .acc)) k
    hasChunk s 3 0 k = true ∧ k.kind = .cmb ∧ k.next = 0 ∧ k.total = 1 ∧ reachedOk (s.reachEntries k false k.routes.zipIdx) false = true ∧
    reachedOk ((withCmd (base .acc) k).reachEntries k false k.routes.zipIdx) true = true ∧ rtTok k.desc = 1 ∧ rtWgt k.desc = 0x800 ∧
    (rtElem k.desc).width / 8 = 4 ∧ 4 ∣ rtRowb k.desc ∧ reV 0#64 = false ∧ reV (routeTo 0) = true ∧ reV (routeTo 5) = true ∧
    s.ownPkg (rePkg (routeTo 0)) = true ∧ s.ownPkg (rePkg (routeTo 5)) = false ∧
    (s.loc .read .plain false false false k.spz (reAddr (routeTo 0)) 0 64).1.contains .parked = false ∧
    (ported s).portTo (dieOf s.ctx.core) (rePkg (routeTo 5)) = some 0 := by decide +kernel
theorem witness_ChunksCompleteAndTokensAreWritten_token :
    let fin0 : Cmd := { cmd0 with next := 2 }
    let out : Cmd := { (base .acc).newCmd .rtout { d := 9#5, et := false } with id := 4, total := 9 }
    (withCmd (base .acc) fin0).cmd 3 = some fin0 ∧ fin0.over_ = true ∧ fin0.reject = none ∧ fin0.link = none ∧ fin0.fault = none ∧
    (withCmd (base .acc) out).cmd 4 = some out ∧ (base .acc).ctx.ray.rays = [] ∧ (base .acc).remote = [] := by decide +kernel

/-! The ray engine: a layout, a ring header and a micro-program word in memory. -/

/-- What an access of the access hart reads, when it reads; and the state it leaves. -/
def readOf (s : State) (va : Word) (n : Nat) : Option (List Byte) :=
  match s.xlAll (s.req .read) va n with
  | (.ok ps, t) => if t.badPiece ps = none then some (t.ctxBytes ps) else none
  | _ => none
def afterRead (s : State) (va : Word) (n : Nat) : State := (s.xlAll (s.req .read) va n).2
/-- Nodes of 256 bytes with one child, primitives of 36 bytes from 0x400000 (09 R196). -/
def layout0 : BitVec 256 :=
  BitVec.ofNat 256 (15 + 2 ^ 4 + 8 * 2 ^ 16 + 40 * 2 ^ 32 + 48 * 2 ^ 48 + 56 * 2 ^ 56 + 0x400000 * 2 ^ 64 + 36 * 2 ^ 192)
def rayMem (s : State) (words : List (Nat × Nat)) : State :=
  let p := paged s
  { p with mem := words.foldl (fun m w => memPut m w.1 (toBytes 8 w.2)) p.mem }
def ray0 (work : BitVec 1024) (phase : RayPhase) : Ray :=
  { id := 6, rcd := 0#1024, work := work, held := [], reread := false, c := true, nb := List.replicate 256 0#8, pb := none, cand := none,
    mask := [], lstart := 0, count := 0, suspend := false, phase := phase }
def rayed (s : State) (r : List Ray) : State :=
  { s with ctx := { s.ctx with ray := { s.ctx.ray with layout := some layout0, rays := r, focus := 6 } } }
def mayRay (s : State) (kind : CmdKind) (tok : Tok) : Bool :=
  let k := s.newCmd kind tok
  !s.ctx.tokBusy k.hart k.tok && !s.engineFull k.kind && decide (k.mask = none) && (decide (k.home ≠ .sys) || !s.irrevocable.unsent s.party)
def tok9 : Tok := { d := 9#5, et := false }
theorem witness_RayInstructionsComplete_load :
    let s := rayMem (((base .acc).setX 1#5 0x10000#64).setX 2#5 1#64)
      ((List.range 4).map fun k => (0x10000 + 8 * k, bits layout0.toNat (64 * k) 64))
    s.hart = .acc ∧ s.ready [1#5, 2#5] [] = true ∧ (s.x 1#5).toNat % 32 = 0 ∧ layoutOk layout0 = true ∧
    readOf s 0x10000#64 32 = some (toBytes 32 layout0.toNat) ∧ (afterRead s 0x10000#64 32).raysHere = false ∧
    (afterRead s 0x10000#64 32).raysBelow = false ∧ mayRay (afterRead s 0x10000#64 32) .rtlay tok9 = true ∧
    (s.x 2#5).toNat = 1 ∧ readOf s 0x10000#64 8 = some (toBytes 8 (bits layout0.toNat 0 64)) ∧
    (afterRead s 0x10000#64 8).raysHere = false ∧ (afterRead s 0x10000#64 8).raysBelow = false ∧
    mayRay (afterRead s 0x10000#64 8) .rtprog tok9 = true := by decide +kernel
theorem witness_RayInstructionsComplete_inject :
    let b := rayed ((base .acc).setX 1#5 0x10000#64) []
    let s := rayMem { b with ctx := { b.ctx with sr := { b.ctx.sr with rfrb := 0x8000000000020000#64, rdrb := 0x8000000000030000#64 } } }
      [(0x20010, 4), (0x30010, 16)]
    let t := afterRead s 0x20000#64 128
    let u := afterRead t 0x30000#64 128
    s.hart = .acc ∧ s.ready [1#5] [] = true ∧ s.ctx.ray.layout.isSome = true ∧ s.ctx.sr.rfrb.getLsbD 63 = true ∧
    s.ctx.sr.rdrb.getLsbD 63 = true ∧ ringBase s.ctx.sr.rfrb = 0x20000#64 ∧ ringBase s.ctx.sr.rdrb = 0x30000#64 ∧
    (readOf s 0x20000#64 128).any headerOk = true ∧ (readOf t 0x30000#64 128).any headerOk = true ∧ (s.x 1#5).toNat % 128 = 0 ∧
    ((u.contexts.filter fun c => c.core = u.ctx.core).map fun c => c.ray.rays.length).sum < 64 ∧ u.raysBelow = false ∧
    (match u.xlAll (u.req .read) 0x10000#64 128 with
     | (.ok ps, v) => decide (v.engBad ps = none) && mayRay v .rtin tok9
     | _ => false) = true ∧ mayRay s .rtout tok9 = true := by decide +kernel
theorem witness_RayInstructionsComplete_accept :
    let s := rayMem (((base .acc).setX 1#5 0x10000#64).setX 2#5 0x700000000#64) [(0x10018, 0x3F80000000000000)]
    let r := s.xlAll (s.req .rmw .gather) 0x10000#64 128
    let g := r.2.gatherStores (.core r.2.ctx.core) 0x10000 128
    let n : BitVec 1024 := BitVec.ofNat 1024 (g.num (.core g.ctx.core) 0x10000 128)
    s.ready [1#5, 2#5] [] = true ∧ r.1 = .ok [(0x10000, 128)] ∧ r.2.badPiece [(0x10000, 128)] = none ∧ mayRay r.2 .rtacc tok9 = true ∧
    (Machine.accept n 0 7).isSome = true ∧ Machine.accept n 0x40000000 7 = none := by decide +kernel

/-- The record of a ray at node 0x10000 with a reference on its stack; the same with an empty stack, past the one primitive of a leaf. -/
def workA : BitVec 1024 := rsIsp (rsStk (rsCur 0#1024 0x10000) 0 0x20000) 1
def workB : BitVec 1024 := rsLeafi (rsCur 0#1024 (2 ^ 61 + 0x10000)) 1
def rayA : Ray := ray0 workA .run
def rayB : Ray := { ray0 workB .run with mask := [(0, 5)], cand := some (5, 7), nb := (List.replicate 56 0#8).concat 1#8 }
def engineSays (s : State) (va : Word) (n : Nat) : Nat := match s.engRead (freshKey 6) .plain false va n with
  | .ok _ _ _ => 0 | .fault _ _ _ => 1 | .poison _ _ _ => 2 | .hold _ _ => 3
def engineOk (s : State) (va : Word) (n : Nat) : Bool := engineSays s va n = 0
theorem witness_MicroOpsRunTheRay :
    let s (r : Ray) : State := rayed (paged (base .acc)) [r]
    (s rayA).rayAt (s rayA).ctx.ray.focus = some rayA ∧ (s rayB).rayAt (s rayB).ctx.ray.focus = some rayB ∧ rayA.phase = .run ∧
    rayB.phase = .run ∧ (s rayA).ctx.ray.layout = some layout0 ∧ rayA.cand = none ∧ rayB.cand = some (5, 7) ∧ rayA.c = true ∧
    (farthest rayA.mask).getLast? = none ∧ (farthest rayB.mask).getLast? = some (0, 5) ∧ rIsp workB + rayB.mask.length ≤ 8 ∧
    0 < rIsp workA ∧ refBad (rStk workA (rIsp workA - 1)) = false ∧ rIsp workB = 0 ∧ rSdepth workB = 0 := by decide +kernel
theorem witness_MicroOpsRunTheRay_heads :
    let s (r : Ray) : State := rayed (paged (base .acc)) [r]
    let ribs (s : State) : State := { s with ctx := { s.ctx with sr := { s.ctx.sr with rib := [(1, 0x8000000000040000#64)] } } }
    let u (s : State) (r : Ray) : State := (stepCommitted s r).2
    refBad (rCur workA) = false ∧ refOwner (rCur workA) = dieOf (u (s rayA) rayA).ctx.core ∧
    engineOk (u (s rayA) rayA) (refAddr (rCur workA)) 8 = true ∧
    refBad (rCur workB) = false ∧ refOwner (rCur workB) = 1 ∧ dieOf (s rayB).ctx.core = 0 ∧
    (Sparse.get 0#64 (u (ribs (s rayB)) rayB).ctx.sr.rib 1).getLsbD 63 = true ∧
    nodeCount layout0 rayB.nb = 1 ∧ rLeafi workB = 1 ∧ lIxbase layout0 = 0#64 ∧
    (let r : Ray := { rayB with work := rsLeafi workB 0 }
     rLeafi r.work < nodeCount layout0 r.nb ∧ engineOk (u (s r) r) (lPrbase layout0) 8 = true) := by decide +kernel
/-- A ray in the middle of a node; at a malformed reference; one whose node faults; one whose node is poisoned; one that knows its primitive. -/
theorem witness_MicroOpsRunTheRay_words :
    let s (r : Ray) : State := rayed (paged (base .acc)) [r]
    let p (r : Ray) : State := { s r with poison := [0x10000 / 64] }
    let i : BitVec 256 := layout0 ||| BitVec.ofNat 256 (0x500000 * 2 ^ 128)
    let mid : Ray := { rayA with part := List.replicate 8 0#8 }
    let bad : Ray := { rayA with work := rsCur workA 1 }
    let far : Ray := { rayA with work := rsCur workA 0x80000000 }
    mid.part ≠ [] ∧ refBad (rCur mid.work) = false ∧ rayA.part = [] ∧ refBad (rCur bad.work) = true ∧
    engineOk (s mid) (refAddr (rCur mid.work) + 8#64) 8 = true ∧ engineSays (s far) (refAddr (rCur far.work)) 8 = 1 ∧
    engineSays (p rayA) (refAddr (rCur workA)) 8 = 2 ∧ engineOk (s rayA) (lPrbase layout0 + 36#64) 4 = true ∧ rayA.prim = none ∧
    ({ rayB with prim := some 1 } : Ray).prim = some 1 ∧ lIxbase i ≠ 0#64 ∧ engineOk (s rayB) (lIxbase i + BitVec.ofNat 64 (4 * (0 + 0))) 4 = true ∧
    engineSays (s rayB) (0x80000000#64 + BitVec.ofNat 64 (4 * (0 + 0))) 4 = 1 ∧
    (Sparse.get 0#64 (s rayB).ctx.sr.rib 1).getLsbD 63 = false := by decide +kernel
theorem pieces_ok (g : GotPieces) (l : List (Nat × Nat)) (h : (match g with | .ok ps _ => decide (ps = l) | _ => false) = true) :
    ∃ t, g = .ok l t := by
  cases g with
  | ok ps t => exact ⟨t, by simp at h; rw [h]⟩
  | fault _ _ _ => simp at h
  | hold _ _ => simp at h
/-- A ray with a full stack, or with one spilled entry alone, and one child in MASK: node 0x20000; SPILL is `sp`. -/
def spiller (isp depth sp : Nat) : Ray :=
  { ray0 (rset (rsSdepth (rsIsp (rsStk 0#1024 0 0x30000) isp) depth) 768 64 sp) .run with
    mask := [(0, 5)], nb := toBytes 8 0x20000 ++ List.replicate 248 0#8 }
def spilling (r : Ray) : State :=
  let s := rayed (paged (base .acc)) [r]
  { s with mem := memPut s.mem 0x40000 (toBytes 8 0x30000) }
theorem witness_MicroOpsRunTheRay_push :
    let r := spiller 8 0 0x40000
    ∃ r' t, RayRuns (spilling r) layout0 r ∧ Pushes (spilling r) r ((farthest r.mask).map fun p => nodeChild layout0 r.nb p.1) r' t := by
  intro r
  obtain ⟨t, ht⟩ := pieces_ok ((spilling r).engPieces .write .plain false 0x40000#64 8) [(0x40000, 8)] (by decide +kernel)
  have e : BitVec.ofNat 64 (rSpill r.work + 8 * rSdepth r.work) = 0x40000#64 := by decide +kernel
  have kept : ∀ k < 1024, k < 256 ∨ (768 ≤ k ∧ k < 980) ∨ (984 ≤ k ∧ k < 992) ∨ 1008 ≤ k →
      (rsIsp (rsStk (rsStk (rsSdepth r.work 1) 0 0) 7 0x20000) 8).getLsbD k = r.work.getLsbD k := by decide +kernel
  refine ⟨_, t, ⟨by decide +kernel, by decide +kernel, by decide +kernel⟩, _, t, ⟨?_, ?_, fun _ _ => ⟨by decide +kernel, by decide +kernel,
    by decide +kernel, 0x40000, rsIsp (rsStk (rsStk (rsSdepth r.work 1) 0 0) 7 0x20000) 8, e ▸ ht, rfl, by decide +kernel, by decide +kernel, ?_,
    by decide +kernel, fun k hk => ?_⟩⟩, rfl, rfl⟩
  · exact fun h => absurd h (by decide +kernel)
  · exact fun _ h => absurd h (by decide +kernel)
  · decide +kernel
  · by_cases h : k < 1024
    · exact kept k h hk
    · rw [BitVec.getLsbD_of_ge _ _ (by omega), BitVec.getLsbD_of_ge _ _ (by omega)]
/-- What ends a push or a pop: SPILL that is off, a page that faults, a malformed reference; a reload from memory, from the ray's own held
write, and of a poisoned sector. -/
theorem witness_MicroOpsRunTheRay_stack :
    let spoke (k : Acc) (s : State) (va : Word) : Nat := match s.engPieces k .plain false va 8 with
      | .ok ps t => if ps = [(0x40000, 8)] then (if t.engBad ps = none then 1 else 2) else 3 | .fault _ _ _ => 4 | .hold _ _ => 5
    let refs (r : Ray) := (farthest r.mask).map fun p => nodeChild layout0 r.nb p.1
    let off := spiller 8 0 0
    let far := spiller 8 0 0x80000000
    let pop := spiller 0 1 0x40000
    let bad : Ray := { pop with work := rsIsp (rsStk pop.work 0 1) 1 }
    let gone := spiller 0 1 0x80000000
    (∀ r ∈ [off, far, pop, bad, gone], r.phase = .run ∧ (spilling r).rayAt (spilling r).ctx.ray.focus = some r ∧ refs r = [] ++ 0x20000 :: []) ∧
    8 ≤ rIsp off.work ∧ rSpill off.work = 0 ∧ 8 ≤ rIsp far.work ∧ rSpill far.work % 8 = 0 ∧ rSpill far.work ≠ 0 ∧ rSdepth far.work ≠ 65535 ∧
    spoke .write (spilling far) 0x80000000#64 = 4 ∧ 0 < rIsp bad.work ∧ refBad (rStk bad.work (rIsp bad.work - 1)) = true ∧
    rIsp pop.work = 0 ∧ rSdepth pop.work = 1 ∧ rSpill pop.work = 0x40000 ∧ spoke .read (spilling pop) 0x40000#64 = 1 ∧
    spoke .read { spilling pop with poison := [0x40000 / 64] } 0x40000#64 = 2 ∧ spoke .read (spilling gone) 0x80000000#64 = 4 ∧
    rSpill (spiller 0 1 4).work % 8 ≠ 0 ∧
    ({ pop with held := [(0x40000, 9#64)] } : Ray).held = [] ++ (0x40000, 9#64) :: [] := by decide +kernel
/-- A ray along z from the origin, boxes with bounds −1 and 1, and the triangle (0, 0, 1), (1, 0, 1), (0, 1, 1) (18 R399, R400). -/
def straight : BitVec 1024 := rset (rset 0#1024 192 32 0x3F800000) 224 32 0x40000000
theorem witness_MicroOpsRunTheRay_exact :
    (∀ a < 3, (rayOrg straight a).isFin = true ∧ (rayDir straight a).isFin = true) ∧ (f32 (rTmin straight)).isNan = false ∧
    (f32 (rTmax straight)).isNan = false ∧
    boxEntry layout0 straight (List.replicate 8 0#8 ++ toBytes 24 0x3F8000003F8000003F800000BF800000BF800000BF800000) 0 = some 0 ∧
    boxEntry layout0 straight (List.replicate 8 0#8 ++ toBytes 24 0xBF800000BF800000BF800000BF800000BF800000BF800000) 0 = none ∧
    triangle straight [0, 0, 0x3F800000, 0x3F800000, 0, 0x3F800000, 0, 0x3F800000, 0x3F800000] 7 = some (0x3F800000, 7) ∧
    triangle straight [0x3F800000, 0, 0x3F800000, 0x40000000, 0, 0x3F800000, 0x3F800000, 0x3F800000, 0x3F800000] 7 = none := by decide +kernel
/-- A ray whose record waits for the done ring, with the ring's header in memory. -/
def leaving (told : Bool) : Ray := ray0 0#1024 (.out 1 none (if told then some (0x30000#64, .off) else none) 0#64 0#64)
def ringed (tail cap : Nat) (on : Bool) (r : Ray) : State :=
  let b := rayed (base .acc) [r]
  rayMem { b with ctx := { b.ctx with sr := { b.ctx.sr with rdrb := if on then 0x8000000000030000#64 else 0#64 } } }
    [(0x30000, 16), (0x30008, tail), (0x30010, cap)]
def outcome (s : State) (r : Ray) : Nat := match s.produce false 1 r none 0#64 0#64 with
  | .done _ _ => 0 | .full _ => 1 | .blocked _ _ _ _ => 2 | .hold => 3
theorem witness_RingsTakeRecordsAndRaiseFaults :
    (ringed 1 4 true (leaving false)).rayAt 6 = some (leaving false) ∧ (leaving false).phase = .out 1 none none 0#64 0#64 ∧
    outcome (ringed 1 4 true (leaving false)) (leaving false) = 0 ∧ outcome (ringed 0 4 true (leaving true)) (leaving true) = 1 ∧
    outcome (ringed 0 3 true (leaving false)) (leaving false) = 2 ∧ outcome (ringed 0 4 false (leaving true)) (leaving true) = 2 := by
  decide +kernel
/-- What `RingsAnswerTheirState` asks of the reads of the producer, and of the addresses of a slot. -/
theorem witness_RingsTakeRecordsAndRaiseFaults_reads :
    let s := ringed 1 4 true (leaving false)
    let r := leaving false
    (s.ctx.sr.ring 1).getLsbD 63 = true ∧ ((ringed 1 4 false r).ctx.sr.ring 1).getLsbD 63 = false ∧ s.linked 1 = true ∧
    s.dev.ckpt.saving = false ∧
    (match s.engRead r.key .plain false 0x30000#64 128 with
     | .ok h _ t => headerOk h && (match t.engPieces .rmw .gather false 0x30000#64 8 with
        | .ok ps _ => decide (ps = [(0x30000, 8)]) | _ => false)
     | _ => false) = true ∧
    (match (ringed 0 64 true r).engRead r.key .plain false 0x30000#64 128 with | .ok h _ _ => !headerOk h | _ => false) = true ∧
    (match s.engPieces .write .plain false 0x30080#64 (slotSize 1) with
     | .ok ps _ => let at_ (i : Nat) : Nat := (pieceBytes ps).getD (8 * i) 0
        (List.range (slotSize 1 / 8)).all fun i => (List.range (slotSize 1 / 8)).all fun j =>
          decide (i = j) || decide (at_ i + 8 ≤ at_ j) || decide (at_ j + 8 ≤ at_ i)
     | _ => false) = true := by decide +kernel
/-- A poisoned header, one in an unmapped page, and an inbox of another die that no live port reaches. -/
theorem witness_RingsTakeRecordsAndRaiseFaults_blocked :
    let s := ringed 1 4 true (leaving false)
    (match ({ s with poison := [0x30000 / 64] } : State).engRead (leaving false).key .plain false 0x30000#64 128 with | .poison _ _ _ => true | _ => false)
      = true ∧
    (match s.engRead (leaving false).key .plain false 0x80000000#64 128 with | .fault _ _ _ => true | _ => false) = true ∧
    s.linked 3 = false ∧
    (let q : State := { s with ctx := { s.ctx with sr := { s.ctx.sr with rib := [(1, 0#64)] } } }
     (match q.produce false 3 (leaving false) none 0#64 0#64 with | .blocked _ _ _ _ => true | _ => false) = true) := by decide +kernel
theorem witness_RingsTakeRecordsAndRaiseFaults_event :
    let s : State := rayMem { base .acc with ctx := { ctx0 with ray := { ctx0.ray with event := some (0x5000#64, 3#64) } } }
      [(0x1000, 0x300000000000002A)]
    s.ctx.ray.event = some (0x5000#64, 3#64) ∧ s.eventDue = true := by decide +kernel

/-! Lane blocks, the system instructions, launches from a program, leave. -/

def vp0 (words : List BlockWord) (st : VpState) : Vp :=
  { elem := 3, ew := 64, block := 0x4000#64, words := words, pc := 0x4000#64, fctl := 0#64, spz := 0#64, strip := false, regs := [],
    held := [], stores := 0, flags := 0#8, st := st }
def blockOf (l : List Instr) : List BlockWord := l.map fun i => .word i.encode
/-- Memory as `leafAt` has it, with HOLD on the page at 2^30, and a block at 0x4000. -/
def laned (vps : List Vp) : State :=
  let s := ((base .exe).setX 1#5 0x4000#64).setX 2#5 0x40000000#64
  let p := leafAt (2 ^ 59 + 0xCF) { s with ctx := { s.ctx with ctl := 0x8000#64, vps := vps } }
  { p with mem := memPut p.mem 0x4000 (toBytes 8 Instr.end_.encode.toNat) }
/-- 0: retires with one register written, 1: with none, 2: aborts, 3: goes on, 4: waits on a page. -/
def laneEnd (words : List BlockWord) : Nat :=
  match (laned [vp0 words .running]).runVp (vp0 words .running) with
  | .retire q _ => if q.regs = [(5#5, 7#64)] ∧ q.ew * (q.elem + 1) ≤ 4096 ∧ 0 < q.ew then 0 else if q.regs = [] ∧ q.held = [] then 1 else 9
  | .abort _ _ _ _ => 2
  | .go _ _ => 3
  | .hold _ => 4
  | .rewind _ | .stall => 9
theorem witness_LaneBlocksRunAndReport :
    let s := laned []
    s.hart = .exe ∧ s.ready [1#5] [] = true ∧ s.ctx.lbe = true ∧ s.ctx.v.vl ≤ 512 ∧ canonical (s.x 1#5) = true ∧ (s.x 1#5).toNat % 8 = 0 ∧
    s.ctx.vps = [] ∧ s.ctx.v.vq = [] ∧ (laned [vp0 [] (.aborted 4 5#64 6#64)]).ctx.vps = [vp0 [] (.aborted 4 5#64 6#64)] ∧
    s.hs.handler = false ∧ s.ctx.sr.hwin.getLsbD 63 = true ∧
    (let k := withV (laned [vp0 [] .running]) fun v => { v with preds := [(2, 8#512)] }
     ∀ q ∈ k.ctx.vps, (k.ctx.v.pred 2#4).getLsbD q.elem = true) := by decide +kernel
theorem witness_LaneBlocksRunAndReport_start :
    let e := entry (.lanes 2#4 0x4000#64)
    let s := withV (laned []) fun v => { v with preds := [(2, 8#512)], vq := [e] }
    HeadRuns s e [] ∧ e.resume = .fresh ∧ ((List.range e.cap.vl).filter fun k => (s.ctx.v.pred 2#4).getLsbD k) = [3] ∧
    (let r := (({ s with hart := .exe } : State).withSpz e.cap.spz).xlAll (s.req .fetch) 0x4000#64 8
     r.1 = .ok [(0x4000, 8)] ∧ r.2.badPiece [(0x4000, 8)] = none) := by
  refine ⟨⟨?_, ?_, ?_⟩, ?_, ?_, ?_, ?_⟩ <;> decide +kernel
/-- A block that reaches a page which faults, or a poisoned one, and a word that was not read. -/
theorem witness_LaneBlocksRunAndReport_fetch :
    let s := laned []
    let p : State := { s with poison := [0x4000 / 64] }
    let r := s.xlAll (s.req .fetch) 0x4000#64 8
    let v := { vp0 [.unread, .unread] .running with pc := 0x4000#64 }
    (s.xlAll (s.req .fetch) 0x80000000#64 8).1 = .fault 0x80000000#64 0 2 ∧ (s.xlAll (s.req .fetch) 0x40000000#64 8).1 = .hold 0x40000000#64 0 1 ∧
    (p.xlAll (p.req .fetch) 0x4000#64 8).2.badPiece [(0x4000, 8)] = some 0x4000 ∧ v.words[0]? = some .unread ∧ r.1 = .ok [(0x4000, 8)] ∧
    r.2.badPiece [(0x4000, 8)] = none ∧ ([.fault 0x10 0x4000#64 1#64] : List BlockWord)[0]? = some (.fault 0x10 0x4000#64 1#64) ∧
    (∀ x ∈ blockOf [.mswap], ∃ v, x = .word v ∧ decode v ≠ .ok .end_) ∧ (BlockWord.word Instr.end_.encode).isEnd = true := by
  refine ⟨?_, ?_, ?_, ?_, ?_, ?_, ?_, fun x h => ⟨Instr.mswap.encode, ?_, ?_⟩, ?_⟩
  rotate_left 7
  · simpa [blockOf] using h
  all_goals decide +kernel
theorem witness_LaneBlocksRunAndReport_words :
    let s := laned []
    let wide := Instr.add (im .i64)
    let fits := Instr.add (im .i16)
    let p := { vp0 (blockOf [fits, .end_]) .running with ew := 32 }
    let q : State := { s with ctx := s.ctx.asLane p, hart := .exe }
    decode wide.encode = .ok wide ∧ p.ew < laneWidth wide ∧ decode Instr.mswap.encode = .ok .mswap ∧ laneOp .mswap = none ∧
    decode fits.encode = .ok fits ∧ intOf fits = some (.add, im .i16) ∧ (im .i16).t.width ≤ p.ew ∧ q.ready [2#5, 3#5] [1#5] = true ∧
    p.regs = [] ∧ p.stores ≤ 16 ∧ (p.pc + 8#64 - p.block).toNat / 8 < p.words.length := by
  refine ⟨?_, ?_, ?_, ?_, ?_, ?_, ?_, ?_, ?_, ?_, ?_⟩
  rotate_left 3
  · rfl
  all_goals decide +kernel
theorem witness_LaneBlocksRunAndReport_retire :
    let p := vp0 (blockOf [.end_]) .running
    (laned [p]).ctx.vpAt 3 = some p ∧ (laned []).ctx.place = .active ∧ p.strip = false ∧
    laneEnd (blockOf [.li 5#5 7#48, .end_]) = 0 ∧ laneEnd (blockOf [.end_]) = 1 ∧ laneEnd (blockOf [.mswap]) = 2 ∧
    laneEnd (blockOf [.li 2#5 0x40000000#48, .ld (me .i16 .rlx), .end_]) = 4 := by decide +kernel
/-- A block that has released at sys, with a store of its processor on its way to package 5. -/
theorem witness_LaneBlocksRunAndReport_waits :
    let q := { vp0 (blockOf [.end_]) .running with held := [{ spad := false, addr := 0x10000, bytes := [1#8], rel := some .sys }] }
    let t : State := { laned [q] with remote := [{ sent0 with who := [ctx0.vpKey 3] }] }
    t.blockWaits q = true ∧ (laned [q]).blockWaits q = false := by decide +kernel
/-- A block that branches to itself goes on for ever. -/
def looping : Vp := vp0 (blockOf [.b 0#48, .end_]) .running
theorem loop_step : (laned [looping]).laneStep looping = .go looping (laned [looping]) := by
  have h : (match (laned [looping]).laneStep looping with
    | .go q t => decide (q = looping ∧ t = laned [looping])
    | .retire _ _ | .abort _ _ _ _ | .hold _ | .rewind _ | .stall => false) = true := by decide +kernel
  split at h
  · rename_i q t e
    obtain ⟨rfl, rfl⟩ := of_decide_eq_true h
    exact e
  all_goals cases h
theorem loop_run (n : Nat) : State.laneRun n looping (laned [looping]) = .go looping (laned [looping]) := by
  induction n with
  | zero => rfl
  | succ n ih => simp only [State.laneRun, loop_step, ih]
theorem witness_LaneBlocksRunAndReport_goes : (laned [looping]).runVp looping = .go looping (laned [looping]) := loop_run _
theorem witness_SystemCallsReturnAndIdle :
    (inHandler (base .exe)).ready [] [30#5] = true ∧ (inHandler (base .exe)).hs.handler = true ∧ (inHandler (base .exe)).hs.ts = false ∧
    (inHandler (base .exe)).hs.t.tnpc.toNat % 8 = 0 ∧ (inHandler (base .exe)).ctx.sr.tqp.getLsbD 63 = false ∧
    (let s := withV (inHandler (base .exe)) fun v => { v with saved := [entry (.plim 1#4 3#64)] }
     let r : State := { s with ctx := { s.ctx with sr := { s.ctx.sr with tqp := 0x8000000000000100#64 } } }
     r.ctx.sr.tqp.getLsbD 63 = true ∧ r.ctx.v.vq.length + r.ctx.v.saved.length ≤ 64 ∧ r.ctx.v.saved = entry (.plim 1#4 3#64) :: []) ∧
    (base .exe).hs.handler = false ∧ (base .exe).ready [1#5] [] = true ∧ (base .exe).ctx.ray.event = none ∧
    ((base .acc).setWait (.idle true)).hs.wait = .idle true := by decide +kernel

/-- A launch of one item at core 0, and the same waiting for its item to be placed. -/
def rec0 : LRec := BitVec.ofNat 2048 (0x1000 + 0x2000 * 2 ^ 64 + 2 ^ 32 * 2 ^ 128 + 0x10000 * 2 ^ 256 + (1 + 2 ^ 32) * 2 ^ 384)
def launch0 (placed : Bool) : Launch :=
  { id := 1, rcd := rec0, home := 0, dies := [0], viaHost := true, parent := none, ep := 0, methods := [],
    placed := if placed then [(0, 0)] else [], gangs := [], ended := [], placedSinceTick := false, faulted := none, killed := false,
    aborted := none, flags := 0#8, written := false, status := 0 }
theorem witness_ItemsEndAndReport :
    let s (h : HartId) : State := { base h with launches := [launch0 true] }
    (s .acc).hart = .acc ∧ (s .acc).hs.handler = false ∧ (s .exe).hart = .exe ∧ (s .exe).hs.handler = false ∧
    ({ s .exe with ctx := { (s .exe).ctx with ah := { hart0 with run := .stopped } } } : State).ctx.quiet = true ∧
    (launch0 true).id = (s .exe).ctx.launch ∧ (inHandler (s .exe)).hs.handler = true ∧ (s .exe).ready [1#5] [2#5] = true ∧
    (s .exe).drained = true ∧ (s .exe).irrevocable.unsent (s .exe).party = false := by decide +kernel
/-- The record in memory at 0x20000, the address space on, die 0 ready; a context that submits it. -/
def submits : State :=
  let s := (base .exe).setX 1#5 0x20000#64
  let p := rayMem s ((List.range 32).map fun k => (0x20000 + 8 * k, bits rec0.toNat (64 * k) 64))
  { p with nextId := 5 }
def taken (t : Taken) : Nat := match t with | .ok _ _ => 0 | .full _ => 1 | .wait _ _ => 2
theorem witness_ProgramsSpawnJoinAndKill :
    let s := submits
    let t := afterRead s 0x20000#64 256
    s.hart = .exe ∧ s.ready [1#5] [] = true ∧ s.ctx.kids.length < 64 ∧ (s.x 1#5).toNat % 256 = 0 ∧ s.drained = true ∧
    readOf s 0x20000#64 256 = some (toBytes 256 rec0.toNat) ∧ cwOk rec0 = true ∧ t.dieReady (dieOf s.ctx.core) = true ∧ t.irrevocable.unsent t.party = false ∧
    taken ((t.releaseBy .sys).takeLaunch rec0 (dieOf s.ctx.core) false (some (s.ctx.launch, s.ctx.asid))) = 0 := by decide +kernel
theorem witness_ProgramsSpawnJoinAndKill_join :
    let child : Launch := { launch0 true with id := 9, written := true, status := 2 }
    let s : State := { base .exe with launches := [launch0 true, child], ctx := { ctx0 with kids := [9] } }
    s.kids = [child] ∧ s.ready [] [2#5] = true ∧ s.findCw (some s.ctx.asid) 0x999#64 = none ∧
    s.findCw (some s.ctx.asid) 0x10000#64 = some (launch0 true) ∧ s.findCw none (sext64 57 (0x10000 / 8 * 8)) = some (launch0 true) ∧
    s.findCw none (sext64 57 (0x20000 / 8 * 8)) = none ∧ s.dev.lkill.getLsbD 63 = false ∧
    ({ s with dev := { s.dev with lkill := 0x8000000000010000#64 } } : State).dev.lkill.getLsbD 63 = true ∧ s.ctx.launch = (launch0 true).id ∧ s.ctx.held = true := by decide +kernel
theorem witness_LeaveIsGrantedAndReturned :
    let s := (base .exe).setX 1#5 5#64
    let q (cost : Nat) : State := { s with leaveQ := [{ leave0 .exe with cost := cost }] }
    let a (cost : Nat) : State := (q cost).setWait (.leave cost)
    (a 2).leaveQ.find? (fun r => decide (r.die = 0) && (a 2).asks r) = some { leave0 .exe with cost := 2 } ∧ (a 2).pwruse 0 + 2 ≤ (a 2).pwrbud 0 ∧
    (∀ r ∈ (q 2).leaveQ, r.die = 0 → (q 2).asks r = false) ∧ (a 5000).leaveQ.find? (fun r => decide (r.die = 0) && (a 5000).asks r) ≠ none ∧
    (q 5000).pwrbud 0 < (q 5000).pwruse 0 + 5000 ∧
    ((q 5000).setWait (.leave 5000)).hs.wait = .leave 5000 ∧ (q 5000).leaveQ.any ((q 5000).ownLeave (q 5000).hart) = true ∧
    (q 5000).pwrto 0 ≠ 0 ∧ (q 5000).hs.handler = false ∧ (q 5000).ctx.sr.hwin.getLsbD 63 = true ∧ (q 5000).ctx.v.vq = [] ∧
    (let l : Leave := { leave0 .exe with claimed := true }
     let h : State := { s with heavy := [l] }
     l ∈ h.heavy ∧ (∀ c ∈ h.contexts, c.holdsLeave l.id = false) ∧ (Sparse.get 0#64 h.dev.pwruse 0).toNat < 2 ^ 16) := by decide +kernel
theorem witness_LeaveIsGrantedAndReturned_pwr :
    let s := (base .exe).setX 1#5 5#64
    let lowers : State := { s with ctx := { s.ctx with standing := 9 } }
    s.ready [1#5] [2#5] = true ∧ (lowers.x 1#5).toNat ≤ lowers.ctx.standing ∧ lowers.covered ≤ 5 ∧ s.ctx.standing < (s.x 1#5).toNat ∧
    s.heavy = [] ∧ s.leaveQ = [] ∧ s.pwruse 0 + (5 - s.ctx.standing) ≤ s.pwrbud 0 ∧
    2 ^ 16 ≤ (((base .exe).setX 1#5 0x10000#64).x 1#5).toNat := by decide +kernel

/-! Translation, the checkpoint engine, the majority registers. -/

def fetchOf (s : State) (a : Word) : Nat :=
  let u : State := { s with ctx := s.ctx.setHs s.hart { s.hs with ibuf := s.hs.ibuf.filter fun c => c.1 != a.toNat } }
  match u.xlAll (u.req .fetch) a 8 with
  | (.ok ps, t) => if t.badPiece ps = none then 0 else 9
  | (.fault _ _ _, _) => 1
  | (.hold _ _ _, _) => 2
/-- A translation of the page at 0x5000, by an entry that maps HBM with a user bit and a global bit. -/
def page5 : TlbEntry := { die := 0, asid := 0#12, vpn := 5, pages := 1, pte := 0x53CF#64, pteAddr := 0xB028 }
def held0 (va : Word) (pto : Word) : State :=
  let s := (base .exe).setWait (.hold va 1)
  { s with ctx := { s.ctx with sr := { s.ctx.sr with pto := pto } }, tlb := [page5] }
theorem witness_FetchesWalksAndHeldPages :
    (paged (base .exe)).hs.run = .running ∧ fetchOf (paged (base .exe)) 0x8000#64 = 0 ∧ fetchOf (paged (base .exe)) 0x80000000#64 = 1 ∧
    (held0 0#64 0#64).ctx.held = true ∧ ((held0 0#64 0#64).tlb.filter fun t => t.die = dieOf (held0 0#64 0#64).ctx.core)[0]? = some page5 ∧
    partOf (ptePA page5.pte.toNat) = .hbm 0 ∧ (Sparse.get [] (held0 0#64 0#64).dev.xvq 0).length < 1024 ∧
    (held0 0x5000#64 0#64).hs.wait = .hold 0x5000#64 1 ∧ (held0 0#64 0#64).ctx.place = .active ∧ (held0 0#64 0#64).ctx.sr.pto = 0#64 ∧
    (held0 0#64 5#64).ctx.sr.pto ≠ 0#64 ∧ (held0 0#64 5#64).hs.handler = false ∧ (held0 0#64 5#64).ctx.sr.hwin.getLsbD 63 = true ∧
    (held0 0#64 5#64).ctx.v.vq = [] := by decide +kernel
theorem witness_FetchesWalksAndHeldPages_next :
    let s (pc : Word) : State := let p := paged (base .acc); { p with poison := [0x10000 / 64], ctx := p.ctx.setHs .acc { hart0 with pc := pc } }
    let r := (s 0x10000#64).xlAll ((s 0x10000#64).req .fetch) 0x10000#64 8
    (s 0x80000000#64).hs.ibuf = [] ∧ (s 0x80000000#64).pc = 0x80000000#64 ∧ (s 0#64).hs.handler = false ∧
    (s 0#64).ctx.sr.hwin.getLsbD 63 = true ∧ fetchOf (s 0#64) 0x80000000#64 = 1 ∧ r.1 = .ok [(0x10000, 8)] ∧
    r.2.badPiece [(0x10000, 8)] = some 0x10000 := by decide +kernel
theorem witness_TranslationCommandsInvalidate :
    let runs (kind : Nat) : State := { held0 0#64 0#64 with dev := { Dev.reset with xinv := BitVec.ofNat 64 (2 ^ 63 + kind * 2 ^ 59 + 5), rdydie := [(0, 0x10#64)] } }
    let v : Victim := { uo := true, g := true, asid := 0#12, vpn := 5 }
    let queue (s : State) : State := { s with dev := { s.dev with xvq := [(0, [v])], rdydie := [(0, 0x10#64)] } }
    (runs 0).xlateUsable = true ∧ State.reset.anyResident = false ∧ ({ State.reset with launches := [launch0 true] } : State).anyResident = true ∧
    State.reset.dev.xinv.getLsbD 63 = false ∧ (runs 0).dev.xinv.getLsbD 63 = true ∧
    (∀ kind < 4, (runs kind).dev.ckpt.saving = false ∧ (runs kind).ctx.xh.wait = .hold 0#64 1 ∧ (runs kind).xinvClear (runs kind).dev.xinv = true ∧ ((runs kind).dev.xinv.extractLsb' 59 3).toNat = kind) ∧
    Sparse.get [] (queue State.reset).dev.xvq (0#3).toNat = [v] ∧ (queue State.reset).xlateReady (0#3).toNat = true ∧
    Sparse.get [] (queue State.reset).dev.xvq (1#3).toNat = [] ∧
    (∀ kind < 3, let u : State := { runs kind with remote := [{ sent0 with space := 0#12 }] }
      ∃ r ∈ u.remote, r.flying = true ∧ r.asid = none ∧ (kind = 2 ∨ (kind < 2 ∧ r.space = u.dev.xinv.extractLsb' 45 12))) := by decide +kernel
/-- A command of kind k on stacks 0 and 23 runs; every port has 512 GiB. -/
def ckpting (k : Nat) (copied : List Nat) : State :=
  { State.reset with dev := { Dev.reset with
    rdyhub := 0x7FC0#64, cxlGib := (List.range 8).map fun p => (p, 512),
    ckpt := { ctl := BitVec.ofNat 64 (2 ^ 63 + k * 2 ^ 60 + 2 ^ 23 + 1), dst := 0#64, stat := 0x8000000000000000#64,
              cur := BitVec.ofNat 64 (k * 2 ^ 60 + 2 ^ 23 + 1), curDst := 0#64, copied := copied, bad := false } } }
theorem witness_CheckpointsCopyTheStacks :
    let ready : State := { State.reset with dev := { Dev.reset with rdyhub := 0x4000#64 } }
    let fits : State := { ckpting 0 [] with dev := { (ckpting 0 []).dev with ckpt := { Dev.reset.ckpt with dst := 0#64 } } }
    ready.dev.rdyhub.getLsbD 14 = true ∧ ready.dev.ckpt.stat.getLsbD 63 = false ∧ ready.imageFits = false ∧
    fits.dev.rdyhub.getLsbD 14 = true ∧ fits.dev.ckpt.stat.getLsbD 63 = false ∧ fits.imageFits = true ∧ fits.anyResident = false ∧
    fits.stores = [] ∧ ({ fits with launches := [launch0 true] } : State).anyResident = true ∧
    Memory.wf (ckpting 0 []).mem = true ∧ (ckpting 0 []).dev.ckpt.stat.getLsbD 63 = true ∧ 24 * 0x100000 - 1 < 24 * 0x100000 ∧
    (ckpting 0 []).dev.ckpt.cur.getLsbD ((24 * 0x100000 - 1) / 0x100000) = true ∧ (ckpting 0 []).dev.ckpt.cur.extractLsb' 60 3 = 0#3 ∧
    (ckpting 1 []).dev.ckpt.cur.extractLsb' 60 3 = 1#3 ∧ (ckpting 1 []).dev.ckpt.copied.contains 0 = false := by decide +kernel
theorem ckpting_copied (l : List Nat) : (ckpting 0 l).dev.ckpt.copied = l := rfl
theorem ckpting_stat (l : List Nat) : (ckpting 0 l).dev.ckpt.stat = 0x8000000000000000#64 := rfl
theorem ckpting_ctl (l : List Nat) : (ckpting 0 l).dev.ckpt.cur = BitVec.ofNat 64 (0 * 2 ^ 60 + 2 ^ 23 + 1) := rfl
theorem witness_CheckpointsCopyTheStacks_complete :
    (ckpting 0 (List.range 0x200000)).dev.ckpt.stat.getLsbD 63 = true ∧
    ((List.range 24).filter fun k => (ckpting 0 (List.range 0x200000)).dev.ckpt.cur.getLsbD k).length * 0x100000 ≤
      (ckpting 0 (List.range 0x200000)).dev.ckpt.copied.length ∧ (ckpting 0 []).dev.ckpt.cur.extractLsb' 60 3 ≠ 1#3 := by
  rw [ckpting_copied, ckpting_ctl, ckpting_ctl, ckpting_stat, List.length_range]
  decide +kernel
theorem witness_MajorityRegistersAndScrubber :
    let m := majPaged State.reset
    let s : State := { State.reset with correctable := [4] }
    State.reset.anyResident = false ∧ ({ State.reset with launches := [launch0 true] } : State).anyResident = true ∧
    msetValid (m.mset (0#4).toNat) = true ∧ m.anyResident = false ∧ (m.liveReplicas 0#4).length = 3 ∧ msetValid (m.mset (15#4).toNat) = false ∧
    m.dev.ckpt.saving = false ∧ 4 ∈ s.correctable ∧ s.num .sys (64 * 4) 64 = (0#512).toNat ∧ Sparse.get 0#64 s.sideband 4 = 0#64 ∧
    s.stores = [] ∧ s.dev.ckpt.saving = false ∧ s.num .sys (64 * 4) 64 ≠ (1#512).toNat ∧
    (let u := { s with stores := [{ storeOf .acc with addr := 256 }] }
     ∃ w ∈ u.stores, w.addr < 64 * 4 + 64 ∧ 64 * 4 < w.addr + w.bytes.length) ∧ (23#5).toNat < 24 := by decide +kernel

/-! Scheduling, boot, the links, outside accesses. -/

def recAt (words : List (Nat × Nat)) : State :=
  let s : State := { State.reset with dev := { Dev.reset with xatb := 1#64, rdyhub := 2#64, rdydie := [(0, 0x7F#64)] } }
  { s with mem := words.foldl (fun m w => memPut m w.1 (toBytes 8 w.2)) (loadMem [] 0x55) }
def recWords (r : LRec) : List (Nat × Nat) := (List.range 32).map fun k => (0x20000 + 8 * k, bits r.toNat (64 * k) 64)
def full0 (s : State) : State := { s with queues := [(0, List.replicate 128 9)] }
def checked (s : State) (r : LRec) : Nat := match s.checkLaunch 0 none r with | .pass _ _ => 0 | .fail n _ => n | .wait _ _ => 99
def room (s : State) : Bool := match s.checkLaunch 0 none rec0 with
  | .pass ms t => t.roomFor { t.newLaunch rec0 0 true none with methods := ms } | _ => false
theorem witness_SubmissionsAreCheckedAndQueued :
    let s := recAt (recWords rec0)
    let die (w : Word) : State := { State.reset with dev := { Dev.reset with rdydie := [(0, w)] } }
    (Sparse.get 0#64 State.reset.dev.rdydie 0).getLsbD 5 = false ∧ (Sparse.get 0#64 (die 0x20#64).dev.rdydie 0).getLsbD 5 = true ∧
    (die 0x20#64).dieReady 0 = false ∧ s.dieReady 0 = true ∧ s.backed 0x180000000000 = false ∧ s.backed 0x20000 = true ∧
    cwOk (BitVec.ofNat 2048 (s.num .sys 0x20000 256)) = true ∧
    cwOk (BitVec.ofNat 2048 ((recAt [(0x20020, 1)]).num .sys 0x20000 256)) = false ∧
    BitVec.ofNat 2048 (s.num .sys 0x20000 256) = rec0 ∧ taken (s.pkgEvent.takeLaunch rec0 0 true none) = 0 ∧
    taken ((full0 s).pkgEvent.takeLaunch rec0 0 true none) = 1 ∧ checked s rec0 = 0 ∧ checked s 0#2048 = 2 ∧ room s = true ∧
    room (full0 s) = false := by decide +kernel
/-- A submission that stands once nothing holds it, on a host port that is ready no more; and a new one of Brioche after a boot that failed. -/
theorem witness_SubmissionsAreCheckedAndQueued_after :
    let s := recAt (recWords rec0)
    let p : State := { s with dev := { s.dev with lsub := [(0, BitVec.ofNat 64 (2 ^ 63 + 0x20000))], lsubHost := [0], rdyhub := 0#64 } }
    let f : State := { s with dev := { s.dev with bootstat := BitVec.ofNat 64 (2 ^ 62 + 2 ^ 8) } }
    p.pendingLsub 0 = some (0x200#44, true) ∧ p.dev.ckpt.restoring = false ∧ (Sparse.get 0#64 p.dev.rdydie 0).getLsbD 5 = true ∧
    p.dieReady 0 = true ∧ p.backed 0x20000 = true ∧ BitVec.ofNat 2048 (p.num .sys 0x20000 256) = rec0 ∧
    taken (p.pkgEvent.takeLaunch rec0 0 true none) = 0 ∧ f.pendingLsub 0 = none ∧ f.dev.bootstat.getLsbD 62 = true ∧
    s.dev.bootstat.getLsbD 62 = false ∧ (Sparse.get 0#64 f.dev.rdydie 0).getLsbD 5 = true := by decide +kernel
/-- The method table of one entry at 2^30, a page with HOLD; a submission that stands; a restore that runs. -/
def recHold : LRec := BitVec.ofNat 2048 (rec0.toNat + 2 ^ 40 * 2 ^ 128 + 0x40000000 * 2 ^ 192)
theorem witness_SubmissionsAreCheckedAndQueued_stands :
    let s := recAt (recWords recHold)
    let h := leafAt (2 ^ 59 + 0xC7) { s with mem := [] }
    let u : State := { s with mem := (recWords recHold).foldl (fun m w => memPut m w.1 (toBytes 8 w.2)) h.mem }
    let p : State := { s with dev := { s.dev with lsub := [(0, BitVec.ofNat 64 (2 ^ 63 + 5 * 256))], lsubHost := [0] } }
    let r : State := { s with dev := { s.dev with ckpt := { s.dev.ckpt with cur := 0x1000000000000001#64, stat := 0x8000000000000000#64 } } }
    taken (u.pkgEvent.takeLaunch recHold 0 true none) = 2 ∧ cwOk recHold = true ∧ BitVec.ofNat 2048 (u.num .sys 0x20000 256) = recHold ∧
    u.dieReady 0 = true ∧ u.backed 0x20000 = true ∧ u.pendingLsub 0 = none ∧ u.dev.ckpt.restoring = false ∧
    r.dev.rdyhub.getLsbD 1 = true ∧ ({ r with dev := { r.dev with rdyhub := 0#64 } } : State).dev.rdyhub.getLsbD 1 = false ∧
    p.pendingLsub 0 = some (5#44, true) ∧ r.dev.ckpt.restoring = true ∧ r.pendingLsub 0 = none ∧
    (Sparse.get 0#64 r.dev.rdydie 0).getLsbD 5 = true := by decide +kernel
def waiting (ep : Nat) (others : List Context) : State :=
  let l : Launch := { launch0 false with ep := ep }
  { State.reset with
    launches := [l, { launch0 true with id := 2 }], queues := [(ep, [1])], others := others
    dev := { Dev.reset with rdydie := [(0, 0x7F#64)], cmap := [(0, 1#64)], csa := [(0, 0x8000000000800000#64)] } }
def victim : Context := { Context.empty 0 1 with place := .active, launch := 2, ctl := 0x4000#64, ah := hart0, xh := hart0 }
theorem witness_ItemsArePlacedInTurn :
    let s := waiting 0 []
    s.launch 1 = some (launch0 false) ∧ gangLevel (lSched rec0) = none ∧ s.placeable (launch0 false) 0 0 = true ∧
    s.hasTurn (launch0 false) (dieOf 0) = true ∧ s.admits .free (launch0 false) 0 0 = true ∧
    (let l : Launch := { launch0 false with ep := 7 }
     let u := waiting 7 [victim]
     u.launch 1 = some l ∧ u.placeable l 0 0 = true ∧ u.hasTurn l (dieOf 0) = true ∧ u.somewhere .free l 0 (dieOf 0) = false ∧
     u.admits .swap l 0 0 = true ∧ u.activeOn 0 = some victim ∧ u.midMajority 0 = false ∧ l.ep = 7 ∧ (u.candidateEp 0).isSome = true ∧ u.bestCandidate l 0 0 = true) ∧
    (let t : State := { s with launches := [launch0 false], dev := { s.dev with rdyhub := 0x8000#64 } }
     t.dev.rdyhub.getLsbD 15 = true ∧ s.dev.rdyhub.getLsbD 15 = false ∧ (launch0 false).resident = true ∧ (launch0 false).placedSinceTick = false ∧ (launch0 false).placed.length < (launch0 false).total ∧
     (launch0 false).id ∈ t.dieQueue 0 (launch0 false).ep ∧ (∀ k < 8, (t.dieQueue k ((launch0 false).ep + 1)).length < 128)) := by
  decide +kernel
theorem witness_SwapsCompletionsAndScans :
    let spilling : Context := { victim with place := .spilling }
    let spilled : Context := { victim with place := .spilled }
    (waiting 7 [spilling]).contexts.find? (fun c => decide (c.core = 0) && decide (c.place = .spilling)) = some spilling ∧
    spilling.m.pend = [] ∧ (waiting 7 [spilling]).dev.ckpt.saving = false ∧
    (waiting 7 [spilled]).contexts.find? (fun c => decide (c.core = 0) && decide (c.place = .spilled) && c.held) = some spilled ∧
    (∀ d ∈ (waiting 7 [spilled]).contexts, d.core = 0 → d.bank ≠ spilled.bank → d.held = false) ∧ spilled.save = none := by decide +kernel
theorem witness_SwapsCompletionsAndScans_done :
    let l : Launch := { launch0 true with ended := [0] }
    let s : State := { recAt [] with launches := [l] }
    let r := s.releaseLaunch l.id
    s.launch 1 = some l ∧ s.launchDone l = true ∧
    (r.xl { core := Config.coresPerDie * l.home, asid := lAsid l.rcd, k := .write } (lCw l.rcd)).1 = .ok 0x10000 ∧
    ({ sent0 with who := [freshKey 1] } : Remote).flying = true ∧ freshKey 1 ∈ ({ sent0 with who := [freshKey 1] } : Remote).who ∧
    (let k : Launch := { launch0 true with id := 2, parent := some 1, killed := true }
     let p : Launch := { l with killed := true }
     let u : State := { base .exe with launches := [p, k], ctx := { ctx0 with launch := 2 } }
     u.launch 1 = some p ∧ p.killed = true ∧ k ∈ u.launches ∧ k.parent = some 1 ∧ k.resident = true ∧ u.noContext 2 = false) := by decide +kernel
theorem witness_SwapsCompletionsAndScans_scan :
    let s : State := { State.reset with dev := { Dev.reset with scanctl := 0xB000000000000003#64 } }
    let m : State := { State.reset with dev := { Dev.reset with cmap := [(7, BitVec.ofNat 64 (2 ^ 63))] } }
    m.scanning = none ∧ m.mapped 511 = true ∧ m.coreHeld 511 = false ∧ State.reset.mapped 511 = false ∧ s.scanning = some 3 ∧
    (base .exe).coreHeld 0 = true := by decide +kernel
theorem witness_BootResetAndDeviceRegisters :
    (8#4).toNat ≤ 8 ∧ State.reset.dev.bootstat.getLsbD 62 = false ∧ (State.reset.dev.bootstat.extractLsb' 0 8).toNat < 2 ∧
    (let b : State := { State.reset with dev := { Dev.reset with bootstat := 2#64 } }
     b.dev.bootstat.getLsbD 62 = false ∧ 2 ≤ (b.dev.bootstat.extractLsb' 0 8).toNat) ∧
    (let f : State := { State.reset with dev := { Dev.reset with bootstat := BitVec.ofNat 64 (2 ^ 62 + 2 ^ 8) } }
     f.dev.bootstat.getLsbD 62 = true ∧ f.dev.unloaded = []) ∧ State.reset.regUsable .xatb = false ∧
    1 ≤ (3#8).toNat ∧ (3#8).toNat ≤ 3 ∧ State.reset.dev.unloaded = [] ∧
    ({ State.reset with dev := { Dev.reset with unloaded := [(some 7, 8)] } } : State).dev.unloaded.contains (some (7#3).toNat, (8#4).toNat) = true ∧ (1#8).toNat = (State.reset.dev.bootstat.extractLsb' 0 8).toNat + 1 ∧ (1#8).toNat ≠ 5 ∧
    partOf (0x5000000010000#52).toNat = .device 0x10000 ∧ devReg 0x10000 = some .xatb ∧ devReg 0x18 = none ∧
    partOf (0x5000000000018#52).toNat = .device 0x18 ∧ partOf (0x50000000C0000#52).toNat = .device 0xC0000 ∧
    partOf (0x5000000071FF8#52).toNat = .device (0x71000 + 8 * 511) := by decide +kernel
/-- The registers at the ends of their arrays; the readiness of XLATE, PWR and CKPT. -/
theorem witness_BootResetAndDeviceRegisters_plain :
    ([0x50000000C0008#52, 0x50000000C04F0#52, 0x50000000C04F8#52, 0x5000000070038#52, 0x5000000060700#52, 0x5000000060708#52,
      0x5000000010178#52, 0x5000000030008#52, 0x5000000040000#52].map fun a => match partOf a.toNat with | .device o => o | _ => 0) =
      [0xC0008, 0xC0100 + 16 * 63, 0xC0108 + 16 * 63, 0x70000 + 8 * 7, 0x60000 + 0x100 * 7, 0x60008 + 0x100 * 7, 0x10100 + 8 * 15, 0x30008,
       0x40000] ∧
    (let s : State := { State.reset with dev := { Dev.reset with rdydie := [(7, 0x12#64)], rdyhub := 0x4000#64 } }
     (Sparse.get 0#64 s.dev.rdydie 7).getLsbD 1 = true ∧ s.xlateUsable = true ∧ s.dev.rdyhub.getLsbD 14 = true ∧
     s.dev.bootstat.getLsbD 62 = false) := by decide +kernel
def request0 (way : Way) (cmd : Option Nat) : Remote :=
  { pkg := 5, asid := none, addr := 0, bytes := [1#8], atomic := false, bad := false, way := way,
    by_ := { core := 0, bank := 0, hart := .acc, cmd := cmd } }
theorem witness_LinkPortsAndRemoteRequests :
    let ctl : Word := BitVec.ofNat 64 (2 ^ 63 + 2 * 2 ^ 61 + 3 * 2 ^ 30)
    let live (fails : Nat) : State := { State.reset with dev := { Dev.reset with ports := [(5, { live := true, seq := 0, fails := fails, since := 0 })] } }
    State.reset.dev.bootstat.getLsbD 62 = false ∧ (95#7).toNat < 96 ∧ (ctl.extractLsb' 61 2).toNat = 2 ∧ ctl.extractLsb' 30 8 ≠ 0#8 ∧
    ((0x6000000000000000#64 : Word).extractLsb' 61 2).toNat = 3 ∧ ((live 17).port (5#7).toNat).live = true ∧
    (Sparse.get 0#64 (live 17).dev.linjctl (5#7).toNat).getLsbD 63 = false ∧ 17 ≤ ((live 17).port (5#7).toNat).fails ∧
    ((live 16).port (5#7).toNat).fails < 17 ∧
    (let s : State := { live 16 with remote := [request0 .arrived none, request0 (.over 5) none] }
     s.remote = [request0 .arrived none] ++ request0 (.over 5) none :: [] ∧ (request0 .arrived none).way ≠ .over 5) := by decide +kernel
/-- The page at 2^30 maps the start of package 5's window, which is usable. -/
def remotePage (h : HartId) : State :=
  let s := leafAt (Config.remoteBase + 5 * Config.remoteBytes - 2 ^ 18 + 0xC7) ((base h).setX 2#5 0x40000000#64)
  { s with dev := { s.dev with lnken := 0x20#64 } }
theorem witness_LinkPortsAndRemoteRequests_windows :
    let s := remotePage .acc
    let pa := Config.remoteBase + 5 * Config.remoteBytes
    let w := s.xlAll (s.req .write .direct true) 0x40000000#64 4
    let a := s.xlAll (s.req .rmw .gather true) 0x40000000#64 4
    s.ctx.lane = none ∧ partOf pa = .remote 5 0 ∧ s.addr (ad 2#5) = 0x40000000#64 ∧ w.1 = .ok [(pa, 4)] ∧ w.2.remoteUsable pa = true ∧
    a.1 = .ok [(pa, 4)] ∧ a.2.remoteUsable pa = true ∧ s.drained = true ∧ s.hart = .acc ∧ s.ready [2#5, 1#5] [] = true ∧
    s.ready [2#5, 3#5] [1#5] = true ∧ s.ready [2#5, 3#5, 1#5] [1#5] = true ∧ s.portTo (dieOf s.ctx.core) 5 = none ∧
    (ported s).portTo (dieOf s.ctx.core) 5 = some 0 ∧ ((ported s).xlAll (s.req .write .direct true) 0x40000000#64 4).1 = .ok [(pa, 4)] ∧
    s.hs.handler = false ∧ s.ctx.sr.hwin.getLsbD 63 = true ∧ canonical 0x40000000#64 = true ∧ s.dev.xatb.getLsbD 0 = true ∧
    s.cached s.ctx.core s.ctx.asid 0x40000000 = none ∧ a.2.irrevocable.inFlight { core := 0, bank := 0, hart := .acc, cmd := none } [(pa, 4)] = false ∧
    (let f : State := { ported s with remote := [sent0] }
     f.irrevocable.inFlight { core := 0, bank := 0, hart := .acc, cmd := none } [(pa, 4)] = true ∧
     (∃ r ∈ f.irrevocable.remote, r.flying = true ∧ f.party ∈ r.who) ∧
     (f.remote.find? fun x => x.flying && x.overlaps { sent0 with bytes := [0#8, 0#8] }) = some sent0) ∧
    (match s.walk s.ctx.asid 0x40000000 with
     | .leaf e _ level => !pteMAJ e && decide (leafPA e level 0x40000000 = pa)
     | .fault _ _ => false) = true := by decide +kernel
theorem witness_LinkPortsAndRemoteRequests_lost :
    let s : State := { base .acc with agenda := [{ core := 0, bank := 0, hart := .acc, act := .instr }], remote := [request0 (.lost 3) none] }
    let t := ({ s with agenda := [] } : State).focus 0 0 .acc
    t.lostRequest = some (0, 3) ∧ t.hs.handler = false ∧ t.ctx.sr.hwin.getLsbD 63 = true ∧ t.hart = .acc := by decide +kernel
theorem witness_LinkPortsAndRemoteRequests_incoming :
    partOf (0x17FFFFFFFF8#41).toNat = .hbm 23 ∧ State.reset.stores = [] ∧ State.reset.dev.ckpt.saving = false ∧
    State.reset.poisoned 0x17FFFFFFFF8 8 = false ∧ 8 ≤ Ty.width .i8 ∧ State.reset.num .sys 0x17FFFFFFFF8 8 = (0#64).toNat ∧
    State.reset.num .sys 0x17FFFFFFFF8 8 ≠ (1#64).toNat := by decide +kernel
theorem witness_OutsideAccessesAndVisibility :
    let s := recAt []
    let w : PStore := { addr := 0x100, bytes := [1#8], core := 0, level := .core, own := 0, who := [], grp := 0, sync := [] }
    partOf (0x1000#52).toNat = .hbm 0 ∧ s.backed (0x1000#52).toNat = true ∧ s.poisoned 0x1000 8 = false ∧ s.dev.ckpt.saving = false ∧
    s.dev.rdyhub.getLsbD 1 = true ∧ s.dev.bootstat.getLsbD 62 = false ∧ partOf (0x18000000000#52).toNat = .hole ∧
    (let p : PStore := { w with level := .pkg }
     let u : State := { s with stores := [p] }
     u.stores[0]? = some p ∧ p.covers 0x100 = true ∧ u.stores.take 0 = [] ∧ u.dev.ckpt.saving = false ∧
     (let r : PStore := { p with level := .sys }
      View.sys.sees r = true ∧ (View.core 0).sees r = true ∧ r.covers 0x100 = true ∧ r.grp = 0)) ∧
    ({ s with stores := [w] } : State).stores[0]? = some w ∧ View.sees .sys { w with level := .cluster } = View.sees .sys w ∧
    partOf (64 * (Config.cxlBase / 64)) = .cxl 0 0 ∧ 64 * (24 * 2 ^ 30 - 1) < 24 * 2 ^ 36 ∧ s.poison.contains (24 * 2 ^ 30 - 1) = false ∧ s.correctable.contains (24 * 2 ^ 30 - 1) = false := by
  decide +kernel
theorem witness_StepKeepsMemoryCanonical :
    let s := State.reset.withFetchWord 64 0x300000000000002A
    Memory.wf s.mem = true ∧ (match step s with | .next _ => true | _ => false) = true := by decide +kernel
theorem witness_TrapInTheHandlerEndsTheItem :
    ((base .acc).ctx.setHs .acc { hart0 with t := { hart0.t with hstat := 1#64 } }).ah.t.hstat.getLsbD 0 = true ∧
    (base .acc).ctx.place = .active ∧
    (inHandler (base .exe)).ctx.v.vq = [] ∧ (inHandler (base .exe)).hs.handler = true ∧ State.reset.ctx.v.vq = [] ∧
    State.reset.ctx.sr.hwin.getLsbD 63 = false := by decide +kernel

/-- A spilled context whose save area, at 0x800000, reads as it was written. -/
def swappedOut : Context := { victim with place := .spilled, save := some (0x800000, 0) }
def areaByte (i : Nat) : Byte := byteOf (Config.saveArea (0x100000 * 0 + i / 8)).toNat (i % 8)
def stored (n : Nat) : State := { waiting 7 [swappedOut] with mem := (List.range n).map fun i => (0x800000 + i, areaByte i) }
theorem stored_bytes (n : Nat) : (stored n).bytes .sys 0x800000 n = (List.range n).map areaByte := by
  unfold State.bytes
  refine List.map_congr_left fun i hi => ?_
  have h2 : (stored n).stores = [] := rfl
  have h3 : (stored n).mem = (List.range n).map fun i => (0x800000 + i, areaByte i) := rfl
  unfold State.byte State.byteBy memGet
  rw [h2, h3]
  exact get_range 0#8 areaByte 0x800000 n i (List.mem_range.1 hi)
theorem stored_contexts (n : Nat) : (stored n).contexts = (waiting 7 [swappedOut]).contexts := rfl
theorem stored_clean (n k : Nat) : (stored n).poisoned 0x800000 k = false := rfl
theorem witness_SwapsCompletionsAndScans_back :
    (stored saveBytes).contexts.find? (fun c => decide (c.core = 0) && decide (c.place = .spilled) && c.held) = some swappedOut ∧
    (∀ d ∈ (stored saveBytes).contexts, d.core = 0 → d.bank ≠ swappedOut.bank → d.held = false) ∧
    swappedOut.save = some (0x800000, 0) ∧ (stored saveBytes).bytes .sys 0x800000 saveBytes = areaBytes 0 ∧
    (stored saveBytes).poisoned 0x800000 saveBytes = false := by
  rw [stored_contexts, stored_bytes, stored_clean]
  exact ⟨by decide +kernel, by decide +kernel, rfl, rfl, rfl⟩

/-! ## Single steps, with results that the spec states -/

/-- A value of the state after an instruction. -/
def after {α : Type} (s : State) (i : Instr) (f : State → α) : Option α :=
  match exec i s with
  | .next t => some (f t)
  | .fault _ | .refused _ => none
def xs (a b : Word) : State := ((base .exe).setX 2#5 a).setX 3#5 b
def x1 (t : State) : Word := t.x 1#5

/-- 14 R289, R291: 127 + 1 wraps in 8 bits and is sign-extended. -/
theorem test_add_wraps : after (xs 0x7F#64 1#64) (.add (im .i8)) x1 = some 0xFFFFFFFFFFFFFF80#64 := by decide +kernel
/-- 14 R291: the high half of (−128) × (−128) = 0x4000. -/
theorem test_mulh : after (xs 0x80#64 0x80#64) (.mulh (im .i8)) x1 = some 0x40#64 := by decide +kernel
/-- 14 R292: −128 / −1, and a division by zero. -/
theorem test_div_corners :
    after (xs 0x80#64 0xFF#64) (.div (im .i8)) x1 = some 0xFFFFFFFFFFFFFF80#64 ∧
    after (xs 0x80#64 0#64) (.div (im .i8)) x1 = some 0xFFFFFFFFFFFFFFFF#64 := by decide +kernel
/-- 14 R291: a shift counts modulo the width. -/
theorem test_sra_count : after (xs 0x80#64 9#64) (.sra (im .i8)) x1 = some 0xFFFFFFFFFFFFFFC0#64 := by decide +kernel
/-- 14 R296: the two words of a constant. -/
theorem test_constant :
    after (base .exe) (.li 7#5 0x3504F3330000#48) (fun t => t.x 7#5) = some 0x3504F3330000#64 ∧
    after ((base .exe).setX 7#5 0x3504F3330000#64) (.lih 7#5 0x3F35#16) (fun t => t.x 7#5) = some 0x3F353504F3330000#64 := by decide +kernel
/-- 14 R299: 1.5 + 2.5 = 4.0. -/
theorem test_fadd : after (xs 0x3FC00000#64 0x40200000#64) (.fadd (fb .f32 .rne false)) x1 = some 0x40800000#64 := by decide +kernel
/-- 06 R137, R140: 1000 saturates to 448 in E4M3 and raises SAT. -/
theorem test_fcvt_saturates :
    after (xs 0x447A0000#64 0#64) (.fcvt .e4m3 .f32 .rne true 1#5 2#5) (fun t => (x1 t, t.hs.fstat &&& Flag.sat)) = some (0x7E#64, Flag.sat) := by
  decide +kernel
/-- 14 R302: the class of −0, and of the code 0x7F of E4M3. -/
theorem test_fcls :
    after (xs 0x80000000#64 0#64) (.fcls (un .f32)) x1 = some 8#64 ∧ after (xs 0x7F#64 0#64) (.fcls (un .e4m3)) x1 = some 0x200#64 := by
  decide +kernel
/-- 14 R304: three words back; `jcall x31` jumps to the old x31. -/
theorem test_branches :
    after (xs 0#64 0#64) (.bz 2#5 0x3FFD#14) (fun t => t.pc) = some 0xFE8#64 ∧
    after ((base .exe).setX 31#5 0x3000#64) (.jcall 31#5) (fun t => (t.pc, t.x 31#5)) = some (0x3000#64, 0x1008#64) := by decide +kernel
/-- 14 R305: the head leaves the queue; `qlvl` counts. -/
theorem test_queues :
    after (withQ (base .exe) 0 [5#64, 6#64]) (.qrd 1#5 0#3) (fun t => (x1 t, t.queue 0#3)) = some (5#64, [6#64]) ∧
    after (withQ (base .exe) 0 [5#64, 6#64]) (.qlvl 1#5 0#3) x1 = some 2#64 := by decide +kernel
/-- 15 R309, 05 R148: a request beyond the greatest length of a full-width row of 32-bit elements, 128. -/
theorem test_setvl : after (xs 1000#64 0#64) (.setvl 1#5 2#5 none (some 2#8)) (fun t => (x1 t, t.ctx.v.vl)) = some (128#64, 128) := by decide +kernel

/-- The oldest entry of a queue of one, over elements 0 to 3 of 32 bits: v2 holds 1, 2, 3, −4 and v3 holds 10. -/
def vecs (op : VOp) : State := withV (base .exe) fun v =>
  let v := (((v.setElem 32 2#5 0 0 1).setElem 32 2#5 0 1 2).setElem 32 2#5 0 2 3).setElem 32 2#5 0 3 0xFFFFFFFC
  { (v.setElem 32 3#5 0 3 10) with vq := [entry op] }
/-- 15 R317, R318, R320. -/
theorem test_vadd : after (vecs (.int .add .i32 1#5 2#5 (.vec 3#5))) (.vectorEntryExecute none)
    (fun t => (t.ctx.v.elem 32 1#5 0 0, t.ctx.v.elem 32 1#5 0 3, t.ctx.v.vq.length)) = some (1, 6, 0) := by decide +kernel
theorem test_vcmp : after (vecs (.icmp .lt .i32 4#4 2#5 (.val 3#64))) (.vectorEntryExecute none) (fun t => t.ctx.v.pred 4#4) = some 0xB#512 := by
  decide +kernel
theorem test_vred : after (vecs (.red .add .i32 1#5 2#5)) (.vectorEntryExecute none) (fun t => t.ctx.v.elem 32 1#5 0 0) = some 2 := by decide +kernel
theorem test_pcnt : after (withV (vecs (.pcnt 1#5 4#4)) fun v => { v with preds := [(4, 0x1B#512)] }) (.vectorEntryExecute none)
    (fun t => x1 t) = some 3#64 := by decide +kernel
/-- 07 R164: `mvld` with VL = 0 leaves GM. -/
theorem test_mvld_empty :
    let e := memEntry (.mvLoad .f32 1#5 false 0x10000#64 .rlx false none)
    let e := { e with cap := { e.cap with vl := 0 } }
    after (withV (memState e) fun v => { v with gm := [(1, 5#5)] }) (.vectorEntryExecute none) (fun t => t.ctx.v.mask 1) = some 5#5 := by
  decide +kernel
/-- 07 R158: the worked example. -/
theorem test_blades : bladeProduct 7 12 = some (true, 13) ∧ bladeProduct 12 7 = some (false, 13) := by decide

/-- 16 R335: a byte loaded under a signed type. -/
theorem test_load : after (rayMem (xs 0x10000#64 0#64) [(0x10000, 0x80)]) (.ld (me .i8 .rlx)) x1 = some 0xFFFFFFFFFFFFFF80#64 := by decide +kernel
/-- 16 R335: the low half of a register, little-endian; the byte beside it keeps its value. -/
theorem test_store : after (rayMem ((xs 0x10000#64 0#64).setX 1#5 0x12345678#64) [(0x10000, 0xFF0000)]) (.st (me .n16 .rlx))
    (fun t => (List.range 3).map fun i => t.byte (.core 0) (0x10000 + i)) = some [0x78#8, 0x56#8, 0xFF#8] := by decide +kernel
/-- 16 R345: an atomic add gives the old value and writes the sum. -/
theorem test_amo : after (rayMem (xs 0x10000#64 3#64) [(0x10000, 7)]) (.amo .add (am .i64 .rne 1#5))
    (fun t => (x1 t, t.byte (.core 0) 0x10000)) = some (7#64, 10#8) := by decide +kernel
/-- 16 R352: the arrival that completes phase 0 returns 0 and starts phase 1; one too many traps. -/
theorem test_bara :
    after barState (.bara 1#5 2#5 1#5) (fun t => (x1 t, objPhase (t.ctx.objWord 16), objArr (t.ctx.objWord 16))) = some (0#64, 1, 0) ∧
    after barState (.bara 1#5 2#5 2#5) (fun t => t.hs.t.tcause) = some 0x0C#64 := by decide +kernel
/-- 11 R240, 18 R403: `svc` enters the handler with TNPC past it. -/
theorem test_svc : after (base .acc) (.svc 42#14) (fun t => (t.hs.t.tcause, t.hs.t.tinfo, t.hs.t.tpc, t.hs.t.tnpc)) =
    some (0x13#64, 42#64, 0x1000#64, 0x1008#64) := by decide +kernel
/-- 14 R305, 08 R174: the hart that QDIR does not let write. -/
theorem test_wrong_side : after (base .exe) (.qwr 0#3 1#5) (fun t => t.hs.t.tcause) = some 0x12#64 := by decide +kernel
/-- 18 R386, R387: the second chunk of 44 bytes; the token of the command counts its bytes. -/
theorem test_copy :
    let s : State := { copying 300 with ctx := { (copying 300).ctx with cmds := [cmd0], spad := { Spad.start with bytes := [(299, 9#8), (300, 8#8)] } } }
    after s (.chunkComplete 3 1) (fun t => (t.ctx.spad.byte (0x1000 + 299), t.ctx.spad.byte (0x1000 + 300))) = some (9#8, 0#8) := by decide +kernel
/-- 10 R213: a launch that has waited for a tick is raised. -/
theorem test_tick :
    let s := waiting 0 []
    after { s with launches := [launch0 false], dev := { s.dev with rdyhub := 0x8000#64 } } .tick (fun t => (t.dieQueue 0 0, t.dieQueue 0 1)) =
      some ([], [1]) := by decide +kernel
/-- 10 R209: a submission to a die that is not ready. -/
theorem test_lsub : after { State.reset with dev := { Dev.reset with rdydie := [(0, 0x20#64)], rdyhub := 2#64 } } (.lsubSubmit 0#3 1#44 true)
    (fun t => Sparse.get 0#64 t.dev.lsub 0) = some 0x5000000000000100#64 := by decide +kernel
/-- 01 R25: XATB keeps its base and enable. -/
theorem test_xatb : after { State.reset with dev := { Dev.reset with rdydie := [(3, 0x10#64)] } } (.deviceRegisterWrite 0x5000000010000#52 0xFFFFFFFFFFFFFFFF#64) (fun t => t.dev.xatb) =
    some 0x000FFFFFFFFF8001#64 := by decide +kernel

end Sys2Proof.Tests
end

namespace Sys2Proof.Claims
open Sys2Proof.Machine

/-! ## Jumps to a register's value (13 R287) -/

/-- A misaligned target traps before the jump or its link has changed the state. -/
theorem jump_misaligned (s : State) (t : Word) (link : Bool) (h : t.toNat % 8 ≠ 0) :
    s.jump t link = .trap (alignTrap t 8) s := if_pos h

/-- An instruction that jumps to register `a`'s value once its registers are free takes ALIGN when that value is misaligned. -/
theorem Traps.of_misaligned_jump {i : Instr} {s : State} {a : Reg} {ws : List Reg} {link : Bool}
    (hi : exec i s = runBoth (fun s => s.whenReady [a] ws fun s => s.jump (s.x a) link) s)
    (hr : s.ready [a] ws = true) (h : (s.x a).toNat % 8 ≠ 0) : Traps i s 0x06 (s.x a) 8#64 := by
  have he : exec i s = conclude s (.trap (alignTrap (s.x a) 8) s) := by
    rw [hi, runBoth, State.whenReady_ready _ _ _ _ hr, jump_misaligned _ _ _ h]
  exact Traps.of_exec (alignTrap (s.x a) 8) he (show Cause.align ≠ Cause.machineCheck by decide) rfl rfl

/-- Settles O10: `jr`, `jcall` and `ret` are one jump through a register, which raises ALIGN before it writes the link. -/
theorem misalignedJumpTrapsAlign : Obligations.MisalignedJumpTrapsAlign := by
  unfold Obligations.MisalignedJumpTrapsAlign
  refine ⟨fun a s h => ⟨fun hr => ?jr, fun hr => ?jcall⟩, fun s h hr => ?ret⟩
  case jr => exact Traps.of_misaligned_jump (link := false) rfl hr h
  case jcall => exact Traps.of_misaligned_jump (link := true) rfl hr h
  case ret => exact Traps.of_misaligned_jump (link := false) rfl hr h

end Sys2Proof.Claims

namespace Sys2Proof.Claims
open Sys2Proof.Machine

/-! ## Integer operations as bit-vector operations (14 R289) -/

theorem width_pos (t : Ty) : 0 < t.width := by cases t <;> decide

theorem low_eq_toNat_lowBits (t : Ty) (a : Word) : low t a = (lowBits t a).toNat :=
  (BitVec.toNat_setWidth ..).symm

theorem toSigned_toNat {w : Nat} (x : BitVec w) : toSigned w x.toNat = x.toInt := by
  simp [toSigned, BitVec.toInt_eq_toNat_cond, Nat.mod_eq_of_lt x.isLt]

theorem ofSigned_eq_toNat_ofInt (w : Nat) (i : Int) : ofSigned w i = (BitVec.ofInt w i).toNat := by
  simp [ofSigned, BitVec.toNat_ofInt]

/-- Ext of 14 R289: a signed type reads the value as two's complement, an unsigned one fills with zeros. -/
theorem ext_toNat (t : Ty) (x : BitVec t.width) : ext t x.toNat = extBits t x := by
  unfold ext extBits
  split
  next => rw [sext64, toSigned_toNat, BitVec.signExtend]
  next => rw [Nat.mod_eq_of_lt x.isLt, BitVec.ofNat_toNat]

theorem extBits_zero (t : Ty) {w : Nat} : extBits t (0#w) = 0#64 := by
  unfold extBits
  split <;> simp [BitVec.signExtend]

/-- An integer operation whose F is that of `intBits` at every width gives it on the low bits, extended. -/
theorem intResult_eq_extBits {op : IOp} (h : ∀ {w : Nat} (x y : BitVec w), intF op w x.toNat y.toNat = (intBits op x y).toNat)
    (t : Ty) (a b : Word) : intResult op t a b = extBits t (intBits op (lowBits t a) (lowBits t b)) := by
  rw [intResult, low_eq_toNat_lowBits, low_eq_toNat_lowBits, h, ext_toNat]

/-! ## Division (14 R292) -/

section
variable {w : Nat} (x y : BitVec w)

/-- The signed quotient modulo 2^w; only the least value divided by −1 leaves the range. -/
theorem ofInt_tdiv_toInt : BitVec.ofInt w (x.toInt.tdiv y.toInt) = x.sdiv y :=
  BitVec.eq_of_toInt_eq (by rw [BitVec.toInt_ofInt, BitVec.toInt_sdiv])

theorem ofInt_tmod_toInt : BitVec.ofInt w (x.toInt.tmod y.toInt) = x.srem y := by
  rw [← BitVec.toInt_srem, BitVec.ofInt_toInt]

theorem toNat_eq_zero_iff : y.toNat = 0 ↔ y = 0#w := by
  rw [← BitVec.toNat_inj, BitVec.toNat_zero]

theorem srem_allOnes (hw : 0 < w) : x.srem (BitVec.allOnes w) = 0#w := by
  rw [← ofInt_tmod_toInt, BitVec.toInt_allOnes, if_pos hw, Int.tmod_neg, Int.tmod_one]
  rfl

theorem intF_div : intF .div w x.toNat y.toNat = (intBits .div x y).toNat := by
  simp only [intF, intBits, toSigned_toNat, ofSigned_eq_toNat_ofInt, ofInt_tdiv_toInt, toNat_eq_zero_iff]
  split
  next => exact BitVec.toNat_allOnes.symm
  next => rfl

theorem intF_divn : intF .divn w x.toNat y.toNat = (intBits .divn x y).toNat := by
  simp only [intF, intBits, toNat_eq_zero_iff]
  split
  next => exact BitVec.toNat_allOnes.symm
  next => exact BitVec.toNat_udiv.symm

theorem intF_rem : intF .rem w x.toNat y.toNat = (intBits .rem x y).toNat := by
  simp only [intF, intBits, toSigned_toNat, ofSigned_eq_toNat_ofInt, ofInt_tmod_toInt, toNat_eq_zero_iff]
  split <;> rfl

theorem intF_remn : intF .remn w x.toNat y.toNat = (intBits .remn x y).toNat := by
  simp only [intF, intBits, toNat_eq_zero_iff]
  split
  next => rfl
  next => exact BitVec.toNat_umod.symm

end

/-- Settles O6, for operands of every width: each division member is its bit-vector operation, with the first row of R292 where
the divisor is 0. The second row needs no case of its own in the model: it is the quotient modulo 2^w, and a remainder by −1 is 0. -/
theorem divisionCoversEveryCase : Obligations.DivisionCoversEveryCase := by
  unfold Obligations.DivisionCoversEveryCase
  refine ⟨fun t a b _ => ?rows, ?examples⟩
  case examples => decide
  case rows =>
    dsimp only
    rw [intResult_eq_extBits intF_div, intResult_eq_extBits intF_divn, intResult_eq_extBits intF_rem, intResult_eq_extBits intF_remn]
    generalize lowBits t a = x
    generalize lowBits t b = y
    simp only [intBits, BitVec.ofNat_eq_ofNat]
    refine ⟨fun hy => ?byZero, fun hx hy => ?overflow, fun ⟨hy, _⟩ => ?signed, fun hy => ?unsigned⟩
    case byZero => simp only [if_pos hy, and_self]
    case overflow =>
      have hy0 : y ≠ 0#t.width := hy ▸ BitVec.allOnes_eq_zero_iff.not.mpr (width_pos t).ne'
      have hdiv : x.sdiv y = BitVec.intMin t.width := by rw [hx, hy, ← BitVec.neg_one_eq_allOnes, BitVec.intMin_sdiv_neg_one]
      have hrem : x.srem y = 0#t.width := by rw [hy, srem_allOnes x (width_pos t)]
      rw [if_neg hy0, if_neg hy0, hdiv, hrem]
      exact ⟨rfl, extBits_zero t⟩
    case signed => simp only [if_neg hy, ofInt_tdiv_toInt, ofInt_tmod_toInt, and_self]
    case unsigned => simp only [if_neg hy, BitVec.udiv_def, BitVec.umod_def, and_self]

end Sys2Proof.Claims
